-- ==== Sys2Proof/Word.lean ====
section
/-! DEFINITION. The plain words of the model: bytes, lists of bytes, and the type of the sparse tables by which
every numbered group of units (tiles, shanks, ports, slots, bytes of memory) is held as plain data. -/

namespace Sys2Proof

/-- One byte. -/
abbrev Byte := BitVec 8

/-- Bytes in ascending address order. -/
abbrev Bytes := List Byte

/-- A sparse table: pairs of key and value, keys rising. A key that is not listed reads as the default, which is one
value for each table and is given at each access. `Tab.set` (Machine/Bits.lean) lists no default; the stacked memory
is always in that canonical form. -/
abbrev Tab (α : Type) := List (Nat × α)

end Sys2Proof
end

