-- ==== Sys2Proof/Syntax.lean ====
section
/-! DEFINITION. The commands of the block: one constructor of `Instr` for each row of spec/opcode_table.json,
and the types of their operands. The table gives no operand fields, so the operands are the model's: each
command carries what its happening brings from outside the module (a written value, a sensor reading, the
cells' errors, a partner's flit) and names the unit it concerns; everything else is read from the state. -/

namespace Sys2Proof

/-- Who sent a command that the Cobbler carries out: a mailbox slot (R380) or a pod head by RELAY_CMD (R352). -/
inductive Origin where
  | slot (n : Nat)
  | relay (dev seq : Nat)
  deriving DecidableEq, Repr

/-- The agent on whose behalf memory is accessed (Tables 8.6, 9.2, 18.3). -/
inductive Requester where
  | tile (t : Nat)        -- a tile program
  | operand (t : Nat)     -- operand fetch of an operation: A rows, bias, scales
  | stationary (t : Nat)  -- operand fetch of the stationary B and its scales, a streaming read
  | output (t : Nat)      -- output path of an operation
  | walker (t : Nat)      -- page walker: directory and leaf entries
  | frame (t : Nat)       -- page walker: frames, a streaming read
  | awl (a : Nat)
  | host                  -- BAR2
  | port (p : Nat)        -- a pod partner's request
  | module                -- the trace writer and the Cobbler's own accesses (Table 18.3)
  deriving DecidableEq, Repr

/-- Which part of a 64-bit direct register one write covers (R362). -/
inductive RegPart where
  | lower | upper | whole
  deriving DecidableEq, Repr

/-- Errors of the cells as one read finds them: sector 0-3 of the line, symbol 0-35 of the code word
(32 data bytes, then 4 check bytes) and the bits that differ (R187), or symbol 36-38 for a copy of the dead bit
(R192). -/
structure CellError where
  sector : Nat
  symbol : Nat
  flip   : Byte
  deriving DecidableEq, Repr

/-- A byte of a line that arrives changed by a shank crossing: bytes 0 to 127 of the line, bytes 128 to 135 and 136 to 143 of
the guard words of its first and second beat (R168, R169). -/
structure LaneError where
  byte : Nat
  flip : Byte
  deriving DecidableEq, Repr

/-- One line as another module of the pod returns it: 128 bytes, bit i of `poison` for sector i, or a request
status of Table 12.3 other than OK. -/
structure RemoteLine where
  addr   : Nat
  status : Nat
  data   : Bytes
  poison : Nat
  deriving DecidableEq, Repr

/-- What the rest of the pod answers to the reads and writes a command makes of it; a line that is not listed has no
answer within 100 ms (status TIMEOUT). -/
abbrev Remote := List RemoteLine

/-- How a module read of host memory ended (R371). -/
inductive HostCpl where
  | data (bs : Bytes)
  | ep (bs : Bytes)
  | unsupported
  | abort
  deriving DecidableEq, Repr

/-- The configuration-space controls of the function that the host writes together with Bus Master Enable
(R359, R364, R370): Command, Device Control and Device Control 2. -/
structure HostCfg where
  busMaster  : Bool
  memSpace   : Bool
  relaxed    : Bool
  maxPayload : Nat
  maxRead    : Nat
  tag10      : Bool
  tag14      : Bool
  cplDisable : Bool
  cplUs      : Nat
  bar0       : Nat := 0           -- addresses written to BAR0 and BAR2
  bar2       : Nat := 0
  aerMask    : Nat := 0x400000    -- AER uncorrectable mask and severity
  aerSev     : Nat := 0x462030
  deriving DecidableEq, Repr

/-- A sensor group (Table 16.1): a base-die hot spot h0-h31, a tier M1-M8, a side stack s0-s11, or the coolant
sensors of the module (0 inlet, 1 outlet). -/
inductive Group where
  | hot (h : Nat)
  | tier (m : Nat)
  | side (i : Nat)
  | coolant
  deriving DecidableEq, Repr

/-- One sensor's answer at a sample, in thousandths of a degree; none when it does not answer (R426). -/
structure Reading where
  group : Group
  idx   : Nat
  value : Option Int
  deriving DecidableEq, Repr

/-- What the thermal model puts out for one group at a tick (R430, R437, R439), in thousandths of a degree. The
model's parameters are in the firmware image and not in the spec, so these come with the tick. -/
structure Prediction where
  group : Group
  ahead : Int      -- 8 ms ahead at the present power
  idle  : Int      -- 8 ms ahead at idle power
  present : Int    -- the model's present-time estimate (R426)
  uncorrected : Int  -- a tier's uncorrected estimate
  deriving DecidableEq, Repr

/-- A defect that the fitting finds in rows (Table 15.5): unit (shank or side stack), tier or pseudo-channel,
bank, row. -/
structure RowDefect where
  unit : Nat
  sub  : Nat
  bank : Nat
  row  : Nat
  deriving DecidableEq, Repr

/-- What the NOR flash holds intact when the boot ROM reads it (R459, R460, R416): the two slots, the selector's copies
(CRC of the newer and of the older), and the entries of the ledger's two copies whose CRC fails. -/
structure FlashCheck where
  slotA    : Bool
  slotB    : Bool
  sel      : Bool
  other    : Bool
  bad      : List Nat
  otherBad : List Nat
  deriving DecidableEq, Repr

/-- What a partner's TRAIN flit carried (Table 11.5). -/
structure TrainBody where
  version     : Nat
  port        : Nat
  resumeValid : Bool
  resumeSeq   : Nat
  session     : Nat
  serial      : Nat
  deriving DecidableEq, Repr

/-- A bit that arrives wrong on a lane of a port: the lane as it is wired, and the bit's place in the lane's share of the
codeword in hand, behind the Gray decoder: 1,360 bits, after the 40 of an alignment marker where one goes before it (R307,
R309). -/
structure WireError where
  lane : Nat
  bit  : Nat
  deriving DecidableEq, Repr

/-- A flit on its way in: the 256 bytes that the partner sent, and the errors of the codeword that carries the last of
them, where one more must be decoded for it. -/
structure RxFlit where
  flit : Bytes
  errs : List WireError
  deriving DecidableEq, Repr

/-- How the lanes of a port turn out to be wired in training (R307): in reversed order, and which are inverted. -/
structure Wiring where
  reversed : Bool
  inverted : Nat
  deriving DecidableEq, Repr

/-- A SIGNAL of a tile, or of the hub where none is named (R345): issued, or released once the messages before it have been
answered. -/
inductive SignalStep where
  | issue (tile : Option Nat) (dst op addr value : Nat)
  | release (req : Nat)
  deriving DecidableEq, Repr

/-- A COLLECTIVE (R346): received on a channel of a port, or issued by a tile or the hub of this module, its root. -/
inductive CollStep where
  | received (p vc : Nat)
  | issue (tile : Option Nat) (op addr mask : Nat) (data : Bytes)
  deriving DecidableEq, Repr

/-- What the rail sensors measured over one power window of 100 µs (R66), in µJ: each timing domain's energy, numbered
as `PACE_MON`; by cluster the tiles' share of it and the ballast's; and everything else, the fixed rails outside the
timing domains with the conversion loss. -/
structure RailEnergy where
  domain  : List Nat
  tiles   : List Nat
  ballast : List Nat
  other   : Nat
  deriving DecidableEq, Repr

/-- Integer operations of the scalar units (Tables 3.5 and 8.3 name the kinds; the spec gives no function
codes, so the operation is an operand of the row). -/
inductive IntOp where
  | add | sub | and | or | xor | shl | shr | sar | lt | ltu | eq | mul
  deriving DecidableEq, Repr

/-- Where an instruction takes its second operand. -/
inductive Form where
  | register | immediate
  deriving DecidableEq, Repr

/-- Control operations. Targets are instruction indices (the spec does not give how a target is encoded). -/
inductive CtlOp where
  | branch (cond : IntOp) (negate : Bool) (target : Nat)
  | jump (target : Nat)
  | jumpReg
  | loop (count : Nat) (length : Nat)   -- the next `length` instructions, run `count` times
  deriving DecidableEq, Repr

/-- Element types of vector lanes. -/
inductive Lane where
  | fp32 | bf16 | int32
  deriving DecidableEq, Repr

/-- Vector operations (Tables 3.5 and 8.3). -/
inductive VecOp where
  | add | sub | mul | fma | min | max | cmpLt | cmpEq | select
  | reduce | exp | recip | rsqrt
  | broadcast (lane : Nat) | insert (lane : Nat) | extract (lane : Nat)
  deriving DecidableEq, Repr

/-- Conversions of the tile's vector unit (R131). -/
inductive TileConv where
  | fromFp32 (fmt : Nat)      -- FP32 lanes to a format of Table 3.4, packed in 32-bit lanes
  | toFp32 (fmt : Nat)        -- widening, exact
  | toMx (fmt : Nat)          -- 32 lanes of two registers to an MX block
  | xfToFp32 | fp32ToXf       -- XF640 line in the local buffer and lane 0
  deriving DecidableEq, Repr

/-- Conversions of an awl (Table 8.3): packing or unpacking the low or high half. -/
inductive AwlConv where
  | pack (fmt : Nat) (high : Bool)
  | unpack (fmt : Nat) (high : Bool)
  deriving DecidableEq, Repr

/-- Addressing of a tile's vector local-buffer access (Table 3.5). -/
inductive LbMode where
  | strided (stride : Nat)
  | indexed
  deriving DecidableEq, Repr

/-- An access to a side-stack line at its controller (R209). -/
inductive SideAccess where
  | read (sectors : Nat)
  | write (data : List (Option Byte))
  | add (code mask : Nat) (data : Bytes)
  deriving DecidableEq, Repr

/-- The commands of the block, in the order of spec/opcode_table.json. -/
inductive Instr where
  -- power input (01)
  | powerApplication (vin : Nat)
  | standbyRailRegulation (straps : Nat)
  | startWaitExpiry
  | startWaitRestart (vin : Nat) (seatOpen : Bool)
  | seatSenseOpen
  | seatSenseClose
  | inputRemoved (vin : Nat)
  | inputUndervoltage (vin : Nat) (sameMicrosecond : Bool)
  | inputOvervoltage (vin : Nat) (sameMicrosecond : Bool)
  | inputOvercurrent (iin : Nat) (sameMicrosecond : Bool)
  | shutdownRecordWrite
  -- PCIe reset and link (13)
  | perstPulse
  | perstDeassert
  | pcieLinkUp (speed width : Nat) (flit : Bool)
  -- bring-up (15)
  | stage0End (flash : FlashCheck) (us : Nat)
  | stage1End (rails : Nat) (networkOk : Bool) (groups : List (Nat × Nat)) (us : Nat)
  | coolantWaitMet (groups : List (Nat × Nat)) (waitMs : Nat)
  | coolantWaitTimeout
  | stage2End (rows : List RowDefect) (tiersGood : Nat) (sidesGood : Nat) (sideRows : List RowDefect) (us : Nat)
  | stage3End (crcFails : List (Nat × Nat)) (us : Nat)
  | stage4End (units : List (Nat × Nat)) (tiles : List Nat) (us : Nat)
  | stageBudgetTimeout
  | cobblerWatchdog (lockstepMismatch : Bool)
  -- pace, power and modes (02, 10)
  | paceMonitorWindow (n pace : Nat)
  | powerWindow (watts : Nat) (rails : RailEnergy)
  | safetyRampDownEnd
  | opPointChange
  | portPark (p : Nat)
  | disciplineChange
  | reductionChange
  -- reads that change state, and register writes
  | paceMonRead (n off size : Nat)
  | tierStatRead (i off size : Nat)
  | periodicStatRead (i off size : Nat)
  | portStatRead (p off size : Nat)
  | identTimebaseRead (off size : Nat)
  | shankStatWrite (t value : Nat)
  | sideStatWrite (i value : Nat)
  | memEccCfgWrite (part : RegPart) (value : Nat)
  | bar2WinWrite (part : RegPart) (value : Nat)
  | l2CfgWrite (part : RegPart) (value : Nat)
  | ptmCtlWrite (part : RegPart) (value : Nat)
  | msixModWrite (v value : Nat)
  | msixTableWrite (v dword value : Nat)
  | bar0Write (off size value : Nat) (ep : Bool)
  | mailboxSlotWrite (slot off : Nat) (data : List (Option Byte))
  -- the PCIe function (13)
  | bar2Resize (code : Nat)
  | busMasterEnable (cfg : HostCfg)
  | ptmEnable (on : Bool)
  | powerStateChange (d3hot : Bool)
  | flr
  | hotReset
  | dlDown
  | bar2Read (off len : Nat)
  | bar2Write (off : Nat) (data : List (Option Byte)) (ep : Bool)
  | ptmDialog (master delay : Nat)
  | msixHoldoffExpiry (v : Nat)
  | hostReadCompletion (tag : Nat) (r : HostCpl) (rd : Remote)
  | hostCompletionTimeout (tag : Nat)
  | mailboxScan
  -- commands of the Cobbler (14)
  | summary (o : Origin)
  | summarySnapshot
  | stageReport (o : Origin)
  | setMode (o : Origin)
  | setNetworkMode (o : Origin)
  | setNetworkModeLoad (o : Origin) (rd : Remote)
  | setNetworkModeUnload (o : Origin)
  | setReduction (o : Origin)
  | modelLoad (o : Origin) (rd : Remote)
  | modelEvict (o : Origin)
  | taskDefine (o : Origin)
  | taskEnable (o : Origin) (rd : Remote)
  | taskSubmit (o : Origin) (rd : Remote)
  | gatherTimerExpiry (task : Nat)
  | taskAbort (o : Origin)
  | periodicDefine (o : Origin)
  | periodicEnable (o : Origin)
  | seqCreate (o : Origin)
  | seqExtend (o : Origin)
  | seqFree (o : Origin) (rd : Remote)
  | lend (o : Origin)
  | lendProceed (region : Nat)
  | returnRegion (o : Origin)
  | awlRun (o : Origin) (rd : Remote)
  | pin (o : Origin)
  | unpin (o : Origin)
  | discardCfg (o : Origin)
  | discard (o : Origin)
  | discardProceed (o : Origin)
  | streamDefine (o : Origin)
  | streamEnable (o : Origin)
  | intakeDefine (o : Origin)
  | completionDefine (o : Origin)
  | podConfig (o : Origin)
  | podSend (o : Origin)
  | routeSet (o : Origin)
  | fwStage (o : Origin) (rd : Remote)
  | fwVerify (o : Origin)
  | fwCommit (o : Origin) (flashOk : Bool)
  | attest (o : Origin)
  | ledgerRead (o : Origin)
  | ledgerClear (o : Origin) (rd : Remote)
  | countersRead (o : Origin)
  | traceCfg (o : Origin)
  | thermalCfg (o : Origin)
  | coolantCfg (o : Origin)
  | stackReset (o : Origin)
  -- intake and streams (14)
  | intakePoll (area : Nat) (rd : Remote)
  | streamTransfer (sub : Nat) (rd : Remote)
  | streamTransferDone (sub : Nat)
  -- the array (03, 05)
  | dispatchOperation (rd : Remote)
  | operationEnd (rd : Remote)
  | arrayBarrierRelease (order : List Nat) (rd : Remote)
  | arrayResidue (tile unit : Nat)
  | pageWalk (entry chunk page : Nat) (rd : Remote)
  | tileScalarInteger (t : Nat) (op : IntOp) (form : Form)
  | tileControl (t : Nat) (op : CtlOp)
  | tileLbScalar (t : Nat) (store : Bool) (size : Nat) (signed : Bool)
  | tileVectorArith (t : Nat) (op : VecOp) (lane : Lane)
  | tileVectorConvert (t : Nat) (op : TileConv) (round : Nat) (sat : Bool)
  | tileLbVector (t : Nat) (store : Bool) (mode : LbMode)
  | tileMemoryTransfer (t : Nat) (store : Bool) (len : Nat) (rd : Remote)
  | tileAddToLine (t : Nat) (code mask : Nat) (rd : Remote)
  | fence (t : Nat) (rd : Remote)
  | sync (t : Nat)
  | tileIdent (t : Nat) (which : Nat)
  | tileHalt (t : Nat)
  -- stacked memory and side stacks (06, 07)
  | stackLineRead (req : Requester) (a sectors : Nat) (errs again : List CellError) (cross : List LaneError)
  | stackLineWrite (req : Requester) (a : Nat) (data : List (Option Byte)) (errs : List CellError) (cross : List LaneError)
  | rowRemapped (side : Bool) (unit : Nat)
  | guardMismatch (req : Requester) (t : Nat) (write : Bool) (a : Nat) (data : List (Option Byte)) (cross : List LaneError)
  | laneFault (t g : Nat)
  | shankReconfigured (t : Nat)
  | tierRailFailure (m mv : Nat)
  | refreshSlot (m t : Nat)
  | refreshPostponed (m t : Nat)
  | refreshPreempt (m t : Nat)
  | refreshBandDown (m : Nat)
  | bucketLeak
  | patrolScrubRead (side : Option Nat) (errs again : List CellError)
  | sideStackAccess (req : Requester) (a : Nat) (acc : SideAccess) (errs again : List CellError)
  | sideBandwidthWindow (i : Nat)
  | sideLinkCheckFail (i line : Nat)
  | sideStackRetrain (i : Nat) (ok : Bool)
  -- caches and periodic classes (09, 10)
  | l2Read (req : Requester) (a : Nat)
  | l2Write (req : Requester) (a : Nat) (data : List (Option Byte))
  | streamingRead (req : Requester) (a : Nat)
  | addToLine (req : Requester) (a code mask : Nat) (data : Bytes)
  | l2Fill (slice index : Nat) (errs again : List CellError) (cross : List LaneError)
  | thrashWindow
  | periodicRelease (i : Nat)
  | periodicOverrun (i : Nat)
  -- awls (08)
  | awlRunStart (rd : Remote)
  | awlRunEnd (rd : Remote)
  | awlBudgetExpiry
  | awlScalarInteger (a : Nat) (op : IntOp) (form : Form)
  | awlControl (a : Nat) (op : CtlOp)
  | awlScratchScalar (a : Nat) (store : Bool) (size : Nat) (signed : Bool)
  | awlScratchVector (a : Nat) (store : Bool)
  | awlVectorArith (a : Nat) (op : VecOp) (lane : Lane)
  | awlVectorConvert (a : Nat) (op : AwlConv) (towardZero sat : Bool)
  | ldl (a : Nat)
  | ldw (a : Nat)
  | awlLoadReturn (a : Nat) (errs again : List CellError)
  | stl (a : Nat)
  | stw (a : Nat) (errs : List CellError)
  | linv (a : Nat)
  | lhome (a : Nat)
  | send (a : Nat)
  | bcast (a : Nat)
  | tierBusDelivery (m : Nat)
  | recv (a : Nat)
  | bar (a : Nat)
  | awlBarrierRelease
  | awlIdent (a which : Nat)
  | yieldPoint (a : Nat)
  | hold (a : Nat)
  | release (a : Nat)
  | awlHalt (a : Nat)
  -- the Jorelink link (11)
  | trainingAttempt (p : Nat)
  | portUp (p : Nat) (partner : TrainBody) (credits : List Nat) (wiring : Wiring)
  | portTrainingFailed (p step : Nat)
  | cableRemoved (j : Nat)
  | flitData (p : Nat) (f : RxFlit)
  | flitIdle (p : Nat) (f : RxFlit)
  | flitTrain (p : Nat) (f : RxFlit)
  | flitCrcFailure (p : Nat) (f : RxFlit)
  | uncorrectableCodeword (p : Nat) (errs : List WireError)
  | replayReq (p : Nat) (f : RxFlit)
  | nack (p : Nat) (f : RxFlit)
  | creditInit (p : Nat) (f : RxFlit)
  | retrainReq (p : Nat) (f : RxFlit)
  | quarantineNotice (p : Nat) (f : RxFlit)
  | park (p : Nat) (f : RxFlit)
  | replayReqResend (p : Nat)
  | ackTimeoutReplay (p : Nat)
  | ackIdle (p : Nat)
  | creditInitResend (p : Nat) (partner : Option TrainBody)
  | idleInsertion (p : Nat)
  | laneLockLoss (p : Nat) (codewords : Bool)
  | retrainingEnd (p : Nat) (partner : Option TrainBody) (credits : List Nat) (wiring : Wiring)
  | quarantineHoldExpiry (p : Nat)
  -- messages and pods (12)
  | read (p vc : Nat)
  | write (p vc : Nat)
  | add (p vc : Nat)
  | copy (p vc : Nat) (rd : Remote)
  | signal (p vc : Nat)
  | signalSend (k : SignalStep)
  | collective (k : CollStep)
  | resp (p vc : Nat)
  | data (p vc : Nat)
  | mailbox (p vc : Nat)
  | hello
  | relayCmd
  | relayRsp
  | frameReq
  | frameRsp
  | eventFwd
  | frameFree
  | requestTimeout (req : Nat)
  | busyRetry (req : Nat)
  | podMemberMissing (d : Nat)
  -- thermal and coolant (16)
  | sensorSample (rs : List Reading)
  | thresholdClear (g : Group) (throttle : Bool)
  | sensorDisagree (h : Nat)
  | flowSample (reading : Option Nat)
  | thermalModelTick (ps : List Prediction) (ttsMs : Option Nat)
  | tierSensorSuspect (m : Nat) (estimate : Int)
  | coolantCycle (tachHz : Nat)
  | pumpTachLost
  | coolantWarning
  | coolantWarningClear
  | coolantLoss
  | coolantLossClear
  | thermalReport
  -- events and trace (18)
  | rateLimitIntervalEnd (code source : Nat)
  | eventsSuppressed (code : Nat)
  | traceSample
  | traceRecordWrite
  -- SMBus (14)
  | byteRead (code : Nat)
  | wordRead (code : Nat)
  | blockRead
  | alertMaskWrite (value : Nat) (pec : Option Nat)
  | alertStatusWrite (value : Nat) (pec : Option Nat)
  | alertResponse
  -- later rows
  | cableInserted (j : Nat)
  | flitUnknownType (p : Nat) (f : RxFlit)
  | messageUnknownType (p vc : Nat)
  | tileReservedOpcode (t : Nat)
  | awlIllegalInstruction (a : Nat)
  | holdTimeReturn (p : Nat)
  | rateCountBucket (p : Nat)
  | functionMaskClear (enable mask : Bool)
  | completionAreaHostCount (area : Nat) (host : Option Nat)
  | standbyRailLost (vin : Nat)
  deriving DecidableEq, Repr

end Sys2Proof
end

