-- ==== Sys2Proof/Decode.lean ====
section
/-! DEFINITION. The command that a word spells. The opcode table of this block gives no row any bits (every
`fields` list is empty), so no word spells a command. -/

namespace Sys2Proof

/-- The command spelt by the low `nbits` bits of `w`: none, since no row of the table has an encoding. -/
def decodeTableWord (_nbits _w : Nat) : Option Instr := none

end Sys2Proof
end

