-- ==== Sys2Proof/Machine/Bits.lean ====
section
/-! DEFINITION. Bit fields (R14), byte order (R13), two's complement, and the operations of the sparse tables. -/

namespace Sys2Proof

/-- The number that bytes spell, the byte at the lowest address least significant (R13). -/
def leNat : Bytes → Nat
  | [] => 0
  | b :: bs => b.toNat + 256 * leNat bs

/-- The `n` bytes of a number, least significant first (R13). -/
def natLE : Nat → Nat → Bytes
  | 0, _ => []
  | n + 1, v => BitVec.ofNat 8 v :: natLE n (v / 256)

/-- Bits [hi:lo] of a number (R14: both ends included). -/
def bits (v hi lo : Nat) : Nat := (v / 2 ^ lo) % 2 ^ (hi + 1 - lo)

/-- Bit i of a number as a truth value. -/
def bitB (v i : Nat) : Bool := (v / 2 ^ i) % 2 == 1

/-- A field value placed at bit `lo`, cut to `w` bits. -/
def fld (v lo w : Nat) : Nat := (v % 2 ^ w) * 2 ^ lo

/-- A truth value as a bit. -/
def b2n (b : Bool) : Nat := if b then 1 else 0

/-- Saturating addition below a limit. -/
def satAdd (limit a b : Nat) : Nat := min limit (a + b)

/-- A number read as a two's complement integer of `w` bits. -/
def toSigned (w v : Nat) : Int :=
  if v % 2 ^ w < 2 ^ (w - 1) then (v % 2 ^ w : Nat) else ((v % 2 ^ w : Nat) : Int) - (2 ^ w : Nat)

/-- The low `w` bits of an integer in two's complement. -/
def ofSigned (w : Nat) (i : Int) : Nat := (i % ((2 ^ w : Nat) : Int)).toNat

/-- `n` copies of zero. -/
def zeros (n : Nat) : Bytes := List.replicate n 0

/-- `n` bytes of a list from offset `o`, zeros where the list has ended. -/
def slice (bs : Bytes) (o n : Nat) : Bytes :=
  let t := (bs.drop o).take n
  t ++ zeros (n - t.length)

/-- The little-endian number in `n` bytes at offset `o`. -/
def field (bs : Bytes) (o n : Nat) : Nat := leNat (slice bs o n)

/-- The bytes of `new` written over `old` from offset `o` (a byte of `new` that is none leaves the old one). -/
def overlay (old : Bytes) (o : Nat) (new : List (Option Byte)) : Bytes :=
  old.zipIdx.map fun (b, i) =>
    if i < o then b else match new[i - o]? with
      | some (some n) => n
      | _ => b

/-- The value at key `k`; `d` where the table lists nothing. -/
def Tab.get {α : Type} (d : α) : Tab α → Nat → α
  | [], _ => d
  | (k', v) :: t, k => if k = k' then v else Tab.get d t k

/-- The table with `v` at key `k` put in, in its place. -/
def Tab.insert {α : Type} : Tab α → Nat → α → Tab α
  | [], k, v => [(k, v)]
  | (k', v') :: t, k, v =>
    if k < k' then (k, v) :: (k', v') :: t
    else if k = k' then (k, v) :: t
    else (k', v') :: Tab.insert t k v

/-- The table without key `k`. -/
def Tab.erase {α : Type} : Tab α → Nat → Tab α
  | [], _ => []
  | (k', v') :: t, k => if k = k' then Tab.erase t k else (k', v') :: Tab.erase t k

/-- The table that reads `v` at `k`: writing the default removes the entry. -/
def Tab.set {α : Type} [DecidableEq α] (d : α) (t : Tab α) (k : Nat) (v : α) : Tab α :=
  if v = d then Tab.erase t k else Tab.insert t k v

/-- The table with the value at `k` changed by `f`. -/
def Tab.upd {α : Type} [DecidableEq α] (d : α) (t : Tab α) (k : Nat) (f : α → α) : Tab α :=
  Tab.set d t k (f (Tab.get d t k))

/-- Every key of a list given the value `f key`. -/
def Tab.setMany {α : Type} [DecidableEq α] (d : α) (t : Tab α) (ks : List Nat) (f : Nat → α) : Tab α :=
  ks.foldl (fun t k => Tab.set d t k (f k)) t

/-- The canonical form: keys strictly rising, no value equal to the default. -/
def Tab.wf {α : Type} [DecidableEq α] (d : α) : Tab α → Bool
  | [] => true
  | (k, v) :: t => decide (v ≠ d) && t.all (fun e => decide (k < e.1)) && Tab.wf d t

/-- A field of `w` bits from bit `lo` of a record. -/
def dget (d : Bytes) (lo w : Nat) : Nat := bits (field d (lo / 8) ((lo % 8 + w + 7) / 8)) (lo % 8 + w - 1) (lo % 8)

end Sys2Proof
end

