-- ==== Sys2Proof/Machine/Arith.lean ====
section
/-! DEFINITION. Numbers of chapter 4: the element formats and their values (R106-R111), rounding (R113-R115), exact
sums and products, FP32 and BF16 arithmetic (R117, R130), XF640 lines (R121-R123), MX blocks (R112), and add-to-line
(Table 9.5, R263). -/

namespace Sys2Proof.Machine

/-- A number: NaN, an infinity, or (-1)^neg x m x 2^e, with the sign of a zero kept. -/
inductive Num where
  | nan
  | inf (neg : Bool)
  | fin (neg : Bool) (m : Nat) (e : Int)
  deriving DecidableEq, Repr

/-- How a format spells infinity and NaN (Table 4.2). -/
inductive Special where
  | ieee      -- exponent all ones
  | e4m3      -- 0x7F and 0xFF are NaN, no infinity
  | finite    -- neither
  deriving DecidableEq, Repr

/-- A floating-point format (Table 4.1). -/
structure Fmt where
  ew      : Nat
  mw      : Nat
  bias    : Nat
  special : Special
  deriving DecidableEq, Repr

def fp32 : Fmt := ⟨8, 23, 127, .ieee⟩
def bf16 : Fmt := ⟨8, 7, 127, .ieee⟩
def fp16 : Fmt := ⟨5, 10, 15, .ieee⟩
def e4m3 : Fmt := ⟨4, 3, 7, .e4m3⟩
def e5m2 : Fmt := ⟨5, 2, 15, .ieee⟩
def e3m2 : Fmt := ⟨3, 2, 3, .finite⟩
def e2m3 : Fmt := ⟨2, 3, 1, .finite⟩
def e2m1 : Fmt := ⟨2, 1, 1, .finite⟩

/-- The floating-point format of a code of Table 3.4 (for an MX code, its element's). -/
def fmtOf (code : Nat) : Option Fmt :=
  match code with
  | 0x1 => some fp32
  | 0x2 => some bf16
  | 0x3 => some fp16
  | 0x4 | 0x6 => some e4m3
  | 0x5 | 0x7 => some e5m2
  | 0x8 => some e3m2
  | 0x9 => some e2m3
  | 0xA => some e2m1
  | _ => none

/-- Bits of an element. -/
def Fmt.width (f : Fmt) : Nat := 1 + f.ew + f.mw

/-- The value of an encoding (R107, R108). -/
def Fmt.value (f : Fmt) (v : Nat) : Num :=
  let s := bitB v (f.ew + f.mw)
  let e := bits v (f.ew + f.mw - 1) f.mw
  let m := v % 2 ^ f.mw
  let top := e == 2 ^ f.ew - 1
  if f.special == .ieee && top then (if m = 0 then .inf s else .nan)
  else if f.special == .e4m3 && top && m == 2 ^ f.mw - 1 then .nan
  else if e = 0 then .fin s m (1 - (f.bias : Int) - f.mw)
  else .fin s (2 ^ f.mw + m) ((e : Int) - f.bias - f.mw)

/-- The largest finite magnitude's encoding. -/
def Fmt.maxCode (f : Fmt) : Nat :=
  match f.special with
  | .ieee => (2 ^ f.ew - 1) * 2 ^ f.mw - 1
  | .e4m3 => 2 ^ (f.ew + f.mw) - 2
  | .finite => 2 ^ (f.ew + f.mw) - 1

/-- The NaN that the module writes (Table 4.2). -/
def Fmt.nanCode (f : Fmt) : Nat :=
  match f.special with
  | .ieee => (2 ^ f.ew - 1) * 2 ^ f.mw + 2 ^ (f.mw - 1)
  | .e4m3 => 2 ^ (f.ew + f.mw) - 1
  | .finite => 0

/-- The infinity's magnitude. -/
def Fmt.infCode (f : Fmt) : Nat := (2 ^ f.ew - 1) * 2 ^ f.mw

/-- A sign placed on a magnitude. -/
def Fmt.sign (f : Fmt) (neg : Bool) (mag : Nat) : Nat := mag + if neg then 2 ^ (f.ew + f.mw) else 0

/-- A rounding: the mode of Table 4.4, saturation, and the random bits of R114. -/
structure Rnd where
  mode : Nat := 0
  sat  : Bool := false
  r    : Nat := 0
  deriving DecidableEq, Repr

/-- Nearest, ties to even. -/
def rne : Rnd := {}

/-- Whether a quotient is raised by one: the remainder `rem` of 2^sh below it (R113, R114). -/
def roundUp (k : Rnd) (neg : Bool) (q rem sh : Nat) : Bool :=
  let half := 2 ^ sh
  match k.mode with
  | 0 => decide (half < 2 * rem) || (2 * rem == half && rem != 0 && q % 2 == 1)
  | 1 => false
  | 2 => !neg && rem != 0
  | 3 => neg && rem != 0
  | 4 => rem != 0 && decide (half ≤ 2 * rem)
  | _ => decide (65536 * half ≤ 65536 * rem + k.r * half)

/-- m x 2^e rounded to a multiple of 2^u: the integer multiple. -/
def roundTo (k : Rnd) (neg : Bool) (m : Nat) (e u : Int) : Nat :=
  if u ≤ e then m * 2 ^ (e - u).toNat
  else
    let sh := (u - e).toNat
    let q := m / 2 ^ sh
    if roundUp k neg q (m % 2 ^ sh) sh then q + 1 else q

/-- Position of the leading one of a number, counted from its bit 0. -/
def topBit (m : Nat) : Nat := Nat.log2 m

/-- The magnitude code of a rounded finite value; it may lie beyond the format's largest (R107, R114). -/
def Fmt.roundMag (f : Fmt) (k : Rnd) (neg : Bool) (m : Nat) (e : Int) : Nat :=
  if m = 0 then 0
  else
    let x := (topBit m : Int) + e
    let emin := 1 - (f.bias : Int)
    if x < emin then roundTo k neg m e (emin - f.mw)
    else (x + f.bias).toNat * 2 ^ f.mw + roundTo k neg m e (x - f.mw) - 2 ^ f.mw

/-- An overflow under SAT = 0 (Table 4.5): infinity or the largest finite value by the mode; NaN for E4M3; the
largest element where the format has neither. -/
def Fmt.overflow (f : Fmt) (k : Rnd) (neg : Bool) : Nat :=
  if k.sat then f.sign neg f.maxCode
  else match f.special with
    | .ieee =>
      let toMax := k.mode == 1 || (k.mode == 2 && neg) || (k.mode == 3 && !neg)
      f.sign neg (if toMax then f.maxCode else f.infCode)
    | .e4m3 => f.nanCode
    | .finite => f.sign neg f.maxCode

/-- A number converted to a format (R109, R113-R116). -/
def Fmt.encode (f : Fmt) (k : Rnd) : Num → Nat
  | .nan => f.nanCode
  | .inf neg =>
    if k.sat then f.sign neg f.maxCode
    else match f.special with
      | .ieee => f.sign neg f.infCode
      | .e4m3 => f.nanCode
      | .finite => f.sign neg f.maxCode
  | .fin neg m e =>
    let c := f.roundMag k neg m e
    if f.maxCode < c then f.overflow k neg else f.sign neg c

/-! ### Exact arithmetic -/

/-- The sum of two numbers, exact; signs of zero under nearest-even (R116). -/
def Num.add : Num → Num → Num
  | .nan, _ | _, .nan => .nan
  | .inf a, .inf b => if a = b then .inf a else .nan
  | .inf a, _ => .inf a
  | _, .inf b => .inf b
  | .fin n1 m1 e1, .fin n2 m2 e2 =>
    let e := min e1 e2
    let a := m1 * 2 ^ (e1 - e).toNat
    let b := m2 * 2 ^ (e2 - e).toNat
    if n1 = n2 then .fin n1 (a + b) e
    else if a = b then .fin false 0 e
    else if b < a then .fin n1 (a - b) e
    else .fin n2 (b - a) e

/-- The product, exact. -/
def Num.mul : Num → Num → Num
  | .nan, _ | _, .nan => .nan
  | .inf a, .inf b => .inf (a != b)
  | .inf a, .fin n m _ | .fin n m _, .inf a => if m = 0 then .nan else .inf (a != n)
  | .fin n1 m1 e1, .fin n2 m2 e2 => .fin (n1 != n2) (m1 * m2) (e1 + e2)

/-- The number negated. -/
def Num.neg : Num → Num
  | .nan => .nan
  | .inf a => .inf !a
  | .fin n m e => .fin (!n) m e

/-- Strict order of two numbers that are not NaN; zeros are equal. -/
def Num.lt : Num → Num → Bool
  | .nan, _ | _, .nan => false
  | .inf a, .inf b => a && !b
  | .inf a, _ => a
  | _, .inf b => !b
  | .fin n1 m1 e1, .fin n2 m2 e2 =>
    let e := min e1 e2
    let a : Int := (m1 * 2 ^ (e1 - e).toNat : Nat)
    let b : Int := (m2 * 2 ^ (e2 - e).toNat : Nat)
    decide ((if n1 then -a else a) < (if n2 then -b else b))

/-- Equality of two numbers; NaN equals nothing. -/
def Num.eq (a b : Num) : Bool :=
  match a, b with
  | .nan, _ | _, .nan => false
  | a, b => !a.lt b && !b.lt a

/-- An integer as a number. -/
def Num.ofInt (i : Int) : Num := .fin (decide (i < 0)) i.natAbs 0

/-- IEEE 754-2019 maximum: NaN when either is, -0 below +0 (R263). -/
def Num.max (a b : Num) : Num :=
  match a, b with
  | .nan, _ | _, .nan => .nan
  | .fin true 0 e, b => if b.lt (.fin true 0 e) then .fin true 0 e else b
  | a, b => if a.lt b then b else a

/-- IEEE 754-2019 minimum. -/
def Num.min (a b : Num) : Num :=
  match a, b with
  | .nan, _ | _, .nan => .nan
  | a, .fin true 0 e => if a.lt (.fin true 0 e) then a else .fin true 0 e
  | a, b => if b.lt a then b else a

/-- A number rounded to FP32 to nearest even, as a number again. -/
def Num.to32 (x : Num) : Num := fp32.value (fp32.encode rne x)

/-- FP32 operations on encodings (R130). -/
def fadd (a b : Nat) : Nat := fp32.encode rne ((fp32.value a).add (fp32.value b))
def fsub (a b : Nat) : Nat := fp32.encode rne ((fp32.value a).add (fp32.value b).neg)
def fmul (a b : Nat) : Nat := fp32.encode rne ((fp32.value a).mul (fp32.value b))
def ffma (a b c : Nat) : Nat := fp32.encode rne (((fp32.value a).mul (fp32.value b)).add (fp32.value c))
def fmax (a b : Nat) : Nat := fp32.encode rne ((fp32.value a).max (fp32.value b))
def fmin (a b : Nat) : Nat := fp32.encode rne ((fp32.value a).min (fp32.value b))

/-- The stochastic generator of R114. -/
def srBits (seed row col : Nat) : Nat :=
  let w := 2 ^ 32
  let h := seed ^^^ (row * 0xA511E9B3 % w) ^^^ (col * 0x63D83595 % w)
  let h := (h ^^^ h / 2 ^ 15) * 0x2F1B4C8D % w
  let h := (h ^^^ h / 2 ^ 13) * 0xD35A2D97 % w
  let h := h ^^^ h / 2 ^ 16
  h % 65536

/-! ### Integers -/

/-- An integer kept in the two's complement range of `w` bits. -/
def clampInt (w : Nat) (i : Int) : Int :=
  let top : Int := ((2 ^ (w - 1) : Nat) : Int)
  if i < -top then -top else if top - 1 < i then top - 1 else i

/-- A number rounded to an integer that saturates; NaN gives 0 (R131, R128). -/
def Num.toInt (k : Rnd) (w : Nat) : Num → Int
  | .nan => 0
  | .inf neg => clampInt w (if neg then -((2 ^ w : Nat) : Int) else ((2 ^ w : Nat) : Int))
  | .fin neg m e =>
    let q : Int := (roundTo k neg m e 0 : Nat)
    clampInt w (if neg then -q else q)

/-! ### MX blocks (R111, R112) -/

/-- The value of an MX element under its block scale (R111). -/
def mxValue (f : Fmt) (scale v : Nat) : Num :=
  if scale = 0xFF then .nan
  else match f.value v with
    | .fin n m e => .fin n m (e + (scale : Int) - 127)
    | x => x

/-- emax of Table 4.3. -/
def Fmt.emax (f : Fmt) : Int := ((topBit (2 ^ f.mw + f.maxCode % 2 ^ f.mw) : Int) - f.mw) + (f.maxCode / 2 ^ f.mw : Nat) - f.bias

/-- The larger of two magnitudes. -/
def magMax (a b : Num) : Num :=
  match a, b with
  | .fin _ m1 e1, .fin _ m2 e2 => if (Num.fin false m1 e1).lt (.fin false m2 e2) then .fin false m2 e2 else .fin false m1 e1
  | a, _ => a

/-- The FP32 largest finite value as a number. -/
def fp32Max : Num := fp32.value fp32.maxCode

/-- A block of 32 results converted to an MX format: scale and element codes (R112). `k i` rounds element i. -/
def mxEncode (f : Fmt) (k : Nat → Rnd) (sat : Bool) (xs : List Num) : Nat × List Nat :=
  let hasInf := f.special == .ieee
  let xs' := xs.map fun x => match x with | .inf n => if sat then (if n then fp32Max.neg else fp32Max) else x | _ => x
  let bad := xs'.any fun x => match x with | .nan => true | .inf _ => !hasInf | _ => false
  if bad then (0xFF, xs.map fun _ => 0)
  else
    let amax := xs'.foldl (fun a x => match x with | .fin _ _ _ => magMax a x | _ => a) (.fin false 0 0)
    let x : Int := match amax with
      | .fin _ m e => if m = 0 then -127 else
          let v := (topBit m : Int) + e - f.emax
          if v < -127 then -127 else if 127 < v then 127 else v
      | _ => -127
    ((x + 127).toNat, xs.zipIdx.map fun (v, i) =>
      match v with
      | .fin n m e => f.encode { k i with sat := true } (.fin n m (e - x))
      | .inf n => if sat then f.sign n f.maxCode else f.sign n f.infCode
      | .nan => 0)

/-! ### XF640 (R121-R123) -/

/-- An XF640 value: anchor field, flags NAN, PINF, NINF, OVF, BAD, and the 640-bit field. -/
structure Xf where
  anchor : Nat := 0xFED4
  nan    : Bool := false
  pinf   : Bool := false
  ninf   : Bool := false
  ovf    : Bool := false
  bad    : Bool := false
  mag    : Nat := 0
  deriving DecidableEq, Repr

/-- The value of a line (Table 4.6). -/
def xfOf (line : Bytes) : Xf :=
  let v := leNat (slice line 0 88)
  { anchor := bits v 15 0, nan := bitB v 16, pinf := bitB v 17, ninf := bitB v 18, ovf := bitB v 19, bad := bitB v 20,
    mag := bits v 703 64 }

/-- The line of a value; reserved bits 0. -/
def Xf.bytes (x : Xf) : Bytes :=
  natLE 128 (fld x.anchor 0 16 + fld (b2n x.nan) 16 1 + fld (b2n x.pinf) 17 1 + fld (b2n x.ninf) 18 1
    + fld (b2n x.ovf) 19 1 + fld (b2n x.bad) 20 1 + fld x.mag 64 640)

/-- The anchor is one of the two well-formed ones. -/
def Xf.wellFormed (x : Xf) : Bool := x.anchor == 0xFED4 || x.anchor == 0

/-- Weight exponent of bit 0. -/
def Xf.exp (x : Xf) : Int := if x.anchor = 0xFED4 then -300 else 0

/-- Addition of a line into a line (R123). -/
def Xf.add (d s : Xf) : Xf :=
  let flags : Xf := { d with nan := d.nan || s.nan, pinf := d.pinf || s.pinf, ninf := d.ninf || s.ninf,
                             ovf := d.ovf || s.ovf, bad := d.bad || s.bad }
  if d.wellFormed && s.wellFormed && d.anchor == s.anchor then
    let sum := toSigned 640 d.mag + toSigned 640 s.mag
    { flags with mag := (d.mag + s.mag) % 2 ^ 640
                 ovf := flags.ovf || decide (sum < -((2 ^ 639 : Nat) : Int)) || decide (((2 ^ 639 : Nat) : Int) ≤ sum) }
  else { flags with bad := true }

/-- The value that a line denotes (R122). -/
def Xf.denote (x : Xf) : Num :=
  if !x.wellFormed || x.bad || x.nan || x.ovf || (x.pinf && x.ninf) then .nan
  else if x.pinf then .inf false
  else if x.ninf then .inf true
  else
    let v := toSigned 640 x.mag
    .fin (decide (v < 0)) v.natAbs x.exp

/-- A number added exactly to an accumulator of anchor -300 or 0 (R119, R120): a NaN or infinity sets its flag. A bit
below the anchor cannot occur in a product of the module's formats. -/
def Xf.accumulate (x : Xf) : Num → Xf
  | .nan => { x with nan := true }
  | .inf false => { x with pinf := true }
  | .inf true => { x with ninf := true }
  | .fin n m e =>
    let q : Int := if x.exp ≤ e then ((m * 2 ^ (e - x.exp).toNat : Nat) : Int) else ((m / 2 ^ (x.exp - e).toNat : Nat) : Int)
    { x with mag := ofSigned 640 (toSigned 640 x.mag + if n then -q else q) }

/-- A number as a line of anchor -300, exact (R131). -/
def xfOfNum (v : Num) : Xf := ({} : Xf).accumulate v

/-! ### Add-to-line (Table 9.5) -/

/-- Bytes of an element of an add-to-line code; none for a refused code. -/
def addWidth (code : Nat) : Option Nat :=
  match code with
  | 0x1 | 0x3 | 0x6 | 0x7 | 0xA | 0xB => some 4
  | 0x2 | 0x8 | 0x9 => some 2
  | 0x4 | 0xC | 0xD => some 8
  | 0x5 => some 128
  | _ => none

/-- One element combined (R262, R263). -/
def addElement (code d s : Nat) : Nat :=
  match code with
  | 0x1 => fadd d s
  | 0x2 => bf16.encode rne ((bf16.value d).add (bf16.value s))
  | 0x3 => (d + s) % 2 ^ 32
  | 0x4 => (d + s) % 2 ^ 64
  | 0x6 => fmax d s
  | 0x7 => fmin d s
  | 0x8 => bf16.encode rne ((bf16.value d).max (bf16.value s))
  | 0x9 => bf16.encode rne ((bf16.value d).min (bf16.value s))
  | 0xA => if toSigned 32 d < toSigned 32 s then s else d
  | 0xB => if toSigned 32 s < toSigned 32 d then s else d
  | 0xC => if toSigned 64 d < toSigned 64 s then s else d
  | 0xD => if toSigned 64 s < toSigned 64 d then s else d
  | _ => d

/-- A line after an add-to-line with an operand and an element mask (R261, R264): elements whose mask bit is 0 and
elements with a byte in a poisoned sector (bit set of `poison`) stay. -/
def addLine (code mask : Nat) (line operand : Bytes) (poison : Nat) : Bytes :=
  if code = 0x5 then
    if bitB mask 0 && poison == 0 then ((xfOf line).add (xfOf operand)).bytes else line
  else match addWidth code with
    | none => line
    | some w => ((List.range (128 / w)).map fun i =>
        if bitB mask i && !bitB poison (w * i / 32) then
          natLE w (addElement code (field line (w * i) w) (field operand (w * i) w))
        else slice line (w * i) w).flatten

end Sys2Proof.Machine
end

