-- ==== Sys2Proof/Config.lean ====
section
/-! DEFINITION. What the spec leaves to the single module or leaves open: constants without a body, of which
nothing can be proved but that they are the same value at every use. -/

namespace Sys2Proof.Config

/-- The module serial number burnt into FUSE.SERIAL (R360: the manual fixes its place and width only). -/
opaque serial : BitVec 40

/-- The version of the boot ROM (R360). -/
opaque romVersion : BitVec 32

/-- The bytes of the boot ROM (Table 7.7). -/
opaque romByte : Nat → BitVec 8

/-- A byte of the NOR flash outside the images in the firmware slots, by offset (Table 17.2: the spec gives the place of each
record and not how it is coded). -/
opaque norByte : Nat → BitVec 8

/-- The bytes of the image of manufacture, which slot A holds at the start (R458; log 8: they are not in the spec). -/
opaque factoryImage : List (BitVec 8)

/-- The rail, network and dispatcher configuration tables that stage 1 loads from an image (R469: the spec does not give
their place in it). -/
opaque stageTables : List (BitVec 8) → List (BitVec 8)

/-- FUSE.ROOT_DIGEST (Table 17.1). -/
opaque rootDigest : List (BitVec 8)

/-- The random SESSION number drawn at the n-th draw (R315). -/
opaque sessionDraw : Nat → BitVec 32

/-- The 40-bit alignment marker of a lane (R309: the spec gives its length). -/
opaque marker : Nat → BitVec 40

/-- The hash of a destination device and a line address by which a port of a route is chosen (R345: the spec
names no function). -/
opaque portHash : Nat → Nat → Nat

/-- The shanks retired at another module's last fitting, which shape the frames that lie there (R142, R204; log 48: no message
carries them). -/
opaque retiredAt : Nat → List Nat

/-- Whether a pool of another module has a shape: the module, the pool's index there, the shape identity (R152; log 164: a
descriptor names its shape by the index of a pool of the module that holds it). -/
opaque shapeAt : Nat → Nat → Nat → Bool

/-- How many chunks after the first chunk of a FRAME_REQ its i-th further page lies: the request's number, the page (R148;
log 50: the message carries no chunk size). -/
opaque chunkAfter : Nat → Nat → Nat

/-- The n-th byte whose contents the spec leaves undefined (R92, R104, R125, R159, R345). -/
opaque freeByte : Nat → BitVec 8

/-- The n-th number that the spec leaves open. -/
opaque freeWord : Nat → BitVec 64

/-- What the n-th crossing of a shank without a guard changes, where a larger command makes it (R169; log 180): the places of
the line's bytes, and what is added to them modulo 2. -/
opaque laneErrors : Nat → List (Nat × BitVec 8)

/-- The module's signature over a quote (R471): the identity key is in the fuses. -/
opaque sign : List (BitVec 8) → List (BitVec 8)

/-- The device certificate and the device CA certificate (R467), DER-encoded. -/
opaque deviceCert : List (BitVec 8)
opaque caCert : List (BitVec 8)

/-- A transcendental function whose rounding the enclosures of Machine/Elementary.lean have not settled within their
fuel (R129): function number, operand. -/
opaque elementary : Nat → Nat → BitVec 32

/-- The result that an integer or vector compare writes (R94, R227: the spec gives its operations and not the word;
log 39). -/
opaque truth : Bool → BitVec 64

/-- Whether the function code of an awl instruction word is reserved for its opcode (R227: Table 8.3 gives the operations and
not their codes; log 41). -/
opaque reservedFunction : Nat → Bool

/-- Whether a lane's word makes a vector select take its first operand (log 39). -/
opaque selects : BitVec 32 → Bool

end Sys2Proof.Config
end

