-- ==== Sys2Proof/Machine/Digest.lean ====
section
/-! DEFINITION. The check sums and digests that the spec names: CRC-32 under the IEEE 802.3 polynomial (R413, R415,
R451), the flit's CRC-64 (R317) and SHA-512 (R293, R455). -/

namespace Sys2Proof.Machine

/-- One byte of a reflected CRC with initial value and final XOR all ones. -/
def crcByte (poly : Nat) (crc : Nat) (b : Byte) : Nat :=
  (List.range 8).foldl (fun c _ => if c % 2 = 1 then c / 2 ^^^ poly else c / 2) (crc ^^^ b.toNat)

/-- CRC-32 under the IEEE 802.3 polynomial, bits reflected. -/
def crc32 (bs : Bytes) : Nat := (bs.foldl (crcByte 0xEDB88320) (2 ^ 32 - 1)) ^^^ (2 ^ 32 - 1)

/-- CRC-64 with the ECMA-182 polynomial, bits reflected, initial value and final XOR all ones (R317). -/
def crc64 (bs : Bytes) : Nat := (bs.foldl (crcByte 0xC96C5795D7870F42) (2 ^ 64 - 1)) ^^^ (2 ^ 64 - 1)

/-- The first 80 primes. -/
def primes80 : List Nat :=
  (List.range 410).filter fun n => decide (2 ≤ n) && (List.range n).all fun d => decide (d < 2) || n % d != 0

/-- Integer root: the largest r below 2^n with r^k at most x. -/
def iroot (k x : Nat) : Nat → Nat → Nat
  | 0, r => r
  | n + 1, r => iroot k x n (if (r + 2 ^ n) ^ k ≤ x then r + 2 ^ n else r)

/-- The round constants of SHA-512: 64 bits of the fractional parts of the cube roots of the first 80 primes. -/
def shaK : List Nat := primes80.map fun p => iroot 3 (p * 2 ^ 192) 68 0 % 2 ^ 64

/-- The initial hash value: 64 bits of the fractional parts of the square roots of the first 8 primes. -/
def shaInit : List Nat := (primes80.take 8).map fun p => iroot 2 (p * 2 ^ 128) 68 0 % 2 ^ 64

/-- Rotation right of a 64-bit word. -/
def rotr (n x : Nat) : Nat := x / 2 ^ n + x % 2 ^ n * 2 ^ (64 - n)

/-- The number in eight bytes, most significant first. -/
def beWord (bs : Bytes) : Nat := bs.foldl (fun n b => n * 256 + b.toNat) 0

/-- The message schedule, newest word first. -/
def shaSchedule : Nat → List Nat → List Nat
  | 0, w => w
  | n + 1, w =>
    let at' (i : Nat) := w.getD (i - 1) 0
    let s0 := let x := at' 15; rotr 1 x ^^^ rotr 8 x ^^^ x / 2 ^ 7
    let s1 := let x := at' 2; rotr 19 x ^^^ rotr 61 x ^^^ x / 2 ^ 6
    shaSchedule n ((at' 16 + s0 + at' 7 + s1) % 2 ^ 64 :: w)

/-- The eight working words of SHA-512. -/
structure Sha where
  a : Nat
  b : Nat
  c : Nat
  d : Nat
  e : Nat
  f : Nat
  g : Nat
  h : Nat
  deriving DecidableEq, Repr

/-- One round. -/
def Sha.round (s : Sha) (kw : Nat × Nat) : Sha :=
  let w := 2 ^ 64
  let s1 := rotr 14 s.e ^^^ rotr 18 s.e ^^^ rotr 41 s.e
  let ch := (s.e &&& s.f) ^^^ ((w - 1 - s.e) &&& s.g)
  let t1 := s.h + s1 + ch + kw.1 + kw.2
  let s0 := rotr 28 s.a ^^^ rotr 34 s.a ^^^ rotr 39 s.a
  let maj := (s.a &&& s.b) ^^^ (s.a &&& s.c) ^^^ (s.b &&& s.c)
  ⟨(t1 + s0 + maj) % w, s.a, s.b, s.c, (s.d + t1) % w, s.e, s.f, s.g⟩

/-- One block of 128 bytes. -/
def shaBlock (ks h : List Nat) (bs : Bytes) : List Nat :=
  let w := (shaSchedule 64 ((List.range 16).map fun i => beWord (slice bs (8 * i) 8)).reverse).reverse
  let g (i : Nat) := h.getD i 0
  let s := (ks.zip w).foldl Sha.round ⟨g 0, g 1, g 2, g 3, g 4, g 5, g 6, g 7⟩
  [s.a, s.b, s.c, s.d, s.e, s.f, s.g, s.h].zipIdx.map fun (v, i) => (v + g i) % 2 ^ 64

/-- Every block in turn. -/
def shaBlocks (ks : List Nat) : Nat → List Nat → Bytes → List Nat
  | 0, h, _ => h
  | n + 1, h, bs => shaBlocks ks n (shaBlock ks h (bs.take 128)) (bs.drop 128)

/-- SHA-512 of bytes: 64 bytes. -/
def sha512 (bs : Bytes) : Bytes :=
  let n := bs.length
  let padLen := (128 - (n + 17) % 128) % 128
  let msg := bs ++ [0x80] ++ zeros padLen ++ (natLE 16 (8 * n)).reverse
  ((shaBlocks shaK (msg.length / 128) shaInit msg).map fun w => (natLE 8 w).reverse).flatten

/-! ### RSASSA-PSS (R455) -/

/-- Exclusive or of two byte strings of one length. -/
def xorBytes (a b : Bytes) : Bytes := a.zipWith (fun x y => x ^^^ y) b

/-- The mask generation function MGF1 with SHA-512: the first `n` bytes. -/
def mgf1 (seed : Bytes) (n : Nat) : Bytes :=
  (((List.range ((n + 63) / 64)).map fun c => sha512 (seed ++ (natLE 4 c).reverse)).flatten).take n

/-- The square of a number modulo another, `n` times over. -/
def squares (m : Nat) : Nat → Nat → Nat
  | 0, x => x
  | n + 1, x => squares m n (x * x % m)

/-- The encoded message of a signature under a modulus and the exponent 65,537. -/
def rsaMessage (m sig : Nat) : Nat := squares m 16 (sig % m) * sig % m

/-- EMSA-PSS-VERIFY of RFC 8017 for 4,095 bits, SHA-512 and a salt of 64 bytes: `em` is the encoded message, 512 bytes. -/
def pssOk (msg em : Bytes) : Bool :=
  let masked := em.take 447
  let h := slice em 447 64
  let db := xorBytes masked (mgf1 h 447)
  let first := (db.headD 0) &&& 0x7F
  let salt := db.drop 383
  em.length == 512 && slice em 511 1 == [0xBC] && (masked.headD 0).toNat < 128
    && first == 0 && (slice db 1 381).all (· == 0) && slice db 382 1 == [1]
    && sha512 (zeros 8 ++ sha512 msg ++ salt) == h

/-- A vendor signature verifies under a key (R455): 512 bytes of modulus of 4,096 bits and 4 bytes of exponent, both
big-endian, the exponent 65,537. -/
def signatureOk (key msg sig : Bytes) : Bool :=
  let m := beWord (slice key 0 512)
  let s := beWord (slice sig 0 512)
  slice key 512 4 == [0, 1, 0, 1] && decide (2 ^ 4095 ≤ m) && decide (s < m) && pssOk msg (natLE 512 (rsaMessage m s)).reverse

end Sys2Proof.Machine
end

