-- ==== Sys2Proof/Machine/State.lean ====
section
/-! DEFINITION. The state of the block as plain data: every register, buffer, table, queue, pin and flag that
the spec gives the module, grouped by subsystem, the queue of waiting commands, and what a step can end in.
Numbered units are held in sparse tables (`Tab`), whose default is the unit's value after reset; a table
entry exists only where a unit differs from it. -/

namespace Sys2Proof.Machine

/-! ## Power, life cycle, pins (01, 14) -/

/-- Where the module stands in its life (Table 0.5). READY, RUNNING, FW_UPDATE and THERMAL_HOLD are told apart
from the conditions of R399 while it is `up`. -/
inductive Phase where
  | off
  | bringup (n : Nat)
  | up
  | latched
  deriving DecidableEq, Repr

/-- Power input, pins and life cycle. -/
structure Power where
  phase       : Phase := .off
  vin         : Nat := 0          -- mV at J2
  iin         : Nat := 0          -- mA at J2
  seatClosed  : Bool := false     -- seat_sense_n
  standby     : Bool := false     -- standby_pg
  coreRails   : Bool := false     -- core, tier, side-stack and PHY rails up
  startWait   : Bool := false     -- the 10 ms wait of R37 runs
  smbAddr     : Nat := 0          -- sampled address of R25
  perstN      : Bool := false     -- level of perst_n
  perstHigh   : Bool := false     -- perst_n has been high (R374)
  thermTrip   : Bool := false     -- therm_trip_n asserted (R26)
  stageFailed : Bool := false     -- the stage of BRINGUP(n) has ended failed (R406)
  coolantWait : Bool := false     -- waiting under R41
  timebaseOn  : Bool := false     -- VPHY in regulation (R407)
  imageUp     : Bool := false     -- the firmware image of this bring-up runs (R461)
  seatOff     : Bool := false     -- seat_sense_n turned the rails off: its closing is a cold reset (R28)
  deriving DecidableEq, Repr

/-! ## Pace, power governor and modes (02) -/

/-- One pace monitor (Table 2.3): what its windows measured; `paceMin` is none when no window has completed since
the last read. Voltage, temperature, FLOOR and GOV follow from the rail, the sensors and the operating point. -/
structure PaceMon where
  pace    : Nat := 0
  paceMin : Option Nat := none
  valid   : Bool := false
  deriving DecidableEq, Repr

/-- A pending operating-point change: the point, its port mask, who asked. -/
structure PendPoint where
  point : Nat
  mask  : Nat
  by'   : Origin
  deriving DecidableEq, Repr

/-- A pending change of one of the other two settings. -/
structure PendFlag where
  value : Bool
  by'   : Origin
  deriving DecidableEq, Repr

structure Pace where
  mons      : Tab PaceMon := []
  vcore     : Tab Nat := []       -- set voltage per cluster, mV; 0 off
  vtier     : Tab Nat := []       -- set voltage per tier (index 0-7), mV
  point     : Nat := 0            -- PACE_CTL.POINT
  net       : Bool := false       -- PACE_CTL.NET
  red       : Bool := false       -- PACE_CTL.RED
  actLevel  : Nat := 0            -- PACE_CTL.ACT_LEVEL
  ballast   : Bool := false
  emerg     : Bool := false       -- safety ramp-down
  allow     : Nat := 0            -- PACE_CTL.ALLOW_W
  power     : Nat := 0            -- PACE_CTL.POWER_W
  demand    : Nat := 0            -- the governor's latest estimate
  pendPoint : Option PendPoint := none
  pendNet   : Option PendFlag := none
  pendRed   : Option PendFlag := none
  portSet   : Nat := 2 ^ 32 - 1   -- active port set (R59)
  leaving   : Nat := 0            -- ports outside the set that have not yet parked (steps 2 and 3 of Table 2.7)
  changing  : Nat := 0            -- a point change is in progress: 1 its leaving ports drain, 2 it waits to complete
                                  -- together with a discipline change (R297)
  govRail   : Nat := 0            -- mV that the power governor holds VCORE below target
  govAct    : Nat := 0            -- quarters that the power governor holds the activity below the limit
  active    : Nat := 0            -- quarters of the array that are active (Table 2.10)
  ramp      : Nat := 0            -- array steps since the operation or the turnaround began (R71)
  moved     : Nat := 0            -- array steps that the ramp's present level has stood (Table 2.10)
  steps     : Nat := 0            -- the model's own: thousandths of an array step that idle ticks have left over
  showing   : Option Nat := none  -- point that PACE_CTL shows between steps 3 and 6 of Table 2.7 (R62, R297)
  powHist   : List Nat := []      -- input power of the last 1,000 windows, newest first (SMB.POWER_W)
  deriving DecidableEq, Repr

/-! ## Bring-up, ledger, hints (15) -/

structure StageReport where
  result    : Nat := 0
  cause     : Nat := 0
  us        : Nat := 0
  waitMs    : Nat := 0
  resetGen  : Nat := 0
  added     : Nat := 0
  retested  : Nat := 0
  confirmed : Nat := 0
  excluded  : Nat := 0
  reduced   : Nat := 0
  ledger    : Nat := 0
  detail    : Nat := 0
  deriving DecidableEq, Repr

/-- A ledger entry (Table 15.6); its CRC follows from the other fields. -/
structure LedgerEntry where
  kind  : Nat
  stage : Nat
  unit  : Nat
  sub   : Nat
  bank  : Nat
  row   : Nat
  gen   : Nat
  deriving DecidableEq, Repr

/-- A retest hint (R411). -/
structure Hint where
  kind : Nat
  unit : Nat
  sub  : Nat
  bank : Nat
  row  : Nat
  deriving DecidableEq, Repr

structure BringUp where
  reports    : Tab StageReport := []
  resetGen   : Nat := 0             -- IDENT.RESET_GEN, in NVM
  lastReset  : Nat := 0             -- IDENT.LAST_RESET
  retired    : List Nat := []       -- shanks outside the interleave built at the last fitting (R204), rising
  ledger     : List LedgerEntry := []
  clearGen   : Nat := 0             -- clear generation of the current copy (R416)
  oldCopy    : List LedgerEntry := []  -- the other copy
  oldGen     : Nat := 0
  hints      : List Hint := []
  trainFails : List (Nat × Nat) := []  -- shank and group of each failure in this bring-up's training
  fwFails    : List Nat := []       -- tiles whose firmware check failed three times (R413)
  fwRepeat   : Bool := false        -- the broadcast was repeated for some tile
  watchdog   : Option Bool := none  -- COBBLER_WATCHDOG to log in stage 1
  podChanged : Bool := false        -- the pod record in effect changed at stage 3
  stageNs    : Nat := 0             -- ns that the running stage has taken, the coolant wait excluded (R409)
  deriving DecidableEq, Repr

/-! ## The PCIe function (13) -/

/-- One MSI-X table entry; masked after reset. -/
structure MsixEntry where
  addrLo : Nat := 0
  addrHi : Nat := 0
  data   : Nat := 0
  mask   : Bool := true
  deriving DecidableEq, Repr

structure MsixMod where
  holdoff : Nat := 0
  count   : Nat := 1
  deriving DecidableEq, Repr

/-- BAR2_WIN (Table 7.6a) but for SIZE_LOG. -/
structure Bar2Win where
  enable : Bool := true
  remote : Bool := false
  dev    : Nat := 0
  base   : Nat := 0
  deriving DecidableEq, Repr

structure Ptm where
  enabled  : Bool := false
  interval : Nat := 100
  align    : Bool := false
  loc      : Nat := 0
  master   : Nat := 0
  delay    : Nat := 0
  count    : Nat := 0
  rate     : Int := 0
  valid    : Bool := false
  dialogs  : Nat := 0       -- since PTM Enable was set
  trim     : Int := 0       -- rate trim in units of 0.01 ppm
  deriving DecidableEq, Repr

/-- Why a read of host memory is outstanding. -/
inductive ReadFor where
  | intakeHeader (area : Nat)
  | intakeEntries (area first count : Nat)
  | complHeader (area : Nat)
  | stream (sub : Nat)
  | fwChunk (o : Origin)
  deriving DecidableEq, Repr

structure OutRead where
  tag  : Nat
  addr : Nat
  len  : Nat
  why  : ReadFor
  deriving DecidableEq, Repr

structure Pcie where
  link      : Bool := false
  speed     : Nat := 0
  width     : Nat := 0
  flit      : Bool := false        -- the link runs in Flit mode (R356)
  training  : Bool := false
  d3        : Bool := false
  cfg       : HostCfg := { busMaster := false, memSpace := false, relaxed := true, maxPayload := 128, maxRead := 512
                           tag10 := false, tag14 := false, cplDisable := false, cplUs := 40000 }
  msixOn    : Bool := false
  funcMask  : Bool := false
  table     : Tab MsixEntry := []
  pba       : Tab Bool := []
  mods      : Tab MsixMod := []
  gathered  : Tab Nat := []
  bar2Code  : Nat := 10
  win       : Bar2Win := {}
  ptm       : Ptm := {}
  eccLow    : Option Nat := none   -- lower halves written, awaiting the upper half (R362)
  winLow    : Option Nat := none
  l2Low     : Option Nat := none
  ptmLow    : Option Nat := none
  tbLatch   : Option Nat := none   -- latched upper half of IDENT.TIMEBASE
  aer       : Nat := 0             -- AER uncorrectable status bits (sticky)
  reads     : List OutRead := []
  waiting   : List OutRead := []   -- reads that wait for Bus Master Enable
  heldRecs  : List (Nat × Bytes) := []  -- host writes held until Bus Master Enable is 1 (address, bytes)
  heldMsix  : List Nat := []       -- vectors whose message waits with them
  nextTag   : Nat := 0
  bar2Held  : List (Nat × Nat) := []    -- BAR2 reads received and not yet served: address as translated, length (R219)
  deriving DecidableEq, Repr

/-! ## Mailboxes (14) -/

structure Slot where
  commit   : Nat := 0
  cseq     : Nat := 0
  cmd      : Nat := 0
  irq      : Bool := false
  seq      : Nat := 0
  len      : Nat := 0
  status   : Nat := 0
  reason   : Nat := 0
  replyLen : Nat := 0
  tAccept  : Nat := 0
  tDone    : Nat := 0
  payload  : Tab Byte := []
  deriving DecidableEq, Repr

/-- A command the Cobbler has accepted and not yet answered (step 4 of Table 14.2). -/
structure Accepted where
  origin  : Origin
  cmd     : Nat
  seq     : Nat
  irq     : Bool
  payload : Bytes
  started : Bool          -- its check has passed and it is in progress
  accepted : Nat          -- timebase at acceptance
  mute    : Bool := false -- an FLR came after its acceptance: its answer is not written (R376)
  deriving DecidableEq, Repr

structure Mail where
  slots    : Tab Slot := []
  accepted : List Accepted := []
  lastSeq  : Tab (Option Nat) := []
  deriving DecidableEq, Repr

/-! ## Objects of the Cobbler (03, 05, 08, 09, 10, 14) -/

/-- A KV shape (Table 5.1). -/
structure Shape where
  latent : Bool
  dk     : Nat
  dv     : Nat
  h      : Nat
  g      : Nat
  l      : Nat
  fmt    : Nat
  deriving DecidableEq, Repr

/-- A split of an operation (R83): row groups, K groups, and the tiles of each run in order with their widths. -/
structure Plan where
  gm   : Nat
  gk   : Nat
  runs : List (List (Nat × Nat))
  deriving DecidableEq, Repr

structure Matrix where
  src   : Nat
  dst   : Nat
  scale : Nat
  k     : Nat
  n     : Nat
  fmt   : Nat
  plan  : Option Plan     -- recorded for a homed matrix
  planM : Nat
  deriving DecidableEq, Repr

structure Model where
  mats : List Matrix
  pool : Option Nat
  deriving DecidableEq, Repr

structure Pool where
  shape   : Shape
  regions : List (Nat × Nat)      -- frame regions: base, length
  tables  : List (Nat × Nat)      -- table regions
  refs    : Tab Nat := []         -- reference count per frame in use, by frame address
  blocks  : List Nat := []        -- 8 KiB table blocks in use
  descs   : List Nat := []        -- descriptor slots in use (64 B)
  gens    : Tab Nat := []         -- generation of each descriptor slot
  granted : List Nat := []        -- frames granted to other devices
  deriving DecidableEq, Repr

/-- What the Cobbler keeps of a sequence beside its descriptor in memory. -/
structure Seq where
  pool   : Nat
  desc   : Nat
  dir    : Nat
  leaves : List Nat
  gen    : Nat
  deriving DecidableEq, Repr

structure Task where
  descs   : Nat
  count   : Nat
  gather  : Bool
  rows    : Nat
  timerUs : Nat
  prio    : Nat
  last    : Option Nat
  ways    : Nat
  compl   : Option Nat
  enabled : Bool
  deriving DecidableEq, Repr

structure PClass where
  task    : Nat
  period  : Nat
  budget  : Nat
  phase   : Nat
  enabled : Bool := false
  base    : Nat := 0              -- E
  k       : Nat := 0              -- number of the next instance to release
  release : Nat := 0              -- R of that instance
  cur     : Option (Nat × Nat) := none   -- released and unfinished: k, R
  late    : Nat := 0              -- present lateness in ticks
  largest : Nat := 0              -- largest lateness since it was last 0
  overrun : Bool := false         -- PERIODIC_OVERRUN logged for the instance
  held    : List Bytes := []      -- records that wait for space (R397)
  deriving DecidableEq, Repr

structure PStat where
  instances : Nat := 0
  overruns  : Nat := 0
  lateRel   : Nat := 0
  lateNow   : Nat := 0
  lateMax   : Nat := 0
  deriving DecidableEq, Repr

structure Stream where
  out     : Bool
  count   : Nat
  host    : Nat
  dev     : Nat
  size    : Nat
  enabled : Bool
  deriving DecidableEq, Repr

structure Intake where
  device  : Bool
  log2    : Nat
  pollUs  : Nat
  base    : Nat
  enabled : Bool
  taken   : Nat := 0              -- module count
  host    : Nat := 0              -- host count last seen
  busy    : Bool := false         -- a read of the area is outstanding
  deriving DecidableEq, Repr

/-- What a record that waits for space in a completion area is the record of: a work entry, or a periodic class (R397). -/
inductive Waiter
  | sub (id : Nat) | cls (i : Nat)
  deriving DecidableEq, Repr

structure Compl where
  device  : Bool
  log2    : Nat
  vector  : Nat
  base    : Nat
  enabled : Bool
  written : Nat := 0              -- module count
  host    : Nat := 0              -- host count last seen
  reserved : Nat := 0             -- records reserved and not yet written
  order    : List Waiter := []    -- records that wait for space, in completion order (R396)
  deriving DecidableEq, Repr

structure Lend where
  base : Nat
  len  : Nat
  lent : Bool                     -- false until LEND completes
  entered : Bool := false         -- the slices hold it in their lend table
  by'  : Origin
  deriving DecidableEq, Repr

structure Discard where
  by'     : Origin
  base    : Nat
  len     : Nat
  deriving DecidableEq, Repr

structure LastInfo where
  addr  : Nat
  slots : Nat
  flows : Nat
  tag   : Nat
  fp    : Nat
  len   : Nat
  stale : Bool := false
  image : Bytes := []
  deriving DecidableEq, Repr

/-- A SEQ_EXTEND that awaits frames of another module's pool: who asked, the sequence, the target, the device, the
sequence number of the FRAME_REQ, and the frames received so far. -/
structure Extend where
  by'    : Origin
  seq    : Nat
  target : Nat
  dev    : Nat
  mseq   : Nat
  frames : List Nat
  deriving DecidableEq, Repr

structure Objects where
  models    : Tab (Option Model) := []
  pools     : Tab (Option Pool) := []
  seqs      : Tab (Option Seq) := []
  homeNext  : Nat := 0
  tasks     : Tab (Option Task) := []
  classes   : Tab (Option PClass) := []
  pstat     : Tab PStat := []
  streams   : Tab (Option Stream) := []
  intakes   : Tab (Option Intake) := []
  compls    : Tab (Option Compl) := []
  lends     : Tab (Option Lend) := []
  pins      : Tab (Option (Nat × Nat)) := []
  discards  : List Discard := []
  deadFill  : Nat := 0
  lasts     : Tab (Option LastInfo) := []
  installed : Option Nat := none
  extending : List Extend := []
  deriving DecidableEq, Repr

/-! ## Scheduling and the operation in progress (03, 04, 05, 10, 14) -/

/-- One row of a gathered submission: A row, C row, sequence list entry (R393). -/
structure RowRec where
  a    : Nat
  c    : Nat
  seqe : Bytes
  deriving DecidableEq, Repr

/-- An accepted work entry that has not completed. -/
structure Sub where
  id     : Nat
  kind   : Nat                    -- SUB.KIND
  obj    : Nat
  compl  : Nat
  tag    : Nat
  arg    : Nat
  addr   : Nat
  rows   : List RowRec
  area   : Option Nat             -- intake area it came from
  started : Bool := false
  reserved : Bool := false        -- a completion record is reserved for it
  fin      : Option Bytes := none -- its record, waiting for space in its area
  poison   : Bool := false        -- a stream transfer has sent poison
  bad      : Nat := 0             -- reason with which a stream transfer ends, 0 for none
  deriving DecidableEq, Repr

/-- A gather window (R88): its task and the submissions in it, in acceptance order. -/
structure Window where
  task : Nat
  subs : List Nat
  deriving DecidableEq, Repr

/-- A ready batch (R88, R89): one submission or a closed window. -/
structure Batch where
  task : Nat
  subs : List Nat
  open' : Bool                    -- keeps accepting submissions (closed by timer or limit)
  deriving DecidableEq, Repr

/-- An online soft-maximum triple of one query row (R136), FP32 codes; `poison` when the row took in poison. -/
structure Triple where
  m : Nat := 0xFF800000
  l : Nat := 0
  o : List Nat := []              -- empty: all zero
  poison : Bool := false
  deriving DecidableEq, Repr

/-- One entry of an ATTENTION operation in progress. -/
structure AttEntry where
  index  : Nat                    -- list position
  raw    : Bytes                  -- the list entry
  seqId  : Nat := 0
  length : Nat := 0               -- SEQ.LENGTH at the start
  visible : Nat := 0
  chunkLog : Nat := 0
  cap    : Nat := 0               -- SEQ.CAPACITY at the start (R149)
  dir    : Nat := 0
  biasBase : Nat := 0
  biasLen : Nat := 0
  gen    : Nat := 0
  desc   : Nat := 0
  shape  : Option Shape := none
  bucket : Nat := 1
  bad    : Option (Nat × Nat) := none   -- reason of the entry's error, and cause for the event
  poison : Bool := false
  acc    : Tab Triple := []       -- key: leaf * 2^16 + row
  walked : Tab Nat := []          -- pages folded, by chunk
  workers : List Nat := []        -- worker of each work item, in chunk order
  deriving DecidableEq, Repr

/-- The ATTENTION operation in progress: parameter block, entries, the tree level reached. -/
structure AttState where
  param   : Bytes
  entries : List AttEntry
  bucket  : Nat
  level   : Nat
  deriving DecidableEq, Repr

/-- What an operation left: reason of its error, rows that hold poison, failed entries (row or list index, reason). -/
structure OpResult where
  reason : Nat := 0
  rows   : List Nat := []
  failed : List (Nat × Nat) := []
  deriving DecidableEq, Repr

/-- A partial sum of a K-split that a tile holds in its accumulators (R85): its place, the K group and the tile of its share,
its bytes. -/
structure Partial where
  row    : Nat
  col    : Nat
  kg     : Nat
  tile   : Nat
  bytes  : Bytes
  poison : Bool
  deriving DecidableEq, Repr

/-- The operation in progress (R82). -/
structure Op where
  desc     : Bytes                -- the descriptor as broadcast
  task     : Nat
  m        : Nat                  -- rows (the batch's count in a gathered task)
  rows     : List RowRec          -- row table from the submissions
  tiles    : List (Nat × Nat)     -- included tiles and widths at the broadcast
  plan     : Plan
  phase    : Nat                  -- K-split phase 1-4 (R85)
  residue  : List Nat             -- tiles whose results are poison (R99)
  badCells : List (Nat × Nat)     -- output elements to be written as poison (row, column)
  att      : Option AttState
  prog     : Bytes                -- program image broadcast (R93)
  error    : Option Nat           -- reason with which the operation ends
  sums     : List Partial := []   -- partials computed in phase 1
  ended    : Option OpResult := none  -- its results are written, and their acknowledgements awaited (R252)
  start    : Nat                  -- timebase at the broadcast
  deriving DecidableEq, Repr

/-- Work started and not completed: a batch or a periodic instance, the index of its next operation. -/
structure Running where
  task    : Nat
  subs    : List Nat              -- submissions, or empty for an instance
  cls     : Option Nat            -- periodic class
  next    : Nat                   -- operation index
  poison  : List Nat              -- submissions (or 0 for an instance) that wrote poison
  abort   : Option (Origin × Nat)  -- the TASK_ABORT that ends it, and its count
  badSubs : List (Nat × Nat × Nat × Nat)  -- per-submission error: id, reason, OP_TAG, index
  entries : List AttEntry := []   -- entries of an ATTENTION whose buckets have not run (R156)
  steadyLog : Bool := false       -- STEADY_GOVERNED already logged for it (R454)
  deriving DecidableEq, Repr

structure Sched where
  subs     : List Sub := []
  windows  : List Window := []
  ready    : List Batch := []
  running  : List Running := []   -- at the head the work the array serves now
  op       : Option Op := none
  nextId   : Nat := 0
  lastTag  : Nat := 0             -- OP_TAG of the operation most recently broadcast
  deriving DecidableEq, Repr

/-! ## Tiles (03) -/

structure TileStat where
  width    : Nat := 0
  excluded : Bool := false
  new      : Bool := false
  runtime  : Bool := false
  bypassed : List Nat := []
  deriving DecidableEq, Repr

/-- A line held in a tile's L1: pod global address, way of its set, bytes. -/
structure L1Line where
  addr  : Nat
  way   : Nat
  data  : Bytes
  held  : Nat                     -- bit i: byte i is held
  dirty : Nat                     -- bit i: byte i written by the tile
  poison : Nat := 0               -- bit i: sector i came as poison (Table 18.5)
  deriving DecidableEq, Repr

inductive TileRun where
  | idle | running | atSync | halted | faulted
  deriving DecidableEq, Repr

structure Tile where
  x      : Tab Nat := []          -- scalar registers, 64 bits
  v      : Tab Nat := []          -- vector registers, 512 bits
  pc     : Nat := 0               -- instruction index
  state  : TileRun := .idle
  lb     : Tab (Option Byte) := []  -- local buffer; a byte not written in the operation is free (R92)
  salt   : Nat := 0               -- the model's own: numbers the free bytes of the local buffer
  l1     : List L1Line := []
  wrote  : List (Nat × Nat) := [] -- lines that the tile has written in the operation, and their sectors (R99)
  plru   : Tab Nat := []          -- per L1 set: seven node bits
  loops  : List (Nat × Nat × Nat) := []  -- hardware loops: first, last instruction, runs left
  deriving DecidableEq, Repr

/-- A leaf entry that a page walker has cached: directory and page that it resolves, and its value (R151). -/
structure WalkEntry where
  dir  : Nat
  page : Nat
  pte  : Nat
  deriving DecidableEq, Repr

structure Tiles where
  stat  : Tab TileStat := []
  tile  : Tab Tile := []
  walk  : Tab (List WalkEntry) := []  -- page walkers: leaf entries cached, the latest used first (R151)
  prog  : Bytes := []             -- program memory of every included tile: the image last broadcast
  deriving DecidableEq, Repr

/-! ## Stacked memory, side stacks (06, 07) -/

/-- What a stored sector holds beside its data bytes: the difference of its check bytes from the encoder's
(0x5A5A_5A5A is the poison stamp, R190) and the three copies of the dead bit (R192). -/
structure Mark where
  check : Nat := 0
  dead  : Nat := 0
  deriving DecidableEq, Repr

/-- An access that a shank or a side-stack controller holds until it can serve it (R174, R198, R210, R213, R215): with the
errors that its reads find, the sectors that a write stamps as poison, and whether its acknowledgement has been given. -/
structure HeldAccess where
  req    : Requester
  addr   : Nat
  acc    : SideAccess
  errs   : List CellError
  again  : List CellError
  cross  : List LaneError := []   -- what its crossing will change (R169)
  stamps : Nat := 0
  posted : Bool := false
  deriving DecidableEq, Repr

structure Shank where
  failed    : Nat := 0            -- mask of failed groups
  valid     : Bool := false
  runtime   : Bool := false
  bucket    : Nat := 0
  overflow  : Bool := false
  ceHold    : Bool := false       -- no further MEM_CE_OVERFLOW until the level is 48 or below
  ceTotal   : Nat := 0
  remaps    : List (Nat × Nat × Nat) := []   -- tier, bank, row
  exhausted : Bool := false
  calMv     : Nat := 0            -- VTIER target for whose rate the shank was trained or recalibrated last (R171, R172)
  fault     : Option Nat := none  -- group whose fault is being handled (R174)
  doubt     : Bool := false       -- a fault that the guard has shown is being handled, its group not identified (R173)
  tries     : Nat := 0            -- guard mismatches in a row of the transfer `trying`
  trying    : Option (Requester × Bool × Nat) := none  -- requester, write, line
  copying   : Option (Nat × Nat × Nat) := none  -- row being copied to its spare
  toCopy    : List (Nat × Nat × Nat) := []      -- rows to be remapped after it (R198)
  held      : List HeldAccess := []             -- accesses that wait, oldest first
  deriving DecidableEq, Repr

structure Tier where
  band     : Nat := 0
  forced   : Bool := false
  failed   : Bool := false
  postMax  : Nat := 0
  deriving DecidableEq, Repr

structure Side where
  state    : Nat := 0             -- SIDE_STAT.STATE
  ledger   : Bool := false
  valid    : Bool := false
  runtime  : Bool := false
  bucket   : Nat := 0
  overflow : Bool := false
  ceHold   : Bool := false
  ceTotal  : Nat := 0
  remaps   : List (Nat × Nat × Nat) := []    -- pseudo-channel, bank, row
  exhausted : Bool := false
  limit    : Nat := 0             -- LIMIT_PCT
  fails    : List (Nat × Nat) := []  -- link-check failures of the transfers under way, by line (R215)
  retrain  : Option Nat := none   -- start of the previous retrain
  moved    : Nat := 0             -- bytes that count against the present 1 us window
  copying  : Option (Nat × Nat × Nat) := none
  toCopy   : List (Nat × Nat × Nat) := []
  held     : List HeldAccess := []           -- accesses that wait, oldest first
  deriving DecidableEq, Repr

structure Stack where
  mem     : List Host.Cell := []  -- device address, byte; unlisted bytes read 0 (R412)
  mark    : Tab Mark := []        -- by sector number (address / 32)
  shanks  : Tab Shank := []
  tiers   : Tab Tier := []        -- index 0-7 for M1-M8
  sides   : Tab Side := []
  owed    : Tab Nat := []         -- refresh slots owed per tier-column, (m-1)*256+t
  posts   : Tab Nat := []         -- postponements per tier-column
  rows    : Tab Nat := []         -- open row + 1 per bank, ((m-1)*256+t)*16+bank
  adds    : Tab Nat := []         -- by line number: add codes met since its last plain write, 1 XF640, 2 others (R125)
  leakS   : Nat := 10
  leakAt  : Nat := 0              -- timebase of the latest leak (R193)
  scrubEn : Bool := true
  scrubH  : Nat := 24
  scrub   : Nat := 0              -- next stack sector for patrol scrub
  scrubSide : Tab Nat := []
  deriving DecidableEq, Repr

/-! ## Caches (09) -/

/-- A sector as an L2 slice holds it: `mask` says which bytes are held; `poison` and `dead` its status. -/
structure Sector where
  data   : Bytes := []            -- 32 bytes, or empty when nothing is held
  mask   : Nat := 0
  poison : Bool := false
  dead   : Bool := false
  dirty  : Bool := false
  deriving DecidableEq, Repr

structure L2Line where
  valid  : Bool := false
  index  : Nat := 0               -- shank-local index L
  pinned : Bool := false
  secs   : List Sector := []
  deriving DecidableEq, Repr

/-- A request held in a miss entry (R259). -/
inductive MissReq where
  | read (req : Requester) (alloc : Bool)
  | write (req : Requester) (data : List (Option Byte))
  | add (req : Requester) (code mask : Nat) (data : Bytes)
  | post (req : Requester) (data : List (Option Byte)) (stamps : Nat)   -- a write of a larger command, already acknowledged
  deriving DecidableEq, Repr

structure Miss where
  slice : Nat
  index : Nat
  reqs  : List MissReq
  deriving DecidableEq, Repr

structure Thrash where
  acc    : Nat := 0
  miss   : Nat := 0
  logged : Bool := false
  deriving DecidableEq, Repr

structure Caches where
  lines   : Tab L2Line := []      -- slice*8192 + set*16 + way
  plru    : Tab Nat := []         -- slice*512 + set: 15 node bits
  misses  : List Miss := []
  late    : List Miss := []       -- requests that wait: a 17th request, or a full miss table
  thrash  : Tab Thrash := []
  pct     : Nat := 50
  ms      : Nat := 10
  pctUse  : Nat := 50             -- in effect since the last window boundary
  msUse   : Nat := 10
  deriving DecidableEq, Repr

/-! ## The on-die network (10) -/

/-- An endpoint of a welt (Table 10.1). `router` is the mesh side; `tiles` are the included tiles, to which the hub
broadcasts (R284); `welt` is where a cluster's barrier arrivals are combined (R286). -/
inductive Endpoint where
  | tile (t : Nat)
  | slice (t : Nat)
  | side (i : Nat)
  | group (g : Nat)               -- ports p(4g) to p(4g + 3)
  | hub
  | router
  | tiles
  | welt (c : Nat)
  deriving DecidableEq, Repr

/-- A message on a welt or on the mesh (R277): source and destination cluster and endpoint, channel of Table 10.2 (0 CTL,
1 REQ, 2 RSP, 3 BULK), flits in all and those still to be injected, flow (R288). -/
structure MeshMsg where
  id     : Nat
  src    : Nat
  dst    : Nat
  input  : Endpoint               -- where it entered this welt
  output : Endpoint
  vc     : Nat
  flits  : Nat
  left   : Nat
  flow   : Nat := 0
  cast   : Bool := false          -- a broadcast
  ready  : Nat := 0               -- step from which a welt output may grant it (R278)
  deriving DecidableEq, Repr

/-- A flit in a router: the message that its sideband names, its place in it, the outputs that still take it, the step or
slot from which it may go on (R278, R289), and how often each output has passed it over (R280). -/
structure MeshFlit where
  msg    : MeshMsg
  n      : Nat
  last   : Bool
  todo   : List Nat
  ready  : Nat
  passed : Tab Nat := []
  deriving DecidableEq, Repr

/-- A router: inputs are 1 N, 2 E, 3 S, 4 W, 5 L, outputs 0 N, 1 E, 2 S, 3 W, 4 L, as in a Last (R291). -/
structure Router where
  bufs  : Tab (List MeshFlit) := []  -- input and channel, or flow: at most 8 flits (R277, R288)
  turn  : Tab Nat := []           -- output * 4 + channel: input granted last (R280)
  lock  : Tab Nat := []           -- output * 4 + channel: input whose message is under way, 0 for none
  count : Nat := 0                -- steps, or slots begun (R287)
  wait  : Bool := false           -- a Last is loaded, and its slot counter waits for the start token (Table 10.5, step 5)
  deriving DecidableEq, Repr

/-- A welt: the messages that wait at it for an output, oldest first (R276, R283). -/
structure Welt where
  wait  : List MeshMsg := []
  turn  : Tab Nat := []           -- output: input granted last
  ctl   : Nat := 0                -- steps until a CTL flit may be injected (R280)
  deriving DecidableEq, Repr

structure Mesh where
  routers : Tab Router := []
  welts   : Tab Welt := []
  next    : Nat := 0              -- the model's own: numbers the messages
  hold    : Bool := false         -- welts hold new REQ, RSP and BULK injections (Table 10.5, step 2)
  loaded  : Option (Bool × Option Nat) := none  -- the discipline and Last that step 4 has loaded, until step 6
  token   : Option Nat := none    -- the start token's message
  image   : Bytes := []           -- the Last that the routers and welts have loaded; empty under BOUNDED
  acc     : Nat := 0              -- the model's own: thousandths of a step left over
  deriving DecidableEq, Repr

/-! ## Awls (08) -/

inductive AwlWait where
  | none | send | recv | bar | load
  deriving DecidableEq, Repr

inductive AwlRun where
  | idle | running | halted | faulted | budget
  deriving DecidableEq, Repr

/-- A line access in flight (R222): destination register, word access or pair, local index, word offset. -/
structure AwlLoad where
  pc   : Nat                      -- index of the load
  word : Bool
  reg  : Nat
  idx  : Nat
  off  : Nat
  deriving DecidableEq, Repr

structure Awl where
  x       : Tab Nat := []         -- 32 bits each
  v       : Tab Nat := []         -- 512 bits each
  pc      : Nat := 0
  last    : Nat := 0              -- index of the last instruction executed
  state   : AwlRun := .idle
  cause   : Nat := 0
  rank    : Nat := 0
  insns   : Nat := 0
  since   : Nat := 0              -- instructions since the last yield point
  yields  : Nat := 0
  preempt : Nat := 0
  inHold  : Bool := false
  wait    : AwlWait := .none
  paused  : Bool := false
  scratch : Tab (Option Byte) := []   -- none: the argument block's byte, or 0
  rxq     : List (Nat × Nat) := []    -- sender rank, payload (512 bits)
  resv    : Nat := 0              -- queue slots reserved by messages under way
  loads   : List AwlLoad := []
  loops   : List (Nat × Nat × Nat) := []
  deriving DecidableEq, Repr

/-- A queued awl run (R240). -/
structure RunReq where
  sub    : Nat                    -- work entry id
  block  : Bytes                  -- run block
  deriving DecidableEq, Repr

/-- The run in progress. -/
structure CurRun where
  sub    : Nat
  block  : Bytes
  prog   : Bytes
  args   : Bytes
  awls   : List Nat               -- unit ids, rising
  left   : Nat                    -- timebase ticks of its budget that are left (R243)
  faultLogged : Bool
  deriving DecidableEq, Repr

/-- A tier-bus message that has its queue slot and waits for the bus. -/
structure BusMsg where
  src     : Nat                   -- unit id
  rank    : Nat
  dst     : Option Nat            -- destination unit; none for a broadcast
  payload : Nat
  deriving DecidableEq, Repr

structure Awls where
  awl    : Tab Awl := []
  queue  : List RunReq := []
  cur    : Option CurRun := none
  bus    : List BusMsg := []      -- in the order the messages were offered
  turn   : Tab Nat := []          -- per tier: unit id after which the round robin goes on
  deriving DecidableEq, Repr

/-! ## Jorelink ports (11) -/

/-- A DATA flit held for replay, with the requests that have units in it. -/
structure HeldFlit where
  seq     : Nat
  vc      : Nat
  units   : Nat
  start   : Nat
  payload : Bytes
  replays : Nat := 0
  reqs    : List (Nat × Option Nat) := []  -- requests with a unit in it, and the unit where they begin
  deriving DecidableEq, Repr

/-- A 16-byte unit of a message that waits to enter a DATA flit. -/
structure TxUnit where
  vc    : Nat
  start : Bool
  bytes : Bytes
  req   : Option Nat              -- the outstanding request it belongs to
  fwd   : Option Nat              -- the forwarding store it lies in (group of four ports)
  deriving DecidableEq, Repr

/-- A message complete in a port's receive buffer; `flits` says how many of its units lie in which flit. -/
structure RxMsg where
  vc    : Nat
  seq   : Nat                     -- flit and unit where it began
  unit  : Nat
  bytes : Bytes
  flits : List (Nat × Nat)
  deriving DecidableEq, Repr

/-- A message that is still arriving on a channel. -/
structure PartMsg where
  seq   : Nat
  unit  : Nat
  need  : Nat                     -- units still missing
  bytes : Bytes
  flits : List (Nat × Nat)
  drop  : Bool                    -- a flit of it was dropped
  deriving DecidableEq, Repr

/-- Session state of a port (R315, R320-R325). -/
structure Session where
  own      : Nat := 0
  partner  : Nat := 0
  serial   : Nat := 0
  port     : Nat := 0
  nextTx   : Nat := 0
  expect   : Nat := 0             -- E
  gotAny   : Bool := false        -- a DATA flit of the session has been received
  held     : List HeldFlit := []
  credits  : List Nat := [0, 0, 0, 0]   -- advertised by the partner
  sent     : List Nat := [0, 0, 0, 0]   -- flits sent on each channel since the session began
  cum      : List Nat := [0, 0, 0, 0]   -- partner's CRED_CUM
  freed    : List Nat := [0, 0, 0, 0]   -- flits this side freed
  buf      : List (Nat × Nat × Nat) := []  -- flits in this side's buffers: sequence, channel, units not yet taken
  tx       : List TxUnit := []    -- units that wait for a flit, in order
  passed   : List Nat := [0, 0, 0, 0]   -- times the channel's head flit was passed over (R280)
  credTurn : Nat := 0             -- CRED_VC of the next transmitted flit
  replayOut : Bool := false       -- a REPLAY_REQ is outstanding
  unacked  : Nat := 0             -- DATA flits received since the last acknowledgement sent
  acked    : Nat := 0             -- flits of the session freed so far, at most 256 (R321)
  initHdr  : Option Nat := none   -- header of a CREDIT_INIT that came before the session was decided
  partnerInit : Bool := false     -- the partner's CREDIT_INIT has arrived
  parts    : Tab (Option PartMsg) := []
  rx       : List RxMsg := []
  valid    : Bool := false        -- a session has been opened since the reset
  deriving DecidableEq, Repr

/-- The stream that a port sends (R307, R309): bits that wait to fill a codeword, codewords sent, the scrambler of each lane,
and the levels that each lane carried for the codewords which the latest flit completed. -/
structure WireTx where
  left  : List Bool := []
  count : Nat := 0
  scr   : List Nat := []          -- 58 bits each; lanes beyond the list 0
  wire  : List (List Nat) := []
  deriving DecidableEq, Repr

/-- The receiving side of a port's lanes (R307, R309, R335). -/
structure Phy where
  reversed : Bool := false        -- lane order, and the lanes of inverted polarity, as training found them
  inverted : Nat := 0
  tx       : WireTx := {}
  count    : Nat := 0             -- codewords received since an alignment marker, modulo 16,384
  losses   : List Nat := []       -- times of uncorrectable codewords of the last ms (R327)
  trail    : List (Nat × Nat) := []  -- wrong bits that the descramblers hold: lane, bits before the next codeword
  ready    : Nat := 0             -- bits decoded and not yet taken as flits
  skip     : Nat := 0             -- first bits of the next codeword that belong to a flit already lost
  wrong    : List Nat := []       -- places among the decoded bits that are wrong all the same
  received : Nat := 0             -- symbols received and corrected since the latest bucket of 1 ms
  fixed    : Nat := 0
  window   : List (Nat × Nat) := []  -- the same of the last 100 buckets, newest first
  deriving DecidableEq, Repr

structure Port where
  state    : Nat := 0             -- code of Table 11.3
  phy      : Phy := {}
  cable    : Bool := false
  resumed  : Bool := false
  decided  : Option Bool := none  -- step 7 of Table 11.4 is done, and whether the session resumes
  sess     : Session := {}
  attempts : Nat := 0             -- consecutive failed attempts
  failLog  : Bool := false        -- PORT_TRAIN_FAIL logged since the port was last ACTIVE
  tried    : Bool := false        -- attempted in this bring-up's stage 3
  buckets  : List Nat := []       -- violation counts of the last buckets of 1 ms, newest first
  viol     : Tab Nat := []        -- totals per code 1-5
  violLast : Tab Nat := []        -- counts since the last FABRIC_VIOLATION
  lastViol : Nat := 0
  retrains : Nat := 0
  quars    : Nat := 0
  holdLog  : Nat := 0
  crcErrs  : Nat := 0
  fecUnc   : Nat := 0
  replays  : Nat := 0
  symErr   : Nat := 0             -- SYM_ERR as the latest bucket left it
  dups     : Nat := 0             -- duplicates and gaps of Table 11.7b
  gaps     : Nat := 0
  sinceIdle : Nat := 0            -- flits sent since the last IDLE
  member   : Option Nat := none   -- device the port serves as a direct route (R347)
  conflict : Bool := false
  partPort : Nat := 0
  deriving DecidableEq, Repr

/-! ## Messages and pods (12) -/

/-- An exported window (Table 12.4). -/
structure Win where
  base    : Nat := 0
  len     : Nat := 0
  read    : Bool := false
  write   : Bool := false
  add     : Bool := false
  devices : Nat := 0
  deriving DecidableEq, Repr

structure PodRec where
  id      : Nat := 0
  device  : Nat := 0
  head    : Nat := 0
  members : Nat := 0
  windows : List Win := []
  deriving DecidableEq, Repr

structure Route where
  ports    : Nat := 0
  next     : Nat := 0
  valid    : Bool := false
  auto     : Bool := false
  altPorts : Nat := 0
  altNext  : Nat := 0
  altValid : Bool := false
  deriving DecidableEq, Repr

/-- For whom a request to another module is outstanding. -/
inductive ReqFor where
  | hostRead (len : Nat)          -- a remote BAR2 read
  | hostWrite
  | relay (o : Origin) (mseq : Nat)   -- POD_SEND
  | frames (o : Origin)           -- SEQ_EXTEND of a remote pool
  | mailbox
  | child (coll : Nat)            -- a COLLECTIVE sent on to a child
  | unit                          -- a unit's own, whose status its row takes
  | posted                        -- a write-back of a tile's L1 that no row waits for
  | signal                        -- a SIGNAL of a unit, completed to it
  | carried                       -- no request of this module: a response, or a message that it forwards, refused BUSY
  | store (o : Origin) (reply : Bytes)  -- a WRITE whose command answers once all its WRITEs have ended
  deriving DecidableEq, Repr

structure Request where
  id       : Nat
  tag      : Nat
  type     : Nat
  dst      : Nat
  vc       : Nat
  unit     : Nat                  -- requesting unit, as EVT.SOURCE
  bytes    : Bytes                -- the whole message
  why      : ReqFor
  busy     : Nat := 0             -- NACK BUSY received
  retried  : Bool := false        -- a READ sent once more
  holding  : Bool := false        -- refused with a NACK BUSY and not yet answered
  refused  : Bool := false        -- the latest attempt was refused: it waits for BUSY_RETRY
  sent     : Bool := true         -- false while it waits behind a refused message or, a SIGNAL, for earlier ones
  signal   : Bool := false        -- a SIGNAL held back
  fails    : Nat := 0             -- first status other than OK among the messages it waits for
  fwd      : Option Nat := none   -- the forwarding store that a carried message lies in
  deriving DecidableEq, Repr

/-- A COLLECTIVE in progress at this member (R346). -/
structure Coll where
  id       : Nat
  parent   : Option (Nat × Nat × Nat)   -- port, device, tag: none at the root
  waiting  : Nat                  -- children that have not answered
  status   : Nat
  unit     : Nat                  -- at the root, the unit that issued it
  mask     : Nat                  -- at the root, the members that its SIGNALs wait for (R345)
  deriving DecidableEq, Repr

/-- A queued MAILBOX message: from which port and device, service, sequence number, payload. -/
structure MboxMsg where
  port    : Nat
  src     : Nat
  service : Nat
  seq     : Nat
  payload : Bytes
  deriving DecidableEq, Repr

structure Pod where
  stored   : PodRec := {}         -- in NVM
  eff      : PodRec := {}         -- in effect
  routes   : Tab Route := []
  saved    : Tab Route := []      -- entries of ROUTE_SET, stored with the pod record
  reqs     : List Request := []
  colls    : List Coll := []
  mbox     : List MboxMsg := []
  nextReq  : Nat := 0
  bad      : Tab Nat := []        -- by unit * 64 + device: first status other than OK of messages that no SIGNAL has answered for
  mseq     : Nat := 0             -- sequence number of the next MAILBOX message
  heard    : Nat := 0
  missing  : Nat := 0             -- members logged as missing
  stray    : Nat := 0
  deriving DecidableEq, Repr

/-! ## Thermal and coolant (16) -/

/-- Actions of Table 16.4 that the thermal governor holds for a group. -/
structure Held where
  rail : Nat := 0                 -- mV of the first action (VCORE of the cluster, VTIER of the tier)
  core : Nat := 0                 -- mV of a tier's second action, every VCORE
  act  : Nat := 0                 -- quarters of activity
  lim  : Nat := 0                 -- steps of the side-stack limit
  deriving DecidableEq, Repr

/-- Sensors are numbered 2h+i for hot spots, 64+16(m-1)+i for tiers, 192+4s+i for side stacks, 240 inlet,
241 outlet, 242 flow; groups h, 32+(m-1), 40+s. Temperatures are in thousandths of a degree. -/
structure Thermal where
  reading  : Tab Int := []
  failed   : Tab Bool := []
  flagged  : Tab Bool := []       -- by hot spot
  temp     : Tab Int := []        -- by group
  hot      : Tab Nat := []        -- consecutive samples at the shutdown threshold, by group
  warn     : Tab Bool := []
  throttle : Tab Bool := []
  ahead    : Tab Int := []
  idle     : Tab Int := []
  present  : Tab Int := []
  gap      : Tab Nat := []        -- how far the target lies below the Throttle threshold
  acts     : Tab Held := []
  suspect  : Tab Bool := []       -- by tier 0-7
  estimate : Tab Int := []        -- uncorrected estimate by tier 0-7
  actWait  : Nat := 0             -- ticks until the activity level may change again (Table 16.4)
  limWait  : Tab Nat := []        -- ticks until a side stack's limit may change again
  throtLog : Tab Nat := []        -- 1 + timebase of the latest THERMAL_THROTTLE, by group
  hold     : Bool := false        -- THERMAL_HOLD
  holdLoss : Bool := false        -- it was entered on COOLANT_LOSS
  tts      : Nat := 0xFFFFFFFF
  nBase    : Nat := 0
  nTier    : Nat := 0
  reportMs : Nat := 0
  noticed  : Tab Bool := []       -- 0 base die, 1-8 tiers
  deriving DecidableEq, Repr

structure Coolant where
  inlet    : Int := 0
  outlet   : Int := 0
  flow     : Nat := 0             -- mL/min
  flowEst  : Bool := false
  hist     : List Nat := []       -- 1 ms flow samples, newest first, at most 10,000
  warning  : Bool := false
  sticky   : Bool := false        -- the Warning of R445
  loss     : Bool := false
  pump     : Nat := 100
  pumpMin  : Nat := 30
  fixed    : Bool := false
  share    : Nat := 60            -- fixed share
  valve    : Nat := 60
  tach     : Nat := 0
  tachLog  : Bool := false
  capOn    : Bool := false
  capW     : Nat := 0
  deriving DecidableEq, Repr

/-- A shutdown record (Table 16.10); its CRC follows from the other fields. -/
structure SdRec where
  cause2040 : Nat
  peak      : Nat
  inlet     : Nat
  vin       : Nat
  resetGen  : Nat
  count     : Nat
  cause     : Nat
  unit      : Nat
  flow      : Nat
  time      : Nat
  deriving DecidableEq, Repr

structure Shutdown where
  cause   : Nat := 0              -- EMERG.CAUSE
  unit    : Nat := 0
  latchAt : Nat := 0
  writing : Option SdRec := none  -- record not yet written
  ring    : List (Option SdRec) := []  -- newest first, at most 16; none: its CRC fails
  count   : Nat := 0
  deriving DecidableEq, Repr

/-! ## Firmware and measurement (17) -/

/-- What a firmware slot holds: nothing, the image of manufacture, or a staged image. -/
inductive Image where
  | empty
  | factory
  | bytes (bs : Bytes)
  deriving DecidableEq, Repr

structure Selector where
  active : Nat := 0
  trial  : Bool := false
  count  : Nat := 0
  gen    : Nat := 0
  deriving DecidableEq, Repr

structure Meas where
  kind   : Nat
  digest : Bytes
  tag    : Nat
  count  : Nat
  first  : Nat
  deriving DecidableEq, Repr

structure Firmware where
  slotA    : Image := .factory
  slotB    : Image := .empty
  sel      : Selector := {}
  oldSel   : Selector := {}       -- the other copy
  running  : Nat := 0             -- slot of the running image
  rollback : Nat := 0             -- blown FUSE.ROLLBACK bits
  staged   : Bytes := []          -- bytes in the inactive slot
  chunk    : List (Nat × Bytes) := []  -- pieces of a chunk that is being read from host memory, by address
  chunkBad : Bool := false        -- a read of that chunk has failed
  step     : Nat := 0             -- SUM.FW_STEP
  interrupted : Bool := false
  stagedVer : Nat := 0
  oldVer   : Nat := 0             -- version before the activation
  stageMeas : Tab Bytes := []     -- stage measurements; empty reads as 64 zero bytes
  list     : List Meas := []
  reg      : Bytes := []          -- runtime register; empty reads as 64 zero bytes
  overflow : Nat := 0
  fullLog  : Bool := false
  more     : List (Nat × Bytes) := []  -- pairs of kind and digest seen since the list was full
  ending   : Nat := 0             -- FW commands that an FLR lets end before Table 17.5 is applied (R466)
  debugLock : Bool := true        -- FUSE.DEBUG_LOCK (Table 17.1)
  deriving DecidableEq, Repr

/-! ## Events, counters, trace (18) -/

structure EvtRec where
  time : Nat
  code : Nat
  src  : Nat
  sev  : Nat
  cont : Bool
  irq  : Bool
  seq  : Nat
  data : Nat
  deriving DecidableEq, Repr

/-- Occurrences of a rate-limited event folded into its next record (R474); `key` is the unit, as EVT.SOURCE, or
the object of a HOST_DMA_ERROR (0x90000 + 256 x kind + id). -/
structure Fold where
  code  : Nat
  key   : Nat
  count : Nat                     -- folded since the last record
  data  : Nat                     -- data of the latest
  deriving DecidableEq, Repr

structure Events where
  window : Tab (Option EvtRec) := []   -- entry q mod 256
  seq    : Nat := 0
  early  : List EvtRec := []      -- logged before the end of stage 1
  folds  : List Fold := []        -- intervals that run
  perMs  : Tab (Nat × Nat) := []  -- per code: the 1 ms window last written in (index + 1), records written in it
  supp   : Tab Nat := []          -- records suppressed in it
  cnt    : Tab Nat := []          -- counters: class * 2^20 + unit * 16 + slot
  since  : Tab Nat := []          -- class * 2^16 + unit
  recent : List EvtRec := []      -- the last 16 records, newest first
  degraded : Bool := false
  why    : Nat := 0               -- DEGRADED_WHY
  deriving DecidableEq, Repr

structure TraceRec where
  time : Nat
  kind : Nat
  src  : Nat
  data : Nat
  deriving DecidableEq, Repr

structure Trace where
  enabled : Bool := false
  wrap    : Bool := false
  armed   : Bool := false
  minSev  : Nat := 0
  trigger : Nat := 0
  kinds   : Nat := 0
  base    : Nat := 0
  len     : Nat := 0
  sampleUs : Nat := 0
  clusters : Nat := 0
  post    : Nat := 0
  written : Nat := 0
  lost    : Nat := 0
  lostNew : Nat := 0              -- lost since the latest LOST record
  triggered : Bool := false
  ahead   : Nat := 0              -- queued records up to the trigger's own, when it was logged
  after   : Nat := 0              -- records written that followed the trigger
  start   : Nat := 0
  queue   : List TraceRec := []
  deriving DecidableEq, Repr

/-! ## SUMMARY and SMBus (14) -/

structure Telemetry where
  page   : Bytes := []            -- SUMMARY page; empty reads as zeros
  snap   : Nat := 0
  mask   : Nat := 0x0F            -- SMB.ALERT_MASK
  alert  : Nat := 0               -- SMB.ALERT_STATUS
  deriving DecidableEq, Repr

/-! ## What leaves the module -/

/-- Completion status of a host request, worst last (R220). -/
inductive CplStatus where
  | ok | ep | abort | unsupported
  deriving DecidableEq, Repr

/-- Something an outside party receives from the module. -/
inductive Output where
  | registerRead (bs : Bytes)                         -- completion of a BAR0 read
  | completion (st : CplStatus) (bs : Bytes)          -- completion of a BAR2 read
  | hostWrite (addr : Nat) (bs : Bytes) (ep ro : Bool)  -- a write to host memory: EP, Relaxed Ordering
  | hostRead (tag addr len : Nat) (ro : Bool)         -- a read of host memory
  | msix (v addr data : Nat)                          -- an MSI-X message
  | retry                                             -- Configuration Request Retry Status
  | smbus (bs : Bytes) (pec : Nat)                    -- answer to an SMBus read, and the PEC that may follow it
  | smbusNak
  | flit (p hdr : Nat) (payload : Bytes) (crc : Nat)  -- the 256 bytes of a flit sent on a port (R316)
  | lineData (req : Requester) (bs : Bytes) (poison dead : Nat)   -- data that a home or tier returned
  | lineAck (req : Requester)
  | lineError (req : Requester)                       -- error completion
  | requestEnd (unit status : Nat)                    -- a SIGNAL or a COLLECTIVE of a unit has ended (R345, R346)
  deriving DecidableEq, Repr

/-- The state of the block. -/
structure State where
  power    : Power := {}
  pace     : Pace := {}
  bring    : BringUp := {}
  pcie     : Pcie := {}
  mail     : Mail := {}
  obj      : Objects := {}
  sched    : Sched := {}
  tiles    : Tiles := {}
  stack    : Stack := {}
  cache    : Caches := {}
  mesh     : Mesh := {}
  awls     : Awls := {}
  ports    : Tab Port := []
  pod      : Pod := {}
  thermal  : Thermal := {}
  coolant  : Coolant := {}
  shut     : Shutdown := {}
  fw       : Firmware := {}
  ev       : Events := {}
  trace    : Trace := {}
  tele     : Telemetry := {}
  sram     : Tab Byte := []         -- Cobbler SRAM (Table 7.7)
  timebase : Nat := 0
  fresh    : Nat := 0               -- the model's own: numbers the free values
  waits    : Bool := false          -- the model's own: an access of the command in hand met a place that holds accesses
  out      : List Output := []      -- the model's own: what has left the module, oldest first
  pending  : List Instr := []       -- the model's own: commands that wait, first in first out
  deriving DecidableEq, Repr

/-- The module before power is applied: every register at its reset value, nothing listed in memory, no command
waiting. -/
def State.reset : State := {}

/-- Why the machine stops. -/
inductive Fault where
  /-- Raised by the power-input commands when a quantity lies beyond the absolute maximum ratings of Table 1.5:
  R32 gives no assurance of any behaviour there. Safe: the model stops where the spec says nothing. -/
  | beyondAbsoluteMaximum
  deriving DecidableEq, Repr

/-- Why a command has no meaning. -/
inductive Refusal where
  /-- An arm of `exec` without a meaning yet. Safe: nothing is claimed. -/
  | notModelled (mnemonic : String)
  deriving DecidableEq, Repr

end Sys2Proof.Machine
end

