-- ==== Sys2Proof/Machine/Mesh.lean ====
section
/-! DEFINITION. Places and messages of the on-die network: the routers and the endpoints of the welts (R275), the broadcast
tree (R284, R286), the image of a Last (R291), and how a message comes to its welt (R277, R279). What a message asks for
happens with its command; the network shows its way (DESIGN CHOICE, log 165). -/

namespace Sys2Proof.Machine

/-! ### Places (R275) -/

/-- The cluster of a side stack's controller (Table 7.3) and of a tile or a slice. -/
def sideCluster (i : Nat) : Nat := ([0, 4, 4, 8, 8, 12, 3, 7, 7, 11, 11, 15] : List Nat).getD i 0
def tileCluster (t : Nat) : Nat := 4 * (t / 64) + t % 16 / 4

/-- The cluster whose welt an endpoint joins (Table 10.1). -/
def Endpoint.cluster : Endpoint → Nat
  | .tile t | .slice t => tileCluster t
  | .side i => sideCluster i
  | .group g => if g < 4 then g else g + 8
  | .hub | .router | .tiles => 5
  | .welt c => c

/-- The number of an endpoint within its welt. -/
def Endpoint.index : Endpoint → Nat
  | .tile t => t / 16 % 4 * 4 + t % 4
  | .slice t => 16 + t / 16 % 4 * 4 + t % 4
  | .side i => 32 + i % 2
  | .group _ => 34
  | .hub => 35
  | .router => 36
  | .tiles => 37
  | .welt _ => 38

/-- A router of the 4×4 mesh has the port. -/
def hasPort (router o : Nat) : Bool :=
  match o with
  | 0 => decide (4 ≤ router)
  | 1 => router % 4 != 3
  | 2 => decide (router < 12)
  | 3 => router % 4 != 0
  | _ => true

/-- The router beyond an output, and the input by which its link's flits enter there. -/
def nextRouter (r o : Nat) : Nat := match o with | 0 => r - 4 | 1 => r + 1 | 2 => r + 4 | _ => r - 1
def farInput (o : Nat) : Nat := match o with | 0 => 3 | 1 => 4 | 2 => 1 | _ => 2

/-- Output of the dimension-order path (R281): along the row to the destination's column, then along the column. -/
def routeOut (r dst : Nat) : Nat :=
  if r % 4 < dst % 4 then 1 else if dst % 4 < r % 4 then 3 else if r / 4 < dst / 4 then 2 else if dst / 4 < r / 4 then 0 else 4

/-- Outputs that take a broadcast at a router (R284): along row 1, from each of its routers along the column, and to the welt
of every router on the way. -/
def castOuts (r input : Nat) : List Nat :=
  (match input with
    | 5 => [0, 1, 2, 3, 4]
    | 2 => [0, 2, 3, 4]
    | 4 => [0, 1, 2, 4]
    | 3 => [0, 4]
    | _ => [2, 4]).filter (hasPort r)

/-! ### The barrier (R286) -/

/-- Routers whose combined arrivals a router takes in: the broadcast tree in reverse. -/
def barrierFrom (r : Nat) : List Nat :=
  match r / 4, r % 4 with
  | 1, 0 => [r - 4, r + 4]
  | 1, 1 => [r - 4, r + 4, r - 1, r + 1]
  | 1, 2 => [r - 4, r + 4, r + 1]
  | 1, _ => [r - 4, r + 4]
  | 2, _ => [r + 4]
  | _, _ => []

/-- The router that takes in a router's combined arrival. -/
def barrierTo (r : Nat) : Nat :=
  match r / 4 with
  | 0 => r + 4
  | 1 => if r % 4 = 0 then r + 1 else r - 1
  | _ => r - 4

/-- Every included tile of a cluster has arrived: its welt passes one combined arrival. -/
def weltArrived (tiles : List Nat) (arrived : Nat → Bool) (c : Nat) : Bool :=
  tiles.all fun t => tileCluster t != c || arrived t

/-- A router's combined arrival; at the hub's, c5, the barrier is complete. The fuel counts the hops of the tree. -/
def combined (tiles : List Nat) (arrived : Nat → Bool) : Nat → Nat → Bool
  | 0, r => weltArrived tiles arrived r
  | n + 1, r => weltArrived tiles arrived r && (barrierFrom r).all (combined tiles arrived n)

/-- The barrier of a list of tiles is complete. -/
def barrierDone (tiles : List Nat) (arrived : Nat → Bool) : Bool := combined tiles arrived 5 5

/-! ### The image of a Last (Table 10.4, R291) -/

/-- Fields of the header. -/
def lastSlots (b : Bytes) : Nat := field b 2 2
def lastFlows (b : Bytes) : Nat := field b 4 2
def lastTag (b : Bytes) : Nat := field b 6 2
def lastPrint (b : Bytes) : Nat := field b 8 8
def lastLen (b : Bytes) : Nat := field b 16 4
def lastCrc (b : Bytes) : Nat := field b 20 4

/-- Bytes read as little-endian words of `w` bytes. -/
def words (w : Nat) : Nat → Bytes → List Nat
  | 0, _ => []
  | n + 1, bs => leNat (bs.take w) :: words w n (bs.drop w)

/-- The flow map of an image. -/
def flowMap (b : Bytes) : List Nat := words 2 768 (b.drop 128)

/-- The slot table of a router. -/
def slotTable (b : Bytes) (router : Nat) : List Nat := words 8 (lastSlots b) (b.drop (1664 + 8 * lastSlots b * router))

/-- Input and flow that an entry names for an output: N, E, S, W, L are outputs 0 to 4 and inputs 1 to 5. -/
def entryInput (e o : Nat) : Nat := bits e (12 * o + 2) (12 * o)
def entryFlow (e o : Nat) : Nat := bits e (12 * o + 11) (12 * o + 3)

/-- The flow of a message between two clusters on a channel (R288): CTL, and every message under BOUNDED, has none. -/
def flowOf (image : Bytes) (src dst vc : Nat) : Nat :=
  if image.isEmpty || vc == 0 then 0 else field image (128 + 2 * ((src * 16 + dst) * 3 + vc - 1)) 2 % 512

/-! ### Messages (R277, R279) -/

/-- Where a message's flits stand at a router's input: by its channel, or, where the Last schedules it, by its flow, so that
no flow waits on another (R279, R288; DEDUCED, log 193). -/
def MeshMsg.chan (k : MeshMsg) : Nat := if k.flow = 0 then k.vc else 3 + k.flow
def bufKey (i chan : Nat) : Nat := 1024 * i + chan

/-- A message put at its welt. -/
def Mesh.post (m : Mesh) (src dst : Endpoint) (vc flits : Nat) (cast : Bool) : Mesh :=
  let k : MeshMsg := { id := m.next, src := src.cluster, dst := dst.cluster, input := src, output := dst, vc := vc
                       flits := flits, left := flits, cast := cast }
  { m with next := m.next + 1
           welts := Tab.upd {} m.welts src.cluster fun w => { w with wait := w.wait ++ [k] } }

/-- A router's flits as unscheduled ones, each input's channel in order. -/
def Router.unschedule (k : Router) : Tab (List MeshFlit) :=
  k.bufs.foldl (fun bs (x, fs) => fs.foldl (fun bs f =>
    Tab.upd [] bs (bufKey (x / 1024) f.msg.vc) (· ++ [{ f with msg := { f.msg with flow := 0 }, ready := 0 }])) bs) []

/-- The network with a Last loaded, or none (Table 10.5, step 4). What is still under way is unscheduled: CTL alone, but at the
change that an FLR forces (log 165). With a Last every slot counter waits for the start token, which the hub sends on CTL
(step 5). -/
def Mesh.load (m : Mesh) (image : Bytes) : Mesh :=
  let w := !image.isEmpty
  let m := { m with
    image := image, hold := m.hold && w, loaded := none, token := none
    routers := (List.range 16).foldl (fun t r => Tab.upd {} t r fun k => { k with count := 0, wait := w, bufs := k.unschedule })
      m.routers
    welts := m.welts.map fun (c, w) => (c, { w with wait := w.wait.map fun k => { k with ready := 0 } }) }
  if w then { (m.post .hub .tiles 0 1 true) with token := some m.next } else m

/-- Every slot counter runs. -/
def Mesh.started (m : Mesh) : Bool := m.routers.all fun (_, k) => !k.wait

/-- A message from one endpoint to another. -/
def meshSend (src dst : Endpoint) (vc flits : Nat) (s : State) : State :=
  { s with mesh := s.mesh.post src dst vc flits false }

/-- A message of any length: on CTL, which takes two flits at most, as several (R277). -/
def meshLong (src dst : Endpoint) (vc flits : Nat) (s : State) : State :=
  if vc = 0 then
    (List.range ((flits + 1) / 2)).foldl (fun s i => meshSend src dst 0 (min 2 (flits - 2 * i)) s) s
  else meshSend src dst vc flits s

/-- The Cobbler's control of a unit, on CTL (Table 10.2). -/
def controlUnit (e : Endpoint) (s : State) : State := meshSend .hub e 0 1 s

/-- A broadcast of the hub to every included tile (R284): CTL, or BULK. -/
def meshCast (vc flits : Nat) (s : State) : State := { s with mesh := s.mesh.post .hub .tiles vc flits true }

/-- Where a requester stands; an awl's accesses stay in its tier-column. -/
def reqPlace : Requester → Option Endpoint
  | .tile t | .operand t | .stationary t | .output t | .walker t | .frame t => some (.tile t)
  | .awl _ => none
  | .host | .module => some .hub
  | .port p => some (.group (p / 4))

/-- The channel of its requests (Table 10.2): REQ from tiles, BULK from outside them; and of the responses. -/
def reqVc : Requester → Nat
  | .host | .module | .port _ => 3
  | _ => 1
def rspVc (req : Requester) : Nat := if reqVc req = 1 then 2 else 3

/-- A request travels to its home: one flit for a read, two for a line or an operand (R277). -/
def askHome (req : Requester) (home : Endpoint) (flits : Nat) (s : State) : State :=
  match reqPlace req with | some e => meshSend e home (reqVc req) flits s | none => s

/-- The home's response: two flits of data, one of acknowledgement or error. -/
def homeReply (req : Requester) (home : Endpoint) (flits : Nat) (s : State) : State :=
  match reqPlace req with | some e => meshSend home e (rspVc req) flits s | none => s

/-- The unit that a source of Table 18.3 names. -/
def sourcePlace (src : Nat) : Option Endpoint :=
  match src / 4096 with
  | 1 => some (.tile (src % 256))
  | 3 => some (.slice (src % 256))
  | 6 => if src % 4096 < 12 then some (.side (src % 16)) else none
  | 7 => some (.group (src % 32 / 4))
  | _ => none

/-- A unit's report of an event to the Cobbler, on CTL (Table 10.2). -/
def reportEvent (src : Nat) (s : State) : State :=
  match sourcePlace src with | some e => meshSend e .hub 0 1 s | none => s

end Sys2Proof.Machine
end

