-- ==== Sys2Proof/Machine/Phy.lean ====
section
/-! DEFINITION. The lanes of a Jorelink port (R307, R309, R310): scrambling, Gray coding, the lanes' order and polarity, the
RS(544,514) code, how flits lie in codewords, and what the receiver makes of the errors that the wire adds. The code and the
scrambler are linear, so the receiver's part works on the errors alone. -/

namespace Sys2Proof.Machine

/-! ### The scrambler (R307) -/

/-- One bit through the scrambler x^58 + x^39 + 1: bit i of the register is the output of i + 1 bits ago. -/
def scrambleBit (r : Nat) (b : Bool) : Nat × Bool :=
  let o := b ^^ bitB r 38 ^^ bitB r 57
  ((2 * r + b2n o) % 2 ^ 58, o)

/-- One bit through the descrambler: its register holds the bits received. -/
def descrambleBit (r : Nat) (b : Bool) : Nat × Bool :=
  ((2 * r + b2n b) % 2 ^ 58, b ^^ bitB r 38 ^^ bitB r 57)

/-- A lane's bits through either, from a register. -/
def runBits (step : Nat → Bool → Nat × Bool) : Nat → List Bool → List Bool
  | _, [] => []
  | r, b :: bs => (step r b).2 :: runBits step (step r b).1 bs

/-! ### PAM4 and the lanes -/

/-- The level of two bits, Gray coded, the first bit the more significant (R306; log 167). -/
def grayLevel (a b : Bool) : Nat :=
  match a, b with
  | false, false => 0
  | false, true => 1
  | true, true => 2
  | true, false => 3

/-- A lane's bits as levels. -/
def grayCode : List Bool → List Nat
  | a :: b :: rest => grayLevel a b :: grayCode rest
  | _ => []

/-- The lanes of a port put in order and each in its polarity (R307): `p.reversed` and `p.inverted` as training found them. -/
def Phy.correct (p : Phy) (lanes : List (List Bool)) : List (List Bool) :=
  let turned := lanes.zipIdx.map fun (l, i) => if bitB p.inverted i then l.map (! ·) else l
  if p.reversed then turned.reverse else turned

/-! ### RS(544,514) (R309): GF(2^10) modulo x^10 + x^3 + 1, g the product of x - alpha^j for j from 0 to 29 -/

/-- Multiplication in GF(2^10). -/
def rmul (a b : Nat) : Nat :=
  (List.range 10).foldr (fun i acc =>
    let d := acc * 2
    let d := if 1024 ≤ d then d ^^^ 0x409 else d
    if bitB b i then d ^^^ a else d) 0

/-- A power, by the ten bits of its exponent. -/
def rpow (a n : Nat) : Nat :=
  (List.range 10).foldr (fun i acc => let q := rmul acc acc; if bitB n i then rmul q a else q) 1

/-- A power of alpha = 2. -/
def ralpha (n : Nat) : Nat := rpow 2 (n % 1023)

/-- The inverse of a field element. -/
def rinv (a : Nat) : Nat := rpow a 1022

/-- A polynomial's value at a point, constant term first. -/
def polyAt (p : List Nat) (x : Nat) : Nat := p.foldr (fun c acc => rmul acc x ^^^ c) 0

/-- A polynomial plus c times another shifted up by k places. -/
def polyAdd (p q : List Nat) (c k : Nat) : List Nat :=
  (List.range (max p.length (q.length + k))).map fun i =>
    p.getD i 0 ^^^ (if k ≤ i then rmul c (q.getD (i - k) 0) else 0)

/-- The generator polynomial, constant term first. -/
def rsGenerator : List Nat :=
  (List.range 30).foldl (fun g j => polyAdd (g.map (rmul (ralpha j))) g 1 1) [1]

/-- The 30 check symbols of 514 data symbols: what is left of the data by g. -/
def rsCheck (data : List Nat) : List Nat :=
  let g := rsGenerator.take 30
  (data.foldl (fun (r : List Nat) d =>
    let q := d ^^^ r.getD 29 0
    (List.range 30).map fun i => (if i = 0 then 0 else r.getD (i - 1) 0) ^^^ rmul q (g.getD i 0)) (List.replicate 30 0)).reverse

/-- v, v x, v x^2 and so on. -/
def rsPowers (x : Nat) : Nat → Nat → List Nat
  | _, 0 => []
  | v, n + 1 => v :: rsPowers x (rmul v x) n

/-- The syndromes of an error vector, its values at alpha^0 to alpha^29: symbol i is the coefficient of x^(543 - i). -/
def rsSyndromes (e : List (Nat × Nat)) : List Nat :=
  e.foldl (fun acc (i, v) => List.zipWith (· ^^^ ·) acc (rsPowers (ralpha (543 - i)) v 30)) (List.replicate 30 0)

/-- The state of Berlekamp and Massey's algorithm: locator, its previous value, length, gap, previous discrepancy. -/
structure Massey where
  c : List Nat := [1]
  b : List Nat := [1]
  l : Nat := 0
  m : Nat := 1
  d : Nat := 1
  deriving DecidableEq, Repr

/-- One syndrome taken in. -/
def Massey.step (k : Massey) (syn : List Nat) (n : Nat) : Massey :=
  let d := (List.range (k.l + 1)).foldl (fun acc i => acc ^^^ rmul (k.c.getD i 0) (if i ≤ n then syn.getD (n - i) 0 else 0)) 0
  if d = 0 then { k with m := k.m + 1 }
  else
    let c := polyAdd k.c k.b (rmul d (rinv k.d)) k.m
    if 2 * k.l ≤ n then { c := c, b := k.c, l := n + 1 - k.l, m := 1, d := d } else { k with c := c, m := k.m + 1 }

/-- The symbols that a locator names: those i at which it is 0 for alpha^-(543 - i), where alpha^-543 is alpha^480. -/
def rsPlaces (c : List Nat) : List Nat :=
  ((rsPowers 2 (ralpha 480) 544).zipIdx.filter fun x => polyAt c x.1 == 0).map (·.2)

/-- The errors of the one pattern of at most 15 symbols that has some syndromes, if there is one: a longer locator than that
leaves none. -/
def rsPattern (syn : List Nat) : Option (List (Nat × Nat)) :=
  let k := (List.range 30).foldl (fun (k : Massey) n => k.step syn n) {}
  let at' := if 15 < k.l then [] else rsPlaces k.c
  let omega := (List.range 30).map fun i =>
    (List.range (i + 1)).foldl (fun acc j => acc ^^^ rmul (k.c.getD j 0) (syn.getD (i - j) 0)) 0
  let slope := (List.range k.c.length).map fun i => if i % 2 = 0 then k.c.getD (i + 1) 0 else 0
  let e := at'.map fun i =>
    let x := ralpha (543 - i)
    (i, rmul x (rmul (polyAt omega (rinv x)) (rinv (polyAt slope (rinv x)))))
  if at'.length ≤ 15 ∧ rsSyndromes e = syn then some e else none

/-- The decoder (R309, R310): the symbols that it corrects, or none for a codeword that it cannot correct. -/
def rsDecode (e : List (Nat × Nat)) : Option (List (Nat × Nat)) :=
  if e.isEmpty then some []
  else
    let syn := rsSyndromes e
    if syn.all (· == 0) then some [] else rsPattern syn

/-! ### Flits in codewords (R309) -/

/-- The bits of bytes, in ascending order. -/
def bitsOf (bs : Bytes) : List Bool := (bs.map fun b => (List.range 8).map fun i => b.getLsbD i).flatten

/-- A codeword: 5,140 data bits in symbols of 10, and the check symbols. -/
def codeword (data : List Bool) : List Nat :=
  let d := (List.range 514).map fun k => (List.range 10).foldl (fun n j => n + if data.getD (10 * k + j) false then 2 ^ j else 0) 0
  d ++ rsCheck d

/-- A codeword's share of a lane, symbol 0 on lane 0 and so on round the lanes; every 16,384 codewords an alignment marker
goes before it. -/
def laneShare (cw : List Nat) (n lane : Nat) : List Bool :=
  (if n % 16384 = 0 then (List.range 40).map fun i => (Config.marker lane).getLsbD i else [])
    ++ ((List.range 136).map fun k => (List.range 10).map fun j => bitB (cw.getD (4 * k + lane) 0) j).flatten

/-- The register of a scrambler after its output. -/
def scrambleReg (r : Nat) (out : List Bool) : Nat := out.foldl (fun r b => (2 * r + b2n b) % 2 ^ 58) r

/-- A flit sent: every codeword that it completes goes onto the lanes (R307, R309). -/
def WireTx.send (k : WireTx) (flit : Bytes) : WireTx :=
  let bs := k.left ++ bitsOf flit
  let n := bs.length / 5140
  let cws := (List.range n).map fun i => codeword ((bs.drop (5140 * i)).take 5140)
  let out (lane : Nat) : List Bool := runBits scrambleBit (k.scr.getD lane 0)
    ((cws.zipIdx.map fun (cw, i) => laneShare cw (k.count + i) lane).flatten)
  { left := bs.drop (5140 * n), count := k.count + n
    scr := (List.range 4).map fun lane => scrambleReg (k.scr.getD lane 0) (out lane)
    wire := if n = 0 then k.wire else (List.range 4).map fun lane => grayCode (out lane) }

/-! ### The receiver -/

/-- Bits of the alignment marker before the next codeword on each lane (R309). -/
def Phy.marker (p : Phy) : Nat := if p.count = 0 then 40 else 0

/-- A pair of a list taken out when it is there, put in when it is not: parity. -/
def toggle (l : List (Nat × Nat)) (x : Nat × Nat) : List (Nat × Nat) := if l.contains x then l.erase x else l ++ [x]

/-- The bits, by lane and place in the codeword's share of it, that are wrong behind the descramblers: each wrong bit of the
wire comes again 39 and 58 bits later (R307). Those in an alignment marker leave with it. -/
def Phy.descrambled (p : Phy) (errs : List WireError) : List (Nat × Nat) :=
  let m := p.marker
  let place (b : Nat) : Option Nat := if m ≤ b ∧ b < 1360 + m then some (b - m) else none
  let old := p.trail.map fun (l, k) => (l, [39, 58].filterMap fun d => if k ≤ d then place (d - k) else none)
  let new := errs.map fun e =>
    (if p.reversed then 3 - e.lane else e.lane, [0, 39, 58].filterMap fun d => place (e.bit + d))
  (old ++ new).foldl (fun acc (l, bs) => bs.foldl (fun acc b => toggle acc (l, b)) acc) []

/-- Wrong bits as an error vector of the codeword. -/
def errorSymbols (bits : List (Nat × Nat)) : List (Nat × Nat) :=
  bits.foldl (fun e (l, b) =>
    let i := 4 * (b / 10) + l
    let v := (Tab.get 0 e i) ^^^ 2 ^ (b % 10)
    Tab.set 0 e i v) []

/-- The wrong bits of the wire that the descramblers still hold after a codeword. -/
def Phy.trailAfter (p : Phy) (errs : List WireError) : List (Nat × Nat) :=
  errs.filterMap fun e =>
    if 1302 + p.marker ≤ e.bit then some (if p.reversed then 3 - e.lane else e.lane, 1360 + p.marker - e.bit) else none

/-- Data bits that stay wrong, or are made wrong, when a decoder corrects `fix` in a codeword with the errors `e`. -/
def residue (e fix : List (Nat × Nat)) : List Nat :=
  ((List.range 514).map fun i =>
    let v := Tab.get 0 e i ^^^ Tab.get 0 fix i
    (List.range 10).filterMap fun j => if bitB v j then some (10 * i + j) else none).flatten

/-- The next codeword decoded: its bits follow those that wait; none when it cannot be corrected. -/
def Phy.absorb (p : Phy) (errs : List WireError) : Option Phy :=
  let e := errorSymbols (p.descrambled errs)
  (rsDecode e).map fun fix =>
    { p with
      ready := p.ready + 5140 - p.skip, skip := 0, trail := p.trailAfter errs, count := (p.count + 1) % 16384
      wrong := p.wrong ++ if e.isEmpty then [] else
        (residue e fix).filterMap fun i => if p.skip ≤ i then some (p.ready + i - p.skip) else none
      received := p.received + 544, fixed := p.fixed + fix.length }

/-- A flit taken as the decoder delivers it: a codeword more is decoded when its bits are not all there. -/
def Phy.take (p : Phy) (f : RxFlit) : Option (Phy × Bytes) :=
  (if p.ready < 2048 then p.absorb f.errs else some p).map fun p =>
    ({ p with ready := p.ready - 2048, wrong := p.wrong.filterMap fun i => if 2048 ≤ i then some (i - 2048) else none },
     p.wrong.foldl (fun b i => if i < 2048 then b.modify (i / 8) (· ^^^ BitVec.ofNat 8 (2 ^ (i % 8))) else b) f.flit)

/-- A codeword that cannot be corrected comes next: the flits that have a bit in it, and the stream past them (R310). -/
def Phy.lose (p : Phy) (errs : List WireError) : Option (Phy × Nat) :=
  if p.ready < 2048 ∧ (p.absorb errs).isNone then
    let total := p.ready + 5140 - p.skip
    let n := (total + 2047) / 2048
    let q : Phy := { p with
      ready := 0, skip := 2048 * n - total, wrong := [], trail := p.trailAfter errs, count := (p.count + 1) % 16384
      received := p.received + 544 }
    some (q, n)
  else none

/-- The stream of a port that finds codeword alignment anew (Table 11.4). -/
def Phy.restart (p : Phy) : Phy := { p with ready := 0, skip := 0, wrong := [], trail := [], count := 0, losses := [] }

/-- A millisecond of the window of SYM_ERR closed. -/
def Phy.bucket (p : Phy) : Phy := { p with window := ((p.received, p.fixed) :: p.window).take 100, received := 0, fixed := 0 }

/-- SYM_ERR (Table 11.11): symbols corrected of ten million received in the window. -/
def Phy.symErr (p : Phy) : Nat :=
  let r := p.window.foldl (fun n x => n + x.1) 0
  min 0xFFFF ((p.window.foldl (fun n x => n + x.2) 0) * 10 ^ 7 / r)

end Sys2Proof.Machine
end

