-- ==== Sys2Proof/Machine/Events.lean ====
section
/-! DEFINITION. The operations by which everything reports: counters (R488), flits and messages that leave on a
port (R316-R326, R345, R349), host writes and MSI-X (R367-R370), the trace queue (R491), and the logging of an
event with its severity, folding, suppression and delivery (R472-R479, R485). Each is one record update, so that
what it leaves alone is plain. -/

namespace Sys2Proof.Machine

/-- The n-th number of a list, 0 beyond it. -/
def nth (l : List Nat) (n : Nat) : Nat := l.getD n 0

/-- The timebase as records are stamped with it: 0 before it starts (R407, R473). -/
def now (s : State) : Nat := if s.power.timebaseOn then s.timebase else 0

/-! ### Counters -/

/-- Counter key of a class, a unit and a slot (Tables 18.10 to 18.12). -/
def cntKey (cls unit slot : Nat) : Nat := cls * 2 ^ 20 + unit * 16 + slot

/-- A counter raised by `n`, modulo 2^64 (R488). -/
def Events.add (e : Events) (cls unit slot n : Nat) : Events :=
  { e with cnt := Tab.upd 0 e.cnt (cntKey cls unit slot) fun v => (v + n) % 2 ^ 64 }

/-- The state with a counter raised. -/
def tally (cls unit slot n : Nat) (s : State) : State := { s with ev := s.ev.add cls unit slot n }

/-- A gauge of a unit set: a stored gauge is one more than its value, and 0 until it first has one. -/
def setGauge (cls unit slot : Nat) (f : Option Nat → Nat) (s : State) : State :=
  let g (v : Nat) : Nat := 1 + f (if v = 0 then none else some (v - 1))
  { s with ev := { s.ev with cnt := Tab.upd 0 s.ev.cnt (cntKey cls unit slot) g } }

/-- Half of a counter raised by one: `unit` 1 the low 32 bits, 2^32 the high ones; the other half stays (Table 18.12). -/
def tallyHalf (cls unit slot half : Nat) (s : State) : State :=
  let g (v : Nat) : Nat :=
    if half = 1 then v / 2 ^ 32 * 2 ^ 32 + (v % 2 ^ 32 + 1) % 2 ^ 32 else (v + 2 ^ 32) % 2 ^ 64
  { s with ev := { s.ev with cnt := Tab.upd 0 s.ev.cnt (cntKey cls unit slot) g } }

/-- Key of a unit's start of counting, or last clear. -/
def sinceKey (cls unit : Nat) : Nat := cls * 2 ^ 16 + unit

/-- Counting starts for units that have become valid (R488). -/
def startCounting (cls : Nat) (units : List Nat) (s : State) : State :=
  { s with ev := { s.ev with since := Tab.setMany 0 s.ev.since (units.map (sinceKey cls)) fun _ => now s } }

/-! ### Ports: flits -/

/-- A port's record. -/
def port (s : State) (p : Nat) : Port := Tab.get {} s.ports p

/-- The state with a port's record changed. -/
def setPort (s : State) (p : Nat) (f : Port → Port) : State := { s with ports := Tab.upd {} s.ports p f }

/-- The 64-bit header of a flit (Table 11.6). TRAIN flits carry no acknowledgement and no credit (R316). -/
def flitHeader (ss : Session) (ty seq vc units start : Nat) : Nat :=
  fld ty 0 4 + fld seq 4 12
    + (if ty = 3 then 0 else
        (if ss.gotAny then fld (ss.expect + 4095) 16 12 + fld 1 28 1 else 0)
          + fld ss.credTurn 51 2 + fld (nth ss.freed ss.credTurn) 53 10)
    + fld vc 29 2 + fld units 32 4 + fld start 36 15

/-- The CRC of a flit (R317), by its header and payload. -/
def flitCrc (hdr : Nat) (payload : Bytes) : Nat := crc64 (natLE 8 hdr ++ payload)

/-- A port that has put one flit on the wire, and the flit. Every flit but a TRAIN flit carries the cumulative
acknowledgement and moves CRED_VC on (R321, R325); the flit goes on through the codewords and the lanes (R309). -/
def Port.put (pt : Port) (p ty seq vc units start : Nat) (payload : Bytes) : Port × Output :=
  let hdr := flitHeader pt.sess ty seq vc units start
  let crc := flitCrc hdr payload
  ({ pt with
      phy := { pt.phy with tx := pt.phy.tx.send (natLE 8 hdr ++ payload ++ natLE 8 crc) }
      sinceIdle := if ty = 0 then 0 else pt.sinceIdle + 1
      sess := if ty = 3 then pt.sess else
        { pt.sess with credTurn := (pt.sess.credTurn + 1) % 4, unacked := 0 } },
   .flit p hdr payload crc)

/-- A port that has sent one flit, with the IDLE flit ahead of it that falls due when 2,047 others have gone (R308, R323). -/
def Port.emit (pt : Port) (p ty seq vc units start : Nat) (payload : Bytes) : Port × List Output :=
  let r : Port × List Output := if ty ≠ 0 ∧ 2047 ≤ pt.sinceIdle then
      let i := pt.put p 0 0 0 0 0 (zeros 240)
      (i.1, [i.2])
    else (pt, [])
  let q := r.1.put p ty seq vc units start payload
  (q.1, r.2 ++ [q.2])

/-- Credits held for a channel: the advertised count less the flits sent and not yet freed (R325). -/
def Session.credit (ss : Session) (vc : Nat) : Nat :=
  nth ss.credits vc - ((nth ss.sent vc + 1024 - nth ss.cum vc) % 1024)

/-- Channels whose head flit may be sent: a unit waits and a credit is held. -/
def Session.readyVcs (ss : Session) : List Nat :=
  (List.range 4).filter fun vc => ss.tx.any (fun u => u.vc == vc) && decide (0 < ss.credit vc)

/-- The channel that sends next (R326, R280): CTL, else a channel passed over 15 times, else in order. -/
def Session.pickVc (ss : Session) : Option Nat :=
  let r := ss.readyVcs
  if r.contains 0 then some 0 else
    match r.find? fun vc => decide (15 ≤ nth ss.passed vc) with
    | some vc => some vc
    | none => r.head?

/-- Bit set of the units that begin a message. -/
def startBits (us : List TxUnit) : Nat :=
  us.zipIdx.foldl (fun n (u, i) => n + if u.start then 2 ^ i else 0) 0

/-- Requests with a unit in a flit, and where they begin in it (R340). -/
def unitReqs (us : List TxUnit) : List (Nat × Option Nat) :=
  us.zipIdx.filterMap fun (u, i) => u.req.map fun r => (r, if u.start then some i else none)

/-- One new DATA flit of the chosen channel: up to 15 of its waiting units, held until acknowledged (R318, R322). -/
def Port.sendData (pt : Port) (p vc : Nat) : Port × List Output :=
  let ss := pt.sess
  let us := (ss.tx.filter fun u => u.vc == vc).take 15
  let rest := (ss.tx.foldl (fun (acc : Nat × List TxUnit) u =>
    if u.vc == vc && acc.1 < 15 then (acc.1 + 1, acc.2) else (acc.1, u :: acc.2)) (0, [])).2.reverse
  let body := (us.map (·.bytes)).flatten
  let payload := body ++ zeros (240 - body.length)
  let seq := ss.nextTx
  let r := pt.emit p 1 seq vc us.length (startBits us) payload
  ({ r.1 with sess := { r.1.sess with
      tx := rest
      nextTx := (seq + 1) % 4096
      held := ss.held ++ [{ seq := seq, vc := vc, units := us.length, start := startBits us, payload := payload,
                            reqs := unitReqs us }]
      sent := ss.sent.set vc ((nth ss.sent vc + 1) % 1024)
      passed := (List.range 4).map fun v =>
        if v == vc then 0 else if ss.readyVcs.contains v then nth ss.passed v + 1 else nth ss.passed v } }, r.2)

/-- New DATA flits while the port is ACTIVE, holds fewer than 256 flits and a channel is ready (R322, R323). -/
def Port.pump (p : Nat) : Nat → Port → List Output → Port × List Output
  | 0, pt, out => (pt, out)
  | n + 1, pt, out =>
    if pt.state = 3 ∧ pt.sess.held.length < 256 then
      match pt.sess.pickVc with
      | some vc => let r := pt.sendData p vc; Port.pump p n r.1 (out ++ r.2)
      | none => (pt, out)
    else (pt, out)

/-- Units in use of a DATA flit that leaves, for the counters. -/
def flitUnits : Output → Nat
  | .flit _ hdr _ _ => bits hdr 35 32
  | _ => 0

/-- The state in which port `p` has sent the new DATA flits it can; DESIGN CHOICE (log 20): a message enters its
flits as soon as credit and replay buffer allow. -/
def pump (p : Nat) (s : State) : State :=
  let pt := port s p
  let r := Port.pump p (pt.sess.tx.length + 1) pt []
  { s with
    ports := Tab.set {} s.ports p r.1
    out := s.out ++ r.2
    ev := (s.ev.add 5 p 0 (r.2.filter fun o => flitUnits o != 0).length).add 5 p 2 (16 * (r.2.map flitUnits).foldl (· + ·) 0) }

/-- A flit that is not DATA sent on a port. -/
def emitCtl (p ty : Nat) (payload : Bytes) (s : State) : State :=
  let r := (port s p).emit p ty 0 0 0 0 payload
  { s with ports := Tab.set {} s.ports p r.1, out := s.out ++ r.2 }

/-- An LCTL flit (Table 11.7a): its code, and the rest of the body as a number. -/
def lctl (p code rest : Nat) (s : State) : State := emitCtl p 2 (natLE 240 (code + rest)) s

/-! ### Messages -/

/-- The 16-byte header of a message (Table 12.1). -/
def msgHeader (ty units dst src hops tag op status addr len : Nat) : Bytes :=
  natLE 16 (fld ty 0 8 + fld units 8 9 + fld dst 17 6 + fld src 23 6 + fld hops 29 2 + fld tag 32 16 + fld op 48 4
    + fld status 56 8 + fld addr 64 48 + fld len 112 16)

/-- Bytes cut into chunks of 16, the last padded with zeros. -/
def chunks16 : Nat → Bytes → List Bytes
  | 0, _ => []
  | n + 1, bs => if bs.isEmpty then [] else slice bs 0 16 :: chunks16 n (bs.drop 16)

/-- The units of a message. -/
def msgUnits (vc : Nat) (req fwd : Option Nat) (bs : Bytes) : List TxUnit :=
  (chunks16 (bs.length + 1) bs).zipIdx.map fun (b, i) => ⟨vc, i == 0, b, req, fwd⟩

/-- A whole message: header, extension unit, payload padded to a unit (R336). -/
def message (ty dst src hops tag op status addr len : Nat) (ext : Option Nat) (payload : Bytes) : Bytes :=
  let units := 1 + (if ext.isSome then 1 else 0) + (payload.length + 15) / 16
  msgHeader ty units dst src hops tag op status addr len
    ++ (match ext with | some e => natLE 16 e | none => [])
    ++ slice payload 0 (16 * ((payload.length + 15) / 16))

/-- A message queued on one port and sent as far as it can go. -/
def sendOn (p vc : Nat) (req fwd : Option Nat) (bs : Bytes) (s : State) : State :=
  pump p (setPort s p fun pt => { pt with sess := { pt.sess with tx := pt.sess.tx ++ msgUnits vc req fwd bs } })

/-- A port of a mask that routing may use: ACTIVE, with a validated partner, and not draining (R347, R349, R329). -/
def usablePort (s : State) (p : Nat) : Bool :=
  (port s p).state == 3 && (port s p).member.isSome && !(port s p).conflict && !bitB s.pace.leaving p

/-- The usable ports of a route: those of its mask whose partner is the module that the route goes through (R348, log 168). -/
def usablePorts (s : State) (mask next : Nat) : List Nat :=
  (List.range 32).filter fun p => bitB mask p && usablePort s p && (port s p).member == some next

/-- The ports of the first valid route to a device that holds a usable port, primary before alternate (R349). -/
def routePorts (s : State) (dst : Nat) : List Nat :=
  let r := Tab.get {} s.pod.routes dst
  let a := if r.valid then usablePorts s r.ports r.next else []
  if a.isEmpty then (if r.altValid then usablePorts s r.altPorts r.altNext else []) else a

/-- The port that carries a message to `dst` for a line address, by the hash of R345; none when no route
qualifies. -/
def routePort (s : State) (dst line : Nat) : Option Nat :=
  let ps := routePorts s dst
  ps[Config.portHash dst line % ps.length]?

/-- A message sent toward a device; unchanged when no route qualifies (the caller asks `routePort` first). -/
def sendTo (dst line vc : Nat) (req fwd : Option Nat) (bs : Bytes) (s : State) : State :=
  match routePort s dst line with
  | some p => sendOn p vc req fwd bs s
  | none => s

/-- The module's serial number value (R360). -/
def serialNumber : Nat := fld 0x1F6E 48 16 + fld 0x31 40 8 + Config.serial.toNat

/-- A later message of a unit waits behind one that the same destination refused with BUSY (R342). -/
def heldBehind (s : State) (dst unit : Nat) : Bool :=
  s.pod.reqs.any fun r => r.dst == dst && r.unit == unit && (r.holding || (!r.sent && !r.signal))

/-- The way of a request from its unit to the port that carries it, and of its response back (R277, R279): REQ and RSP for
a tile's, BULK for the hub's, CTL for MAILBOX. -/
def fabricAsk (p vc unit bytes : Nat) (s : State) : State :=
  meshLong ((sourcePlace unit).getD .hub) (.group (p / 4)) (if vc ≤ 1 then vc else 3) (max 1 ((bytes + 63) / 64)) s
def fabricReply (p vc unit flits : Nat) (s : State) : State :=
  meshLong (.group (p / 4)) ((sourcePlace unit).getD .hub) (match vc with | 0 => 0 | 1 => 2 | _ => 3) (max 1 flits) s

/-- A request of this module put among the outstanding ones and sent toward its device when a route qualifies and
nothing holds it back (R338, R342, R349). The tag is the request's number modulo 2^16. -/
def sendRequest (ty dst vc unit op addr len : Nat) (ext : Option Nat) (payload : Bytes) (why : ReqFor) (s : State) :
    State :=
  let id := s.pod.nextReq
  let bs := message ty dst s.pod.eff.device 0 id op 0 addr len ext payload
  let wait := heldBehind s dst unit
  let ok := (routePort s dst (addr / 128)).isSome
  let s1 := if wait then s else match routePort s dst (addr / 128) with
    | some p => sendOn p vc (some id) none bs (fabricAsk p vc unit payload.length s)
    | none => s
  { s1 with pod := { s.pod with
      nextReq := id + 1
      reqs := if ok then
          s.pod.reqs ++ [{ id := id, tag := id % 2 ^ 16, type := ty, dst := dst, vc := vc, unit := unit, bytes := bs,
                           why := why, sent := !wait }]
        else s.pod.reqs } }

/-- A Cobbler-to-Cobbler message (R354): type MAILBOX on CTL with its service and sequence number. -/
def sendMailbox (dst service mseq : Nat) (payload : Bytes) (s : State) : State :=
  sendRequest 0x06 dst 0 0xB000 0 0 payload.length (some (fld service 0 16 + fld mseq 16 16)) payload .mailbox s

/-! ### Host writes and MSI-X -/

/-- AER uncorrectable status bits by their places in the PCI Express Base Specification (PRESUMED, log 30). -/
def aerUnsupported : Nat := 20
def aerPoisoned : Nat := 12
def aerAbort : Nat := 15
def aerTimeout : Nat := 14

/-- An AER bit set. -/
def setAer (b : Nat) (s : State) : State := { s with pcie := { s.pcie with aer := s.pcie.aer ||| 2 ^ b } }

/-- The module may issue requests to host memory (R370, R360): the link is up, Bus Master Enable is 1 and the
function is not in D3hot. -/
def canIssue (s : State) : Bool := s.pcie.link && s.pcie.cfg.busMaster && !s.pcie.d3

/-- A write to host memory, with its EP and Relaxed Ordering attributes: issued, or held until Bus Master Enable is 1 (R370,
R376). What is held is records and counts, which carry neither. -/
def hostWrite (addr : Nat) (bs : Bytes) (ep ro : Bool) (s : State) : State :=
  { s with
    out := if canIssue s then s.out ++ [.hostWrite addr bs ep ro] else s.out
    pcie := if canIssue s then s.pcie else { s.pcie with heldRecs := s.pcie.heldRecs ++ [(addr, bs)] } }

/-- A vector sends its message (R368, R369): nothing while MSI-X Enable is 0; the PBA bit is set while the vector
or the function is masked; else the message goes out as a write of the table's data, or waits behind the held writes. -/
def msixSend (v : Nat) (s : State) : State :=
  let e := Tab.get {} s.pcie.table v
  { s with
    out := if s.pcie.msixOn && !s.pcie.funcMask && !e.mask && canIssue s then
        s.out ++ [.msix v (e.addrHi * 2 ^ 32 + e.addrLo) e.data]
      else s.out
    pcie :=
      if !s.pcie.msixOn then s.pcie
      else if s.pcie.funcMask || e.mask then { s.pcie with pba := Tab.set false s.pcie.pba v true }
      else if canIssue s then s.pcie
      else { s.pcie with heldMsix := s.pcie.heldMsix ++ [v] } }

/-- A condition of a vector (R367, R369): vector 1 and a vector with HOLDOFF_US 0 send at once; any other gathers
until COUNT conditions have come. -/
def raise (v : Nat) (s : State) : State :=
  let m := Tab.get {} s.pcie.mods v
  let g := Tab.get 0 s.pcie.gathered v + 1
  if v = 1 ∨ m.holdoff = 0 then msixSend v s
  else if m.count ≤ g then
    msixSend v { s with pcie := { s.pcie with gathered := Tab.set 0 s.pcie.gathered v 0 } }
  else { s with pcie := { s.pcie with gathered := Tab.set 0 s.pcie.gathered v g } }

/-! ### Trace -/

/-- The cluster a source lies in (Table 18.3), if any. -/
def sourceCluster (src : Nat) : Option Nat :=
  let i := src % 4096
  match src / 4096 with
  | 1 => some (tileCluster i)
  | 2 => some i
  | 3 => some (tileCluster i)
  | 5 => some (tileCluster (i % 256))
  | _ => none

/-- Whether the trace takes a record of a kind and a source (Table 18.13); DEDUCED (log 21): a source outside
every cluster is left out when clusters are selected. -/
def Trace.takes (t : Trace) (kind src : Nat) : Bool :=
  t.enabled && (kind == 0x0C || bitB t.kinds kind) && (!t.armed || t.triggered)
    && (t.clusters == 0 || match sourceCluster src with | some c => bitB t.clusters c | none => false)

/-- A record queued, or lost and counted when 4,096 are waiting (R491). -/
def Trace.push (t : Trace) (kind src data time : Nat) : Trace :=
  if t.takes kind src then
    if t.queue.length < 4096 then { t with queue := t.queue ++ [⟨time, kind, src, data⟩] }
    else { t with lost := t.lost + 1, lostNew := t.lostNew + 1 }
  else t

/-- The state with a trace record offered; a record lost counts in module slot 10. -/
def traceRec (kind src data : Nat) (s : State) : State :=
  { s with
    trace := s.trace.push kind src data (now s)
    ev := if s.trace.takes kind src && decide (4096 ≤ s.trace.queue.length) then s.ev.add 9 0 10 1 else s.ev }

/-! ### Events -/

/-- A record that reports a condition clearing (R472). -/
def isClear (code data : Nat) : Bool :=
  match code with
  | 0x0C03 => !bitB data 8
  | 0x0C04 => !bitB data 16
  | 0x0C05 => !bitB data 0
  | 0x0C09 => !bitB data 32
  | 0x0C0A => !bitB data 16
  | 0x0904 => bitB data 0
  | _ => false

/-- Severity of an event code (Table 18.4). -/
def codeSeverity (code : Nat) : Nat :=
  if [0x0307, 0x0801, 0x0B01, 0x0C02, 0x0C0C, 0x0D02].contains code then 1
  else if [0x0101, 0x0301, 0x0308, 0x030B, 0x0601, 0x0602, 0x0703, 0x0803, 0x0B04, 0x0B06, 0x0B08, 0x0C0D,
      0x0D01].contains code then 2
  else if [0x0103, 0x0104, 0x0201, 0x0303, 0x0304, 0x0305, 0x0306, 0x0309, 0x0403, 0x0502, 0x0806, 0x0903, 0x0906,
      0x0A02, 0x0B03, 0x0B07, 0x0B09, 0x0C05, 0x0C0A].contains code then 4
  else if [0x0B02, 0x0C01].contains code then 5
  else 3

/-- Severity of a record (R472). -/
def severity (code data : Nat) : Nat := if isClear code data then 2 else codeSeverity code

/-- The 32 bytes of a record (Table 18.2), VALID set. -/
def EvtRec.bytes (r : EvtRec) : Bytes :=
  natLE 32 (fld r.time 0 64 + fld r.code 64 16 + fld r.src 80 16 + fld r.sev 96 4 + fld (b2n r.cont) 100 1
    + fld (b2n r.irq) 101 1 + fld 1 102 1 + fld r.seq 104 24 + fld r.data 128 128)

/-- Whether the record would be the 17th of its code or later in its window of 1 ms (R479). -/
def Events.full (e : Events) (code win : Nat) : Bool :=
  let p := Tab.get (0, 0) e.perMs code
  p.1 == win + 1 && decide (16 ≤ p.2)

/-- Records logged before the end of stage 1 wait until BAR0 is readable (R476). -/
def beforeStage1End (s : State) : Bool :=
  match s.power.phase with
  | .bringup n => decide (n ≤ 1)
  | .up => false
  | _ => true

/-- A record entered: numbered, placed in its entry of the window (or kept for the end of stage 1), counted. -/
def Events.enter (e : Events) (r : EvtRec) (early : Bool) (win : Option Nat) : Events :=
  let r := { r with seq := e.seq }
  let e := e.add 9 0 0 1
  { e with
    seq := (e.seq + 1) % 2 ^ 24
    recent := r :: e.recent.take 15
    early := if early then e.early ++ [r] else e.early
    window := if early then e.window else Tab.insert e.window (e.seq % 256) (some r)
    perMs := match win with
      | some w => Tab.upd (0, 0) e.perMs r.code fun p => if p.1 = w + 1 then (w + 1, p.2 + 1) else (w + 1, 1)
      | none => e.perMs }

/-- This module sends its events to the head: it is a member of a pod and not its head (R353). -/
def reportsToHead (s : State) : Bool :=
  s.pod.eff.members != 0 && s.pod.eff.device != s.pod.eff.head

/-- A record in the window raises vector 0 when marked (R477), a FATAL one an Uncorrectable Internal Error
(Table 13.8). -/
def announce (r : EvtRec) (s : State) : State :=
  let s := if r.irq then raise 0 s else s
  if r.sev = 5 then { s with pcie := { s.pcie with aer := s.pcie.aer ||| 2 ^ 22 } } else s

/-- One record logged, past folding and suppression: entered, traced under kind EVENT with the trigger seen,
announced, and sent to the head (R475-R477, R353). -/
def logRecord (r : EvtRec) (s : State) : State :=
  let early := beforeStage1End s
  let win := if s.power.timebaseOn then some (s.timebase / 1000000) else none
  let r := { r with seq := s.ev.seq }
  let s := { s with ev := s.ev.enter r early win }
  let taken := decide (s.trace.minSev ≤ r.sev) && bitB s.trace.kinds 7
  let s := if s.trace.enabled && !s.trace.triggered && r.code == s.trace.trigger then
      { s with trace := { s.trace with triggered := true, ahead := s.trace.queue.length + b2n taken } }
    else s
  let s := if s.trace.minSev ≤ r.sev then
      traceRec 0x07 r.src (fld r.code 0 16 + fld r.sev 16 4 + fld r.src 20 16 + fld r.seq 36 24 + fld r.data 64 64) s
    else s
  let s := if early then s else announce r s
  if reportsToHead s && decide (3 ≤ r.sev) && r.code != 0x0905 then
    let s1 := sendMailbox s.pod.eff.head 0x0006 s.pod.mseq r.bytes s
    { s1 with pod := { s1.pod with mseq := (s.pod.mseq + 1) % 2 ^ 16 } }
  else s

/-- An event logged (R472-R479): suppressed when its code has filled the window of 1 ms. -/
def logEvent (code src data : Nat) (s : State) : State :=
  let sev := severity code data
  let win := s.timebase / 1000000
  if s.power.timebaseOn && s.ev.full code win && !([0x0B01, 0x0B02, 0x0C01].contains code) then
    { s with ev := { (s.ev.add 9 0 1 1) with supp := Tab.upd 0 s.ev.supp code (· + 1) } }
  else
    logRecord { time := now s, code := code, src := src, sev := sev, cont := false, irq := decide (3 ≤ sev), seq := 0,
                data := data % 2 ^ 128 } (reportEvent src s)

/-- Where a folded event's count stands in its data (Table 18.4). -/
def foldShift (code : Nat) : Nat :=
  match code with
  | 0x0305 => 0
  | 0x0A02 => 32
  | _ => 64

/-- The source of a folded event's record: its unit, or the host for an object of HOST_DMA_ERROR. -/
def foldSource (code key : Nat) : Nat := if code = 0x0A02 then 0x9000 else key

/-- A rate-limited event (R474): logged when no interval of its unit runs, else folded. The interval ends at
RATE_LIMIT_INTERVAL_END. -/
def logLimited (code key data : Nat) (s : State) : State :=
  if s.ev.folds.any fun f => f.code == code && f.key == key then
    { s with ev := { s.ev with folds := s.ev.folds.map fun f =>
        if f.code == code && f.key == key then { f with count := f.count + 1, data := data } else f } }
  else
    logEvent code (foldSource code key) (data + fld 1 (foldShift code) 32)
      { s with ev := { s.ev with folds := s.ev.folds ++ [⟨code, key, 0, data⟩] } }

/-- A bit of SMB.ALERT_STATUS set (Table 14.12). -/
def alert (b : Nat) (s : State) : State := { s with tele := { s.tele with alert := s.tele.alert ||| 2 ^ b } }

/-- DEGRADED may be set in READY, RUNNING, FW_UPDATE and THERMAL_HOLD, and in no other state (R10). -/
def mayDegrade (s : State) : Bool := s.power.phase == .up

/-- The last part of R485, after the unit's register and its event: DEGRADED_WHY, the SMBus alert and vector 1, where
DEGRADED may be set. -/
def degradedReport (why : Nat) (s : State) : State :=
  if mayDegrade s then raise 1 (alert 3 { s with ev := { s.ev with why := s.ev.why ||| 2 ^ why } }) else s

/-- DEGRADED set (R485, first part), where it may be (R10). -/
def setDegraded (s : State) : State := { s with ev := { s.ev with degraded := s.ev.degraded || mayDegrade s } }

/-- A command not enabled in the state changes nothing (log 1). -/
def idle (s : State) : Host.Outcome State Fault Refusal := .next s

end Sys2Proof.Machine
end

