-- ==== Sys2Proof/Machine/Operands.lean ====
section
/-! DEFINITION. The operands of mailbox commands: where a command's payload stands, how its fields are read, how
its check chooses the failure it reports (R386, R387), and how it is answered (R381, R352). -/

namespace Sys2Proof.Machine

/-- Payload bytes that each command of Table 14.3 requires; none for a code that the table does not hold. -/
def commandLength (code : Nat) : Option Nat :=
  match code with
  | 0x0001 => some 9
  | 0x0002 => some 1
  | 0x0010 => some 8
  | 0x0011 => some 16
  | 0x0012 => some 1
  | 0x0020 => some 128
  | 0x0021 => some 2
  | 0x0030 => some 24
  | 0x0031 => some 3
  | 0x0032 => some 64
  | 0x0033 => some 8
  | 0x0040 => some 32
  | 0x0041 => some 2
  | 0x0050 => some 28
  | 0x0051 => some 10
  | 0x0052 => some 4
  | 0x0060 => some 16
  | 0x0061 => some 1
  | 0x0062 => some 16
  | 0x0070 => some 16
  | 0x0071 => some 1
  | 0x0072 => some 24
  | 0x0080 => some 28
  | 0x0081 => some 2
  | 0x0082 => some 16
  | 0x0083 => some 16
  | 0x0090 => some 16
  | 0x0091 => some 72
  | 0x0092 => some 8
  | 0x00A0 => some 21
  | 0x00A1 => some 0
  | 0x00A2 => some 1
  | 0x00A3 => some 72
  | 0x00A4 => some 28
  | 0x00B0 => some 16
  | 0x00B1 => some 256
  | 0x00C0 => some 8
  | 0x00C1 => some 3
  | 0x00D0 => some 4
  | _ => none

/-- Elements of a payload that its length is judged by: a count beyond the command's range asks for none, so that the
count itself is refused (DEDUCED, log 73). -/
def counted (n most : Nat) : Nat := if n ≤ most then n else 0

/-- Payload bytes that a command requires once its element count is read (R388, R389). A row of Table 14.3
with several forms asks for the whole row, but LEDGER_READ, whose forms list bytes of their own (DEDUCED, log 75). -/
def commandLengthOf (code : Nat) (pl : Bytes) : Option Nat :=
  match code with
  | 0x00A4 => some (if field pl 0 1 = 1 then 28 else 24)
  | 0x0020 => some (128 + 48 * counted (field pl 3 1) 81)
  | 0x0090 => some (16 + 32 * counted (field pl 6 1) 16)
  | 0x0091 => some (72 + counted (field pl 20 2) 3960)
  | 0x0092 => some (8 + 24 * counted (field pl 0 1) 64)
  | c => commandLength c

/-! ### Failures of a check -/

/-- One rule that a command breaks: the reason of Table 14.5, the field's lowest bit, the element. -/
structure Fail where
  reason : Nat
  bit    : Option Nat := none
  elem   : Option Nat := none
  deriving DecidableEq, Repr

/-- The class order of R386. -/
def classRank (reason : Nat) : Nat :=
  match reason / 256 with
  | 1 => 0
  | 4 => 1
  | 3 => 2
  | 5 => 3
  | 2 => 4
  | _ => 5

/-- The place of a failure in payload order (R386): fields outside any element, then elements, then failures
without a field. -/
def Fail.place (f : Fail) : Nat × Nat × Nat :=
  match f.elem, f.bit with
  | none, some b => (0, 0, b)
  | some e, b => (1, e, b.getD 0)
  | none, none => (2, 0, 0)

/-- The key by which failures are ordered. -/
def Fail.key (f : Fail) : Nat × Nat × Nat × Nat := (classRank f.reason, f.place)

/-- Order of keys. -/
def keyLt (a b : Nat × Nat × Nat × Nat) : Bool :=
  decide (a.1 < b.1) || (a.1 == b.1 && (decide (a.2.1 < b.2.1) || (a.2.1 == b.2.1 &&
    (decide (a.2.2.1 < b.2.2.1) || (a.2.2.1 == b.2.2.1 && decide (a.2.2.2 < b.2.2.2))))))

/-- The failure that the refusal names: the least by class, then by payload order, the first listed among equals. -/
def pickFail : List Fail → Option Fail
  | [] => none
  | f :: fs => match pickFail fs with
    | none => some f
    | some g => if keyLt g.key f.key then some g else some f

/-- A failure named when a condition holds. -/
def failIf (c : Bool) (reason : Nat) (bit : Option Nat := none) (elem : Option Nat := none) : List Fail :=
  if c then [⟨reason, bit, elem⟩] else []

/-- The lowest set bit of a byte. -/
def lowBit (b : Byte) : Nat := ((List.range 8).find? fun i => b.getLsbD i).getD 8

/-- RESERVED_SET for the lowest set bit of `bs` outside the used fields, each given by its lowest bit and width
(R15, R386). -/
def reservedFail (bs : Bytes) (used : List (Nat × Nat)) (elem : Option Nat := none) : List Fail :=
  let mask := used.foldl (fun m (lo, w) => m ||| ((2 ^ w - 1) * 2 ^ lo)) 0
  let left := bs.zipIdx.filterMap fun (b, i) =>
    let r := b &&& ~~~ (BitVec.ofNat 8 (mask / 256 ^ i))
    if r = 0 then none else some (8 * i + lowBit r)
  match left with
  | [] => []
  | b :: _ => [⟨0x0103, some b, elem⟩]

/-- The 8-byte reply of a refusal or failure (R387). -/
def failReply (f : Fail) : Bytes :=
  natLE 4 (f.bit.getD 0xFFFFFFFF) ++ natLE 4 (f.elem.getD 0xFFFFFFFF)

/-! ### Accepted commands -/

/-- The accepted command of an origin with a code, when it is the first that has not started: the checks run in
acceptance order (R386). -/
def accepted (s : State) (o : Origin) (code : Nat) : Option Accepted :=
  match s.mail.accepted.find? fun a => !a.started with
  | some a => if a.origin = o ∧ a.cmd = code then some a else none
  | none => none

/-- The accepted command of an origin that is in progress. -/
def inProgress (s : State) (o : Origin) : Option Accepted :=
  s.mail.accepted.find? fun a => a.origin == o && a.started

/-- The command marked as in progress. -/
def begin' (o : Origin) (s : State) : State :=
  { s with mail := { s.mail with accepted := s.mail.accepted.map fun a =>
      if a.origin == o then { a with started := true } else a } }

/-- The command taken out of the accepted ones. -/
def Mail.drop (m : Mail) (o : Origin) : Mail :=
  { m with accepted := m.accepted.filter fun a => !(a.origin == o) }

/-- The 64-byte header of a slot (Table 14.1). -/
def Slot.header (c : Slot) : Bytes :=
  natLE 64 (fld c.commit 0 16 + fld c.cseq 16 16 + fld c.cmd 32 16 + fld (b2n c.irq) 48 1 + fld c.seq 64 32
    + fld c.len 96 16 + fld c.status 128 8 + fld c.reason 144 16 + fld c.replyLen 160 16 + fld c.tAccept 192 64
    + fld c.tDone 256 64)

/-- Bytes written into a byte table from an offset. -/
def putBytes (t : Tab Byte) (o : Nat) (bs : Bytes) : Tab Byte :=
  bs.zipIdx.foldl (fun t (b, i) => Tab.set 0 t (o + i) b) t

/-- `n` bytes of a byte table from an offset. -/
def getBytes (t : Tab Byte) (o n : Nat) : Bytes := (List.range n).map fun i => Tab.get 0 t (o + i)

/-- A slot as the answer leaves it (R381 step 6). -/
def Slot.answered (c : Slot) (status reason : Nat) (reply : Bytes) (time : Nat) : Slot :=
  { c with commit := 3, status := status, reason := reason, replyLen := reply.length, tDone := time,
           payload := putBytes c.payload 0 reply }

/-- MAILBOX trace data (Table 18.15). -/
def mailboxTrace (slot : Nat) (done : Bool) (cmd seq status reason : Nat) : Nat :=
  fld slot 0 6 + fld (b2n done) 6 1 + fld cmd 16 16 + fld seq 32 32 + fld status 64 8 + fld reason 72 16

/-- The answer of a command (R381 step 6): into its slot, with the interrupt when asked for; to the head as
RELAY_RSP for a relayed command (R352); nowhere after an FLR (R376). -/
def answer (o : Origin) (status reason : Nat) (reply : Bytes) (s : State) : State :=
  match s.mail.accepted.find? fun a => a.origin == o with
  | none => s
  | some a =>
    let s := { s with mail := s.mail.drop o }
    match o with
    | .slot n =>
      if a.mute then s else
        let c := Tab.get {} s.mail.slots n
        let c' := c.answered status reason reply (now s)
        let s := { s with mail := { s.mail with slots := Tab.set {} s.mail.slots n c' } }
        let s := traceRec 0x08 0xB000 (mailboxTrace n true a.cmd a.seq status reason) s
        if a.irq then raise (64 + n) s else s
    | .relay dev mseq =>
      let c : Slot := { commit := 3, cseq := a.seq % 2 ^ 16, cmd := a.cmd, irq := a.irq, seq := a.seq,
                        len := a.payload.length, status := status, reason := reason, replyLen := reply.length,
                        tAccept := a.accepted, tDone := now s }
      let s := traceRec 0x08 0xB000 (mailboxTrace 0 true a.cmd a.seq status reason) s
      sendMailbox dev 0x0003 mseq (c.header ++ reply) s

/-- OK with a reply. -/
def answerOk (o : Origin) (reply : Bytes) (s : State) : State := answer o 1 0 reply s

/-- REFUSED with the failure named (R387). -/
def refuse (o : Origin) (f : Fail) (s : State) : State := answer o 2 f.reason (failReply f) s

/-- FAILED with a reason (R380, R387). -/
def fail (o : Origin) (f : Fail) (s : State) : State := answer o 3 f.reason (failReply f) s

/-- A command carried out: its check against the present state, then its effect (R386). Nothing when no such
command has been accepted. -/
def command (o : Origin) (code : Nat) (check : Bytes → State → List Fail) (run : Bytes → State → State) (s : State) :
    State :=
  match accepted s o code with
  | none => s
  | some a => match pickFail (check a.payload s) with
    | some f => refuse o f s
    | none => run a.payload s

end Sys2Proof.Machine
end

