-- ==== Sys2Proof/Machine/Requests.lean ====
section
/-! DEFINITION. How requests to other modules end (R338-R342), how this module answers theirs, and what the end of
a session does to what was under way (R328, R341). -/

namespace Sys2Proof.Machine

/-! ### Tile programs that stop (R95) -/

/-- A tile's record. -/
def tileOf (s : State) (t : Nat) : Tile := Tab.get {} s.tiles.tile t

/-- The state with a tile's record changed. -/
def setTile (t : Nat) (f : Tile → Tile) (s : State) : State :=
  { s with tiles := { s.tiles with tile := Tab.upd {} s.tiles.tile t f } }

/-- The operation in progress changed. -/
def setOp (f : Op → Op) (s : State) : State := { s with sched := { s.sched with op := s.sched.op.map f } }

/-- The first reason kept. -/
def Op.fail (op : Op) (reason : Nat) : Op :=
  if op.error.isSome || reason == 0 then op else { op with error := some reason }

/-- OP_TAG of the operation in progress. -/
def opTag (s : State) : Nat := match s.sched.op with | some op => dget op.desc 48 16 | none => 0

/-- The state of a tile's program. -/
def tileRun (s : State) (t : Nat) : TileRun := (tileOf s t).state

/-- A tile has arrived at the barrier of SYNC: it waits there, or has faulted (R95). -/
def tileArrived (s : State) (t : Nat) : Bool := tileRun s t == .atSync || tileRun s t == .faulted

/-- A tile's arrival passes to its welt on CTL, and every router whose combined arrival it completes passes that one on along
the tree to the hub's (R286). `before` tells the tiles that had arrived. -/
def passArrival (tiles : List Nat) (before : Nat → Bool) (t : Nat) (s : State) : State :=
  let after (x : Nat) : Bool := before x || x == t
  let s := meshSend (.tile t) (.welt (tileCluster t)) 0 1 s
  (List.range 16).foldl (fun s r =>
    if combined tiles after 5 r && !combined tiles before 5 r then
      let s := tally 4 r 9 (1 + (barrierFrom r).length) s
      if r = 5 then s else meshSend (.welt r) (.welt (barrierTo r)) 0 1 s
    else s) s

/-- A tile arrives at the barrier of SYNC: it waits there, or faults (R95, R286). -/
def tileArrives (t : Nat) (how : TileRun) (s : State) : State :=
  let tiles := (s.sched.op.map fun op => op.tiles.map (·.1)).getD []
  setTile t (fun k => { k with state := how }) (if tileArrived s t then s else passArrival tiles (tileArrived s) t s)

/-- A tile faults: it stops, the operation will end with an error, and TILE_PROGRAM_FAULT is logged (R95). -/
def tileFault (t cause : Nat) (s : State) : State :=
  let s := setOp (fun op => op.fail 0x030D) (tileArrives t .faulted s)
  logEvent 0x0104 (0x1000 + t) (fld (opTag s) 0 16 + fld cause 16 4 + fld (tileOf s t).pc 32 16) s

/-- A request of a tile that no command waits for has ended (R339): a status other than OK is an error completion to its tile,
whose program, while its operation is in progress, stops under R95, at the end of the program too (DEDUCED, log 194). -/
def tileSees (unit status : Nat) (s : State) : State :=
  let t := unit % 4096
  let runs := match s.sched.op with
    | some op => dget op.desc 0 8 == 4 && op.tiles.any fun x => x.1 == t
    | none => false
  if status ≠ 0 && unit / 4096 == 1 && runs && tileRun s t != .faulted then tileFault t 3 s else s

/-! ### Responses -/

/-- The channel of a response (R336). -/
def pairedVc (vc : Nat) : Nat := if vc = 1 then 2 else vc

/-- RESP to a device with a status (Table 12.2). -/
def respond (dst vc tag status : Nat) (s : State) : State :=
  sendTo dst 0 (pairedVc vc) none none (message 0x80 dst s.pod.eff.device 0 tag 0 status 0 0 none []) s

/-- RESP sent on one port whatever the routes (R347: a port in conflict still answers). -/
def respondOn (p dst vc tag status : Nat) (s : State) : State :=
  sendOn p (pairedVc vc) none none (message 0x80 dst s.pod.eff.device 0 tag 0 status 0 0 none []) s

/-- The answer to a request without data: DATA of no bytes to a READ, else RESP (Table 12.2). -/
def replyTo (type src vc tag status : Nat) (s : State) : State :=
  if type = 1 then
    sendTo src 0 (pairedVc vc) none none
      (message 0x81 src s.pod.eff.device 0 tag 0 status 0 0 (if status = 1 then some 0 else none) []) s
  else respond src vc tag status s

/-- A status as a module may send it: one that only this module may name travels as UNREACHABLE (R338; log 169). -/
def wireOf (status : Nat) : Nat := if 7 ≤ status then 5 else status

/-- The messages that a SIGNAL waits for and answers for: WRITE, ADD, COPY and COLLECTIVE (R345). -/
def beforeSignal (type : Nat) : Bool := type == 2 || type == 3 || type == 4 || type == 7

/-- A held SIGNAL of the same unit and device that was issued after a request. -/
def signalAfter (r q : Request) : Bool := q.signal && !q.sent && q.dst == r.dst && q.unit == r.unit && decide (r.id < q.id)

/-- The first status other than OK among the messages before a SIGNAL (R345): kept with the SIGNALs that are held, or, where
none is, for the next one of the unit to the device. -/
def noteFailure (r : Request) (status : Nat) (s : State) : State :=
  if status = 0 ∨ beforeSignal r.type = false ∨ r.why = .carried then s
  else
    let k := r.unit * 64 + r.dst
    let note (q : Request) : Request := if signalAfter r q && q.fails == 0 then { q with fails := status } else q
    { s with pod := { s.pod with
        reqs := s.pod.reqs.map note
        bad := if s.pod.reqs.any (signalAfter r) || Tab.get 0 s.pod.bad k != 0 then s.pod.bad else Tab.set 0 s.pod.bad k status } }

/-- A message of a unit to a device that never became a request, as far as a SIGNAL after it asks (R345). -/
def unsent (id type dst unit : Nat) : Request :=
  { id := id, tag := 0, type := type, dst := dst, vc := 1, unit := unit, bytes := [], why := .unit }

/-- What a COLLECTIVE's end means for the SIGNALs of its unit toward the other members of its mask (R345). -/
def noteColl (c : Coll) (own : Nat) (s : State) : State :=
  (List.range 64).foldl (fun s d =>
    if bitB c.mask d && d != own then noteFailure (unsent c.id 7 d c.unit) c.status s else s) s

/-- A COLLECTIVE's subtree reported upward once the own apply and every child have answered (R346). At the root the unit that
issued it takes the status. -/
def collFinish (id : Nat) (s : State) : State :=
  match s.pod.colls.find? fun c => c.id == id with
  | none => s
  | some c =>
    if c.waiting ≠ 0 then s else
      let s := { s with pod := { s.pod with colls := s.pod.colls.filter fun c => !(c.id == id) } }
      match c.parent with
      | some (vc, dev, tag) => respond dev vc tag (wireOf c.status) s
      | none =>
        let s := noteColl c s.pod.eff.device s
        tileSees c.unit c.status { s with out := s.out ++ [.requestEnd c.unit c.status] }

/-- A child's status taken into its COLLECTIVE: the highest code counts. -/
def collChild (id status : Nat) (s : State) : State :=
  collFinish id { s with pod := { s.pod with colls := s.pod.colls.map fun c =>
    if c.id == id then { c with waiting := c.waiting - 1, status := max c.status status } else c } }

/-- Completion of a host read of another module's memory (R339). -/
def hostReadStatus (status : Nat) : CplStatus :=
  match status with
  | 0 => .ok
  | 1 => .ep
  | 3 => .unsupported
  | _ => .abort

/-- FABRIC_UNREACHABLE for a host access that ended UNREACHABLE, TIMEOUT or DELIVERY_UNKNOWN (R339). -/
def hostUnreachable (dst status : Nat) (s : State) : State :=
  if status = 5 ∨ status = 8 ∨ status = 9 then logEvent 0x0901 0x9000 (fld dst 0 6 + fld status 8 8) s else s

/-- The AER error of a host access by its completion status (Table 13.8). -/
def accessAer (st : CplStatus) (s : State) : State :=
  match st with
  | .unsupported => setAer aerUnsupported s
  | .abort => setAer aerAbort s
  | _ => s

/-- The reason of Table 14.5 for a remote status other than OK and POISON (Table 12.3). -/
def statusReason (status : Nat) : Nat := if status = 5 then 0x0601 else 0x0603

/-- The reason of a write or an add that has ended: none for OK (R339). -/
def endReason (status : Nat) : Nat := if status = 0 then 0 else statusReason status

/-- A WRITE of a command's reply to another module has ended (R339): the command fails with the first that did not end OK,
and completes with the last that did. -/
def storeEnded (o : Origin) (reply : Bytes) (status : Nat) (s : State) : State :=
  let mine (r : Request) : Bool := match r.why with | .store o' _ => o' == o | _ => false
  if status ≠ 0 then
    let reqs := s.pod.reqs.map fun (r : Request) => if mine r then { r with why := .mailbox } else r
    fail o ⟨statusReason status, none, none⟩ { s with pod := { s.pod with reqs := reqs } }
  else if s.pod.reqs.any mine then s
  else answerOk o reply s

/-- What a request's end means for the one that issued it (R339, R346, R352, R354). A data read that ended OK is
answered by its DATA message and not here. -/
def deliverStatus (r : Request) (status : Nat) (s : State) : State :=
  match r.why with
  | .hostRead _ =>
    hostUnreachable r.dst status
      (accessAer (hostReadStatus status) { s with out := s.out ++ [.completion (hostReadStatus status) []] })
  | .hostWrite => hostUnreachable r.dst status (accessAer (hostReadStatus status) s)
  | .relay o _ => if status = 0 then s else refuse o ⟨0x0601, none, none⟩ s
  | .frames o =>
    if status = 0 then s else
      refuse o ⟨0x0601, none, none⟩
        { s with obj := { s.obj with extending := s.obj.extending.filter fun e => !(e.by' == o) } }
  | .mailbox | .unit | .carried => s
  | .posted => tileSees r.unit status s
  | .child c => collChild c status s
  | .signal => tileSees r.unit status { s with out := s.out ++ [.requestEnd r.unit status] }
  | .store o reply => storeEnded o reply status s

/-- A request ended with a status of Table 12.3 (R338): taken out, its status noted for SIGNALs and delivered. A relay and a
frame request that were received wait on for their reply. -/
def endOne (r : Request) (status : Nat) (s : State) : State :=
  let keep := status == 0 && (match r.why with | .relay _ _ => true | .frames _ => true | _ => false)
  let reqs :=
    if keep then s.pod.reqs.map fun (q : Request) => if q.id == r.id then { q with holding := false } else q
    else s.pod.reqs.filter fun q => !(q.id == r.id)
  deliverStatus r status (noteFailure r status { s with pod := { s.pod with reqs := reqs } })

/-- The messages that waited behind a refused one and wait no more (R342). -/
def released (s : State) : List Request :=
  s.pod.reqs.filter fun r => !r.sent && !r.signal &&
    !(s.pod.reqs.any fun q => q.dst == r.dst && q.unit == r.unit && q.holding && decide (q.id < r.id))

/-- A request that this module forwards and for which no route qualifies is answered UNREACHABLE (R349). -/
def unreachableTo (vc : Nat) (fwd : Option Nat) (bs : Bytes) (s : State) : State :=
  let h := field bs 0 16
  if fwd.isSome && decide (bits h 7 0 < 0x80) then replyTo (bits h 7 0) (bits h 28 23) vc (bits h 47 32) 5 s else s

/-- A message that waits no longer sent, or ended UNREACHABLE (R349). -/
def sendWaiting (r : Request) (s : State) : State :=
  let line := field r.bytes 8 6 / 128
  let reqs := s.pod.reqs.map fun (q : Request) => if q.id == r.id then { q with sent := true } else q
  if (routePort s r.dst line).isSome then
    sendTo r.dst line r.vc (some r.id) r.fwd r.bytes { s with pod := { s.pod with reqs := reqs } }
  else endOne r 5 (unreachableTo r.vc r.fwd r.bytes s)

/-- The messages that wait no longer sent in order, and those that their ends let go in turn. -/
def sendReleased : Nat → State → State
  | 0, s => s
  | n + 1, s => match released s with
    | [] => s
    | r :: _ => sendReleased n (sendWaiting r s)

/-- A request ended, and what it held back sent. -/
def endRequest (id status : Nat) (s : State) : State :=
  match s.pod.reqs.find? fun r => r.id == id with
  | none => s
  | some r => let t := endOne r status s; sendReleased t.pod.reqs.length t

/-- Several requests ended with one status. -/
def endRequests (ids : List Nat) (status : Nat) (s : State) : State :=
  ids.foldl (fun s id => endRequest id status s) s

/-- A line of another module, as the pod answers; TIMEOUT when it does not (R341). -/
def remoteLine (rd : Remote) (a : Nat) : RemoteLine :=
  (rd.find? fun l => l.addr == a).getD ⟨a, 8, zeros 128, 0⟩

/-- A request of a unit begun and ended within one command, which brings the status with which the pod answers it (log 12):
it leaves as any other, ends UNREACHABLE when no route qualifies (R349), and makes its command wait behind a message that
its destination refused (R342). -/
def exchange (ty dst vc unit op addr len : Nat) (ext : Option Nat) (payload : Bytes) (status : Nat) (s : State) : State × Nat :=
  if heldBehind s dst unit then ({ s with waits := true }, 0)
  else if (routePort s dst (addr / 128)).isNone then (noteFailure (unsent s.pod.nextReq ty dst unit) 5 s, 5)
  else
    let s1 := endRequest s.pod.nextReq status (sendRequest ty dst vc unit op addr len ext payload .unit s)
    (fabricReply ((routePort s dst (addr / 128)).getD 0) vc unit (if ty = 1 then (len + 63) / 64 else 1) s1, status)

/-- The destinations whose routes have a usable port. -/
def reachable (s : State) : List Nat := (List.range 64).filter fun d => !(routePorts s d).isEmpty

/-- ROUTE_DOWN for one entry (Table 18.4). -/
def logRoute (d : Nat) (up : Bool) (s : State) : State :=
  let r := Tab.get {} s.pod.routes d
  let act := (List.range 32).foldl (fun n p =>
    n + if bitB (r.ports ||| r.altPorts) p && (port s p).state == 3 then 2 ^ p else 0) 0
  logEvent 0x0904 (0x8000 + d) (fld (b2n up) 0 1 + fld act 32 32) s

/-- ROUTE_DOWN for every entry whose last usable port is lost or that has one again (R349), between two states. A member
that has come back may be missed anew (R355). -/
def routeChanges (before : List Nat) (s : State) : State :=
  let after := reachable s
  let s := { s with pod := { s.pod with missing := after.foldl (fun n d => if bitB n d then n - 2 ^ d else n) s.pod.missing } }
  let s := (before.filter fun d => !after.contains d).foldl (fun s d => logRoute d false s) s
  (after.filter fun d => !before.contains d).foldl (fun s d => logRoute d true s) s

/-- A port's state changed, with its PORT trace record. -/
def setPortState (p st : Nat) (s : State) : State :=
  let old := (port s p).state
  traceRec 0x0A (0x7000 + p) (fld st 0 3 + fld old 3 3) (setPort s p fun pt => { pt with state := st })

/-- A READ whose delivery is unknown is sent once more on the route as it now stands (R341). -/
def resendRead (r : Request) (s : State) : State :=
  let s := { s with pod := { s.pod with reqs := s.pod.reqs.map fun q =>
    if q.id == r.id then { q with retried := true } else q } }
  if (routePort s r.dst (field r.bytes 8 6 / 128)).isSome then
    sendTo r.dst (field r.bytes 8 6 / 128) r.vc (some r.id) r.fwd r.bytes s
  else endRequest r.id 5 (unreachableTo r.vc r.fwd r.bytes s)

/-- Requests with a unit in a held flit or of which only the rest waits to be sent. -/
def unknownIds (ss : Session) : List Nat :=
  let held := (ss.held.map fun f => f.reqs.map (·.1)).flatten
  let begun := (ss.tx.filterMap fun u => u.req).filter fun r =>
    !(ss.tx.any fun u => u.start && u.req == some r)
  (held ++ begun).eraseDups

/-- The units of messages that had not begun to leave: they wait for another port. -/
def unsentUnits (ss : Session) : List TxUnit :=
  ss.tx.foldl (fun (acc : List TxUnit) u =>
    if u.start then acc ++ [u]
    else if acc.any (fun v => v.vc == u.vc && v.req == u.req && v.fwd == u.fwd) then acc ++ [u] else acc) []

/-- Messages cut out of a list of units. -/
def splitUnits : List TxUnit → List (List TxUnit)
  | [] => []
  | u :: us => match splitUnits us with
    | [] => [[u]]
    | g :: gs => if (g.head?.map (·.start)).getD true then [u] :: g :: gs else (u :: g) :: gs

/-- A message for which no route qualifies (R349): a request of this module ends UNREACHABLE, one that it forwards is answered
so, and a response is dropped. -/
def dropMessage (vc : Nat) (req fwd : Option Nat) (bs : Bytes) (s : State) : State :=
  let s := unreachableTo vc fwd bs s
  match req with
  | some r => endRequest r 5 s
  | none => s

/-- A message that had not begun to leave, sent along another port (R328, R349). -/
def resendUnits (us : List TxUnit) (s : State) : State :=
  let bs := (us.map (·.bytes)).flatten
  match us with
  | [] => s
  | u :: _ =>
    let dst := bits (field bs 0 4) 22 17
    if (routePort s dst (field bs 8 6 / 128)).isSome then sendTo dst (field bs 8 6 / 128) u.vc u.req u.fwd bs s
    else dropMessage u.vc u.req u.fwd bs s

/-- The READs that this module forwards with their unit in a held flit and no request of their own (R341): a READ is one unit,
and its flit says where messages begin. -/
def forwardedReads (own : Nat) (f : HeldFlit) : List Bytes :=
  (List.range f.units).filterMap fun i =>
    let b := slice f.payload (16 * i) 16
    if bitB f.start i && bits (field b 0 4) 7 0 == 1 && bits (field b 0 4) 28 23 != own
        && !(f.reqs.any fun r => r.2 == some i) then some b else none

/-- The unit under which a forwarding module holds messages back (R342): a header names no unit, so every message of one source
device stands for one unit (DEDUCED, log 195). -/
def carriedUnit (bs : Bytes) : Nat := 0x10000 + bits (field bs 0 4) 28 23

/-- A forwarded READ put among the messages that this module sends again. -/
def carriedRead (p vc : Nat) (b : Bytes) (id : Nat) : Request :=
  let h := field b 0 16
  { id := id, tag := bits h 47 32, type := 1, dst := bits h 22 17, vc := vc, unit := carriedUnit b, bytes := b
    why := .carried, fwd := some (p / 4) }

/-- The READs that a port forwarded and whose delivery its session leaves unknown, kept as messages to send again. -/
def keepReads (p : Nat) (ss : Session) (s : State) : State :=
  let bs := (ss.held.map fun f => (forwardedReads s.pod.eff.device f).map fun b => (f.vc, b)).flatten
  { s with pod := { s.pod with
      nextReq := s.pod.nextReq + bs.length
      reqs := s.pod.reqs ++ bs.zipIdx.map fun (x, i) => carriedRead p x.1 x.2 (s.pod.nextReq + i) } }

/-- A session of a port ends (R328, R341): held flits are handed back as delivery unknown, partial messages are
discarded, complete ones stay for the message layer. A READ, this module's or one that it forwards, is sent once more. -/
def endSession (p : Nat) (s : State) : State :=
  let ss := (port s p).sess
  let kept := s.pod.nextReq
  let s := keepReads p ss s
  let ids := unknownIds ss
  let known := s.pod.reqs.filter fun r => ids.contains r.id || decide (kept ≤ r.id)
  let again := known.filter fun r => r.type == 1 && !r.retried
  let gone (r : Request) : Bool := known.contains r && r.why == .carried && (r.type != 1 || r.retried)
  let ended := known.filter fun r => r.why != .carried && (r.type != 1 || r.retried)
  let s := { s with pod := { s.pod with reqs := s.pod.reqs.filter fun r => !gone r } }
  let s := setPort s p fun pt => { pt with
    sess := { rx := ss.rx.map fun m => { m with flits := [] }, own := ss.own, partner := ss.partner, serial := ss.serial, port := ss.port }, member := none }
  let s := again.foldl (fun s r => resendRead r s) s
  let s := endRequests (ended.map (·.id)) 9 s
  let s := if ended.isEmpty then s else
    logEvent 0x0902 (0x7000 + p) (fld ended.length 0 32 + fld ss.own 32 32) s
  (splitUnits (unsentUnits ss)).foldl (fun s g => resendUnits g s) s

end Sys2Proof.Machine
end

