-- ==== Sys2Proof/Machine/Memory.lean ====
section
/-! DEFINITION. Stack and side-stack memory: the address map and its hash (R201, R204, R165, R207), the sector code
(R187-R192), what a tier or a side-stack controller does on a line read and a line write, the leaky buckets (R193,
R212), row remaps (R197-R199, R213) and the retest hints (R411). -/

namespace Sys2Proof.Machine

/-! ### The address map -/

/-- Shanks in the interleave. -/
def stackW (s : State) : Nat := 256 - s.bring.retired.length

/-- Bytes of a column (Table 6.1). -/
def columnBytes : Nat := 200 * 2 ^ 20

/-- XOR of all bytes of a number below 2^48 (R204). -/
def fold8 (x : Nat) : Nat :=
  (x % 256) ^^^ (x / 256 % 256) ^^^ (x / 2 ^ 16 % 256) ^^^ (x / 2 ^ 24 % 256) ^^^ (x / 2 ^ 32 % 256) ^^^
    (x / 2 ^ 40 % 256)

/-- Shanks of an interleave without some retired ones, in ascending order. -/
def shanksLeft (retired : List Nat) : List Nat := (List.range 256).filter fun t => !retired.contains t

/-- Home slice and shank-local index of a stack address in the interleave without some retired shanks (R204). -/
def homeIn (retired : List Nat) (a : Nat) : Nat × Nat :=
  let n := a / 128
  if retired.isEmpty then (n % 256 ^^^ fold8 (n / 256), n / 256)
  else
    let left := shanksLeft retired
    let w := left.length
    (nth left ((n % w + fold8 (n / w)) % w), n / w)

/-- Device address of the line with index L at a slice in such an interleave: the inverse of the hash; none when the slice
is outside it. -/
def lineIn (retired : List Nat) (slice l : Nat) : Option Nat :=
  if retired.isEmpty then some ((l * 256 + (slice ^^^ fold8 l)) * 128)
  else
    let left := shanksLeft retired
    let w := left.length
    (left.findIdx? (· == slice)).map fun k => (l * w + (k + w * 256 - fold8 l) % w) * 128

/-- Home slice and shank-local index of a stack address of this module. -/
def stackHome (s : State) (a : Nat) : Nat × Nat := homeIn s.bring.retired a

/-- Device address of a line of this module by slice and index. -/
def lineOf (s : State) (slice l : Nat) : Option Nat := lineIn s.bring.retired slice l

/-- Where a line of shank-local index L lies: tier 1-8, bank, row, slot (R165). -/
def linePlace (l : Nat) : Nat × Nat × Nat × Nat := (1 + l % 8, l / 8 % 16, l / 128 / 16, l / 128 % 16)

/-- Where a side-stack offset lies: pseudo-channel, bank, row (Table 7.2). -/
def sidePlace (off : Nat) : Nat × Nat × Nat := (bits off 13 9, bits off 17 14, bits off 36 20)

/-- What a device address names (Table 7.1). -/
inductive Place where
  | stack (slice l : Nat)
  | side (i off : Nat)
  | hole
  deriving DecidableEq, Repr

/-- The endpoint of the welt at which a place is served (R208, R255). -/
def Place.home : Place → Endpoint
  | .stack t _ => .slice t
  | .side i _ => .side i
  | .hole => .hub

/-- First side-stack address. -/
def sideBase : Nat := 2 ^ 40

/-- A side stack's record. -/
def sideOf (s : State) (i : Nat) : Side := Tab.get {} s.stack.sides i

/-- The place of a device address; control space is a hole to every agent but the Cobbler (R201, R221). -/
def locate (s : State) (a : Nat) : Place :=
  if a < columnBytes * stackW s then .stack (stackHome s a).1 (stackHome s a).2
  else if sideBase ≤ a ∧ a < sideBase + 12 * 2 ^ 37 then
    let i := (a - sideBase) / 2 ^ 37
    if (sideOf s i).ledger then .hole else .side i ((a - sideBase) % 2 ^ 37)
  else .hole

/-- A shank's record. -/
def shankOf (s : State) (t : Nat) : Shank := Tab.get {} s.stack.shanks t

/-- A tier's record; index 0-7 for M1-M8. -/
def tierOf (s : State) (i : Nat) : Tier := Tab.get {} s.stack.tiers i

/-- Set bits of a mask of `n` bits. -/
def popcount (n mask : Nat) : Nat := ((List.range n).filter fun i => bitB mask i).length

/-- Healthy groups of a shank. -/
def Shank.healthy (k : Shank) : Nat := 17 - popcount 17 k.failed

/-- SHANK_STAT.MODE: 0 full, 1 half, 2 retired (Table 6.7). -/
def Shank.mode (k : Shank) : Nat := if 16 ≤ k.healthy then 0 else if 8 ≤ k.healthy then 1 else 2

/-- Healthy groups in ascending order. -/
def Shank.groups (k : Shank) : List Nat := (List.range 17).filter fun g => !bitB k.failed g

/-- The groups that carry the data roles D0, D1, …: in full mode G0 to G15, with G16 in the role of a failed one (R175); in
half mode the eight lowest healthy groups (R176). -/
def Shank.roles (k : Shank) : List Nat :=
  match k.mode with
  | 0 => (List.range 16).map fun d => if bitB k.failed d then 16 else d
  | 1 => k.groups.take 8
  | _ => []

/-- G16 carries data (Table 6.13). -/
def Shank.spareUsed (k : Shank) : Bool := k.roles.contains 16

/-- The group that carries the guard word: a healthy one without a data role (R169, R176). -/
def Shank.guardGroup (k : Shank) : Option Nat := k.groups.find? fun g => !k.roles.contains g

/-- A guard word is checked. -/
def Shank.guard (k : Shank) : Bool := k.valid && k.mode != 2 && k.guardGroup.isSome

/-- The shank works without a guard: no healthy group is left over for the guard word (R169). -/
def Shank.bare (k : Shank) : Bool := k.mode != 2 && k.guardGroup.isNone

/-- The guard words of a line: the even parity, bit by bit, of the 64-bit words of the data groups, one word for each beat in
which the line crosses (R168, R169, R176). -/
def Shank.guardWords (k : Shank) (d : Bytes) : List Nat :=
  let word (i : Nat) : Nat := field d (8 * i) 8
  let beat (lo n : Nat) : Nat := (List.range n).foldl (fun g i => g ^^^ word (lo + i)) 0
  if k.mode = 1 then [beat 0 8, beat 8 8] else [beat 0 16]

/-- A line as it arrives after a crossing. -/
def crossed (d : Bytes) (cross : List LaneError) : Bytes :=
  cross.foldl (fun d e => if e.byte < 128 then d.modify e.byte (· ^^^ e.flip) else d) d

/-- The errors of the next crossing that a larger command makes: none that a guard lets pass; over a shank without one what
the crossing brings, which no rule fixes (R169, log 180). -/
def crossErrors (s : State) (t : Nat) : List LaneError :=
  if (shankOf s t).bare then (Config.laneErrors s.fresh).map fun e => ⟨e.1, e.2⟩ else []

/-- A masked line as it arrives at its tier. -/
def crossedWrite (data : List (Option Byte)) (cross : List LaneError) : List (Option Byte) :=
  data.zipIdx.map fun (b, i) => b.map fun b => cross.foldl (fun b e => if e.byte = i then b ^^^ e.flip else b) b

/-- The number of the next free value moved on where a crossing has taken one. -/
def crossDone (t : Nat) (s : State) : State := if (shankOf s t).bare then { s with fresh := s.fresh + 1 } else s

/-- The receiver's check: the guard words of the line as it arrived differ from those that arrived with it. -/
def Shank.mismatch (k : Shank) (d : Bytes) (cross : List LaneError) : Bool :=
  let arrived := (k.guardWords d).zipIdx.map fun (g, i) => cross.foldl (fun g e =>
    if 128 + 8 * i ≤ e.byte ∧ e.byte < 136 + 8 * i then g ^^^ e.flip.toNat * 256 ^ (e.byte - 128 - 8 * i) else g) g
  k.guard && k.guardWords (crossed d cross) != arrived

/-! ### Bytes -/

/-- `n` bytes as memory stores them, from an address. -/
def memBytes (s : State) (a n : Nat) : Bytes := (List.range n).map fun i => Tab.get 0 s.stack.mem (a + i)

/-- Free bytes for a result that the spec leaves undefined. -/
def freeBytes (k n : Nat) : Bytes := (List.range n).map fun i => Config.freeByte (k + i)

/-- The mark of the sector that holds an address. -/
def markAt (s : State) (a : Nat) : Mark := Tab.get {} s.stack.mark (a / 32)

/-- Memory with bytes stored from an address. -/
def Stack.store (k : Stack) (a : Nat) (bs : Bytes) : Stack :=
  { k with mem := bs.zipIdx.foldl (fun m (b, i) => Tab.set 0 m (a + i) b) k.mem }

/-- Memory with a sector's mark set. -/
def Stack.mark' (k : Stack) (a : Nat) (m : Mark) : Stack := { k with mark := Tab.set {} k.mark (a / 32) m }

/-! ### The sector code (R187) -/

/-- Multiplication in GF(2^8) modulo x^8 + x^4 + x^3 + x^2 + 1. -/
def gmul (a b : Nat) : Nat :=
  (List.range 8).foldr (fun i acc =>
    let d := acc * 2
    let d := if 256 ≤ d then d ^^^ 0x11D else d
    if bitB b i then d ^^^ a else d) 0

/-- A power of alpha = 0x02. -/
def gpow : Nat → Nat
  | 0 => 1
  | n + 1 => gmul (gpow n) 2

/-- The four syndromes of an error vector of 36 symbols: symbol i is the coefficient of x^(35 - i), the roots of g
are 1, alpha, alpha^2 and alpha^3. -/
def syndromes (e : List (Nat × Nat)) : List Nat :=
  (List.range 4).map fun j => e.foldl (fun acc (i, v) => acc ^^^ gmul v (gpow (j * (35 - i)))) 0

/-- The error vector of a stored sector as a read finds it: the mark's difference in the check bytes (symbols 32 to
35, the first the most significant byte) and the cells' errors. -/
def errorVector (check : Nat) (errs : List CellError) : List (Nat × Nat) :=
  ((List.range 4).map fun k => (32 + k, check / 256 ^ (3 - k) % 256))
    ++ errs.filterMap fun e => if e.symbol < 36 then some (e.symbol, e.flip.toNat) else none

/-- The poison stamp (R190). -/
def stamp : Nat := 0x5A5A5A5A

/-- What the decoder says of a sector (Table 6.11, R190). -/
inductive Decoded where
  | clean
  | corrected (symbol value : Nat)
  | stamped
  | uncorrectable
  deriving DecidableEq, Repr

/-- The decoder: the stamp's syndrome first, then zero or a single symbol of the 36 (R187, R190). -/
def decodeSector (check : Nat) (errs : List CellError) : Decoded :=
  if errs.isEmpty && check == 0 then .clean
  else
    let syn := syndromes (errorVector check errs)
    if syn = syndromes (errorVector stamp []) then .stamped
    else if syn = [0, 0, 0, 0] then .clean
    else
      let v := nth syn 0
      match (List.range 36).find? fun i => v != 0 && syn == (List.range 4).map fun j => gmul v (gpow (j * (35 - i))) with
      | some i => .corrected i v
      | none => .uncorrectable

/-- The data bytes as a read finds them. -/
def flipData (d : Bytes) (errs : List CellError) : Bytes :=
  errs.foldl (fun d e => if e.symbol < 32 then d.modify e.symbol (· ^^^ e.flip) else d) d

/-- The dead bit by majority of its copies as a read finds them, and whether they agree (R192). -/
def deadVote (m : Mark) (errs : List CellError) : Bool × Bool :=
  let c := errs.foldl (fun c e => if 36 ≤ e.symbol then c ^^^ 2 ^ (e.symbol - 36) else c) m.dead
  let n := popcount 3 c
  (decide (2 ≤ n), n == 0 || n == 3)

/-! ### Hints, ledger, buckets, remaps -/

/-- Ledger entries a module can hold (R415). -/
def ledgerMax : Nat := 8192

/-- A runtime fault written as a retest hint, straight to the ledger when the store is full, or lost (R411). -/
def addHint (kind unit sub bank row src : Nat) (s : State) : State :=
  let h : Hint := ⟨kind, unit, sub, bank, row⟩
  if s.bring.hints.contains h then s
  else if s.bring.hints.length < 512 then { s with bring := { s.bring with hints := s.bring.hints ++ [h] } }
  else if s.bring.ledger.length < ledgerMax then
    let e : LedgerEntry := ⟨kind, 0xF, unit, sub, bank, row, s.bring.resetGen⟩
    let other := (s.bring.oldCopy ++ [e]).take ledgerMax
    { s with bring := { s.bring with ledger := s.bring.ledger ++ [e], oldCopy := other } }
  else logEvent 0x0B09 0x0000 (fld src 0 16 + fld kind 16 4) s

/-- A shank's record changed. -/
def setShank (t : Nat) (f : Shank → Shank) (s : State) : State :=
  { s with stack := { s.stack with shanks := Tab.upd {} s.stack.shanks t f } }

/-- A side stack's record changed. -/
def setSide (i : Nat) (f : Side → Side) (s : State) : State :=
  { s with stack := { s.stack with sides := Tab.upd {} s.stack.sides i f } }

/-- A tier's record changed. -/
def setTier (i : Nat) (f : Tier → Tier) (s : State) : State :=
  { s with stack := { s.stack with tiers := Tab.upd {} s.stack.tiers i f } }

/-- One correctable error of a shank (R193). -/
def shankError (t : Nat) (s : State) : State :=
  let k := shankOf s t
  let s := tally 3 t 2 1 (setShank t (fun k => { k with
    ceTotal := k.ceTotal + 1
    bucket := min 64 (k.bucket + 1)
    overflow := k.overflow || decide (64 ≤ k.bucket)
    ceHold := k.ceHold || decide (64 ≤ k.bucket) }) s)
  if 64 ≤ k.bucket ∧ k.ceHold = false then logEvent 0x030A (0x3000 + t) (fld (k.ceTotal + 1) 0 32) s else s

/-- One correctable error of a side stack (R212). -/
def sideError (i : Nat) (s : State) : State :=
  let k := sideOf s i
  let s := tally 7 i 3 1 (setSide i (fun k => { k with
    ceTotal := k.ceTotal + 1
    bucket := min 64 (k.bucket + 1)
    overflow := k.overflow || decide (64 ≤ k.bucket)
    ceHold := k.ceHold || decide (64 ≤ k.bucket) }) s)
  if 64 ≤ k.bucket ∧ k.ceHold = false then logEvent 0x030A (0x6000 + i) (fld (k.ceTotal + 1) 0 32) s else s

/-- A row may be remapped: it is not yet, the table has room and fewer than two rows of its bank are (R197, R213). -/
def mayRemap (table : List (Nat × Nat × Nat)) (size sub bank row : Nat) : Bool :=
  decide (table.length < size) && decide ((table.filter fun r => r.1 == sub && r.2.1 == bank).length < 2)
    && !table.contains (sub, bank, row)

/-- The next rows of a list to be copied: the first that may be remapped is copied, the others wait; a row that may not is
left, with REMAP_EXHAUSTED once (R198, R199). -/
def nextCopy (ok : Nat × Nat × Nat → Bool) (exhaust : State → State) (start : Nat × Nat × Nat → List (Nat × Nat × Nat) → State → State) :
    List (Nat × Nat × Nat) → State → State
  | [], s => s
  | r :: rest, s => if ok r then start r rest s else nextCopy ok exhaust start rest (exhaust s)

/-- REMAP_EXHAUSTED of a shank, once (R199). -/
def shankExhausted (t : Nat) (s : State) : State :=
  let k := shankOf s t
  if k.exhausted then s
  else logEvent 0x030C (0x3000 + t) (fld k.remaps.length 0 8) (setShank t (fun k => { k with exhausted := true }) s)

/-- REMAP_EXHAUSTED of a side stack, once (R213). -/
def sideExhausted (i : Nat) (s : State) : State :=
  let k := sideOf s i
  if k.exhausted then s
  else logEvent 0x030C (0x6000 + i) (fld k.remaps.length 0 8) (setSide i (fun k => { k with exhausted := true }) s)

/-- The next of a shank's rows to remap is copied; it has none in copy. -/
def copyShankRow (t : Nat) (rows : List (Nat × Nat × Nat)) (s : State) : State :=
  nextCopy (fun r => mayRemap (shankOf s t).remaps 8 r.1 r.2.1 r.2.2) (shankExhausted t)
    (fun r rest => setShank t fun k => { k with copying := some r, toCopy := rest }) rows
    (setShank t (fun k => { k with copying := none, toCopy := [] }) s)
def copySideRow (i : Nat) (rows : List (Nat × Nat × Nat)) (s : State) : State :=
  nextCopy (fun r => mayRemap (sideOf s i).remaps 16 r.1 r.2.1 r.2.2) (sideExhausted i)
    (fun r rest => setSide i fun k => { k with copying := some r, toCopy := rest }) rows
    (setSide i (fun k => { k with copying := none, toCopy := [] }) s)

/-- A row of a shank that must be remapped (R198): its copy begins, at once or after the row that is being copied. -/
def startRemap (t tier bank row : Nat) (s : State) : State :=
  let k := shankOf s t
  let r := (tier, bank, row)
  if k.remaps.contains r || k.copying == some r || k.toCopy.contains r then s
  else if k.copying.isSome then setShank t (fun k => { k with toCopy := k.toCopy ++ [r] }) s
  else copyShankRow t [r] s

/-- The same of a side stack (R213). -/
def startSideRemap (i pc bank row : Nat) (s : State) : State :=
  let k := sideOf s i
  let r := (pc, bank, row)
  if k.remaps.contains r || k.copying == some r || k.toCopy.contains r then s
  else if k.copying.isSome then setSide i (fun k => { k with toCopy := k.toCopy ++ [r] }) s
  else copySideRow i [r] s

/-! ### Sectors -/

/-- The unit that checks a sector, for the reports of a read. -/
inductive Checker where
  | shank (t tier bank row : Nat)
  | side (i pc bank row : Nat)
  deriving DecidableEq, Repr

/-- The checker of a place. -/
def Place.checker : Place → Checker
  | .stack t l => let p := linePlace l; .shank t p.1 p.2.1 p.2.2.1
  | .side i off => let p := sidePlace off; .side i p.1 p.2.1 p.2.2
  | .hole => .shank 0 0 0 0

/-- One correctable error reported. -/
def Checker.count : Checker → State → State
  | .shank t _ _ _, s => shankError t s
  | .side i _ _ _, s => sideError i s

/-- A row to remap. -/
def Checker.remap : Checker → State → State
  | .shank t m b r, s => startRemap t m b r s
  | .side i p b r, s => startSideRemap i p b r s

/-- MEM_UNCORRECTABLE of a sector (R189, R211). -/
def Checker.uncorrectable (c : Checker) (a : Nat) (s : State) : State :=
  match c with
  | .shank t m b r =>
    logEvent 0x0309 (0x3000 + t) (fld a 0 48 + fld m 48 8 + fld b 56 8 + fld r 64 32) (tally 3 t 3 1 s)
  | .side i p b r =>
    logEvent 0x0309 (0x6000 + i) (fld a 0 48 + fld p 48 8 + fld b 56 8 + fld r 64 32) (tally 7 i 4 1 s)

/-- A sector as a read returns it. -/
structure SectorRead where
  data   : Bytes
  poison : Bool := false
  dead   : Bool := false
  deriving DecidableEq, Repr

/-- The dead-fill of a sector by its code (Table 9.7). -/
def deadFill (code : Nat) : Bytes :=
  match code with
  | 1 => (List.replicate 8 (natLE 4 0x7FC00000)).flatten
  | 2 => (List.replicate 16 (natLE 2 0x7FC0)).flatten
  | 3 => (List.replicate 16 (natLE 2 0x7E00)).flatten
  | _ => zeros 32

/-- The errors that one read finds in one sector of its line. -/
def errsOf (errs : List CellError) (sec : Nat) : List CellError := errs.filter fun e => e.sector == sec

/-- A sector read at its checker (Table 6.11): the data returned and what the read leaves behind. `again` holds the
errors that the immediate reread of R198 finds. Side stacks keep no dead bit (R209). -/
def readSector (c : Checker) (a : Nat) (errs again : List CellError) (s : State) : State × SectorRead :=
  let m := markAt s a
  let isStack := match c with | .shank _ _ _ _ => true | .side _ _ _ _ => false
  let vote := deadVote m errs
  let rewrite := isStack && !vote.2
  let m : Mark := if rewrite then { m with dead := if vote.1 then 7 else 0 } else m
  let s := if rewrite then c.count { s with stack := s.stack.mark' a m } else s
  if isStack && vote.1 then (s, { data := deadFill s.obj.deadFill, dead := true })
  else
    let d := memBytes s a 32
    match decodeSector m.check errs with
    | .clean => (s, { data := flipData d errs })
    | .stamped => (s, { data := zeros 32, poison := true })
    | .corrected i v =>
      let fixed := if i < 32 then (flipData d errs).modify i (· ^^^ BitVec.ofNat 8 v) else flipData d errs
      let s := c.count { s with stack := (s.stack.store a fixed).mark' a { m with check := 0 } }
      let s := match decodeSector 0 again with
        | .corrected j _ => if i = j then c.remap s else s
        | _ => s
      (s, { data := fixed })
    | .uncorrectable =>
      let s := { s with stack := (s.stack.store a (flipData d errs)).mark' a { m with check := stamp } }
      let s := c.uncorrectable a s
      let s := if decodeSector stamp again = .uncorrectable then c.remap s else s
      (s, { data := zeros 32, poison := true })

/-- A sector write at its checker (R190-R192): `new` gives the bytes written, `poison` that the sector is to be
stamped. A whole write replaces everything; a part is merged into what the read finds. That this read, which ends in a write of
the sector, makes no immediate reread and starts no remap is a DESIGN CHOICE (log 181): R198 speaks of a read that corrects a
sector, and R191 does not say whether its own read is one. -/
def writeSector (c : Checker) (a : Nat) (new : List (Option Byte)) (poison : Bool) (errs : List CellError) (s : State) :
    State :=
  let m := markAt s a
  let isStack := match c with | .shank _ _ _ _ => true | .side _ _ _ _ => false
  if new.all Option.isNone then
    if poison then { s with stack := s.stack.mark' a { check := stamp, dead := 0 } } else s
  else if new.all Option.isSome then
    let k := s.stack.store a (new.map fun b => b.getD 0)
    { s with stack := k.mark' a { check := if poison then stamp else 0 } }
  else
    let s := match c with | .shank t _ _ _ => tally 3 t 8 1 s | .side i _ _ _ => tally 7 i 7 1 s
    let vote := deadVote m errs
    let s := if isStack && !vote.2 then c.count s else s
    if isStack && vote.1 then
      let k := s.stack.store a (overlay (deadFill s.obj.deadFill) 0 new)
      { s with stack := k.mark' a { check := if poison then stamp else 0 } }
    else
      let d := memBytes s a 32
      match decodeSector m.check errs with
      | .clean =>
        let k := s.stack.store a (overlay (flipData d errs) 0 new)
        { s with stack := k.mark' a { check := if poison then stamp else 0 } }
      | .corrected i v =>
        let fixed := if i < 32 then (flipData d errs).modify i (· ^^^ BitVec.ofNat 8 v) else flipData d errs
        let k := s.stack.store a (overlay fixed 0 new)
        c.count { s with stack := k.mark' a { check := if poison then stamp else 0 } }
      | .stamped => { s with stack := (s.stack.store a (overlay d 0 new)).mark' a { check := stamp } }
      | .uncorrectable =>
        let k := s.stack.store a (overlay (flipData d errs) 0 new)
        c.uncorrectable a { s with stack := k.mark' a { check := stamp } }

/-! ### Lines -/

/-- A line as its home or tier returns it: 128 bytes and the status of each sector. -/
structure LineRead where
  data   : Bytes
  poison : Nat := 0
  dead   : Nat := 0
  deriving DecidableEq, Repr

/-- A line of poison. -/
def poisonLine : LineRead := { data := zeros 128, poison := 15 }

/-- RETIRED_ACCESS of a shank (R177). -/
def retiredAccess (t : Nat) (s : State) : State := logLimited 0x0305 (0x3000 + t) 0 (tally 3 t 11 1 s)

/-- The line cannot be served: its shank is retired, its tier failed, its side stack offline. -/
def placeLost (s : State) : Place → Bool
  | .stack t l => (shankOf s t).mode == 2 || (tierOf s (l % 8)).failed
  | .side i _ => (sideOf s i).state == 1
  | .hole => true

/-- What an access to a lost line reports. -/
def lostAccess (p : Place) (s : State) : State :=
  match p with
  | .stack t _ => if (shankOf s t).mode = 2 then retiredAccess t s else s
  | _ => s

/-- Key of a tier-column: tier 1-8, column t. -/
def columnKey (m t : Nat) : Nat := (m - 1) * 256 + t

/-- The row of a line noted as open in its bank: it stays open until another row of its bank is needed (R166, R230). -/
def openRow (t l : Nat) (s : State) : State :=
  let p := linePlace l
  { s with stack := { s.stack with
      rows := Tab.set 0 s.stack.rows (columnKey p.1 t * 16 + p.2.1) (p.2.2.1 + 1) } }

/-- A line's transfer at a side stack, counted against the limit (R210): what a command moves beyond the present window of
1 µs stands against the next ones (log 172). A transfer that went through ends its own failed link checks (R215). -/
def sideMoves (i line n : Nat) (s : State) : State :=
  setSide i (fun k => { k with moved := k.moved + n, fails := k.fails.filter fun f => f.1 != line }) s

/-- The window has no room for a transfer of some bytes (R210). -/
def Side.full (k : Side) (n : Nat) : Bool := k.state != 1 && decide (k.limit * 8000 < k.moved + n)

/-- Whether some sector of a masked line is written in part, which takes a read and a write (R191, R210). -/
def partSector (d : List (Option Byte)) : Bool := (List.range 4).any fun i =>
  let p := (d.drop (32 * i)).take 32
  !(p.all Option.isNone || p.all Option.isSome)

/-- The sectors in which a masked line has bytes. -/
def maskedSectors (bs : List (Option Byte)) : Nat :=
  (List.range 4).foldl (fun n i => n + if ((bs.drop (32 * i)).take 32).any Option.isSome then 2 ^ i else 0) 0

/-- A transfer across a shank has gone through: the mismatches counted for it end (R173). -/
def endTry (t : Nat) (write : Bool) (a : Nat) (s : State) : State :=
  if (shankOf s t).trying.any fun x => x.2 == (write, a) then setShank t (fun k => { k with tries := 0, trying := none }) s
  else s

/-- A line read at its tier or side-stack controller: the sectors of a mask (R189, R177, R181, R216). -/
def readLine (p : Place) (a sectors : Nat) (errs again : List CellError) (s : State) : State × LineRead :=
  if placeLost s p then (lostAccess p s, poisonLine)
  else
    let s := match p with
      | .stack t l => openRow t l (tally 3 t 0 1 (endTry t false a s))
      | .side i _ => sideMoves i a 128 (tally 7 i 0 1 s)
      | .hole => s
    let r := (List.range 4).foldl (fun (acc : State × LineRead) i =>
      if bitB sectors i then
        let r := readSector p.checker (a + 32 * i) (errsOf errs i) (errsOf again i) acc.1
        (r.1, { data := acc.2.data ++ r.2.data
                poison := acc.2.poison + if r.2.poison then 2 ^ i else 0
                dead := acc.2.dead + if r.2.dead then 2 ^ i else 0 })
      else (acc.1, { acc.2 with data := acc.2.data ++ zeros 32 })) (s, ({ data := [] } : LineRead))
    let s := match p with
      | .stack t _ => tally 3 t 4 (popcount 4 r.2.poison) r.1
      | _ => r.1
    (s, r.2)

/-- A line written at its tier or side-stack controller; a lost line discards it. `stamps` holds the sectors to be
stamped as poison. -/
def writeLine (p : Place) (a : Nat) (data : List (Option Byte)) (stamps : Nat) (errs : List CellError) (s : State) :
    State :=
  if placeLost s p then lostAccess p s
  else
    let s := match p with
      | .stack t l => openRow t l (tally 3 t 1 1 (endTry t true a s))
      | .side i _ => sideMoves i a (if partSector data then 256 else 128) (tally 7 i 1 1 s)
      | .hole => s
    (List.range 4).foldl (fun s i =>
      writeSector p.checker (a + 32 * i) ((data.drop (32 * i)).take 32) (bitB stamps i) (errsOf errs i) s) s

/-! ### Accesses that wait -/

/-- An access to a line waits: its shank reconfigures (R174), its row is being copied (R198, R213), its side stack retrains
(R215), or an earlier access to the line waits. -/
def placeWaits (s : State) : Place → Bool
  | .stack t l =>
    let p := linePlace l
    let k := shankOf s t
    k.fault.isSome || k.doubt || k.copying == some (p.1, p.2.1, p.2.2.1)
  | .side i off =>
    let k := sideOf s i
    k.state == 2 || k.copying == some (sidePlace off)
      || k.held.any fun h => h.addr / 128 == (sideBase + i * 2 ^ 37 + off) / 128
  | .hole => false

/-- A line read across its shank or at its controller on behalf of a larger command, which waits where the line waits; over a
shank without a guard the data is what arrives (R169). -/
def crossRead (p : Place) (a sectors : Nat) (errs again : List CellError) (s : State) : State × LineRead :=
  if !placeLost s p && placeWaits s p then ({ s with waits := true }, poisonLine)
  else match p with
    | .stack t _ =>
      let r := readLine p a sectors errs again s
      (crossDone t r.1, { r.2 with data := crossed r.2.data (crossErrors r.1 t) })
    | _ => readLine p a sectors errs again s

/-- A line written likewise. -/
def passWrite (p : Place) (a : Nat) (data : List (Option Byte)) (stamps : Nat) (errs : List CellError) (s : State) : State :=
  match p with
  | .stack t _ => writeLine p a (crossedWrite data (crossErrors s t)) stamps errs (crossDone t s)
  | _ => writeLine p a data stamps errs s

/-! ### Outstanding requests (R260) -/

/-- The tile of a requester. -/
def reqTile : Requester → Option Nat
  | .tile t | .operand t | .stationary t | .output t | .walker t | .frame t => some t
  | _ => none

/-- Who made a held request, and whether it is a read. -/
def MissReq.who : MissReq → Requester × Bool
  | .read req _ => (req, true)
  | .write req _ | .add req _ _ _ | .post req _ _ => (req, false)

/-- The same of a held access. -/
def HeldAccess.who (h : HeldAccess) : Requester × Bool :=
  (h.req, match h.acc with | .read _ => true | _ => false)

/-- Requests that wait for data or an acknowledgement: at the slices, the shanks and the side-stack controllers. -/
def outstanding (s : State) : List (Requester × Bool) :=
  ((s.cache.misses ++ s.cache.late).flatMap fun m => m.reqs.map MissReq.who)
    ++ (s.stack.shanks.flatMap fun (_, k) => k.held.map HeldAccess.who)
    ++ s.stack.sides.flatMap fun (_, k) => k.held.map HeldAccess.who

/-- Outstanding requests of a tile, its remote ones among them. -/
def tileLoad (s : State) (t : Nat) : Nat :=
  ((outstanding s).filter fun q => reqTile q.1 == some t).length + (s.pod.reqs.filter fun r => r.unit == 0x1000 + t).length

/-- A tile has a write or an add-to-line that its home has not acknowledged (R252). -/
def unacked (s : State) (t : Nat) : Bool :=
  ((outstanding s).any fun q => reqTile q.1 == some t && !q.2) || s.pod.reqs.any fun r => r.unit == 0x1000 + t && r.type != 1

/-- A request that finds its tile's limit of 128 reached waits at its source. -/
def mayIssue (s : State) (req : Requester) : Bool :=
  match reqTile req with | some t => decide (tileLoad s t < 128) | none => true

/-- A request that is to wait at a place finds room there and within its tile's limit. The writes of other agents than tiles,
which wait at their source in the order in which they would at the controller, stand in the controller's list. -/
def mayHold (s : State) (req : Requester) (p : Place) : Bool :=
  mayIssue s req && match p, reqTile req with
    | .side i _, some _ => decide ((sideOf s i).held.length < 2048)
    | _, _ => true

/-- A write held at its shank or side-stack controller: it crosses before any later access to its line. -/
def holdWrite (req : Requester) (p : Place) (a : Nat) (data : List (Option Byte)) (stamps : Nat) (s : State) : State :=
  let h : HeldAccess := { req, addr := a, acc := .write data, errs := [], again := [], stamps, posted := true }
  match p with
  | .stack t _ => setShank t (fun k => { k with held := k.held ++ [h] }) s
  | .side i _ => setSide i (fun k => { k with held := k.held ++ [h] }) s
  | .hole => s

/-- A side stack has used up its window (R210). -/
def placeFull (s : State) : Place → Bool
  | .side i _ => (sideOf s i).full 128
  | _ => false

/-- A line written on behalf of a larger command: its writer goes on, and the write is held where the line waits or the window
is used up; a tile that has reached a limit waits itself (R260). -/
def crossWrite (req : Requester) (p : Place) (a : Nat) (data : List (Option Byte)) (stamps : Nat) (s : State) : State :=
  if !placeLost s p && (placeWaits s p || placeFull s p) then
    if mayHold s req p then holdWrite req p a data stamps s else { s with waits := true }
  else passWrite p a data stamps [] s

/-- A command that leads from a state to another has met an access that waits, or has moved data of a side stack whose window
was used up before it (R210). -/
def waited (s t : State) : Bool :=
  t.waits || (List.range 12).any fun i => (sideOf s i).full 128 && (sideOf t i).moved != (sideOf s i).moved

/-- A command's effect, or none while one of its accesses waits: the command then has not happened, and comes again. -/
def heldBack (f : State → State) (s : State) : State :=
  let t := f { s with waits := false }
  if waited s t then s else { t with waits := s.waits }

/-- The same of a whole row. -/
def heldRow (s : State) (f : State → Host.Outcome State Fault Refusal) : Host.Outcome State Fault Refusal :=
  match f { s with waits := false } with
  | .next t => .next (if waited s t then s else { t with waits := s.waits })
  | stop => stop

end Sys2Proof.Machine
end

