-- ==== Sys2Proof/Machine/Cache.lean ====
section
/-! DEFINITION. The home of a line (chapter 9): the L2 slices with their misses, merging, eviction and add-to-line, the
home as the accesses of larger commands meet it, refused and dead accesses, and the THRASH windows. An access that a larger
command makes by itself (an operation, a host access, a partner's request) takes the path of Table 9.2 in one step, its
fill included; the Cobbler's own accesses, which that table does not name, take a line where it is and move none: DESIGN
CHOICE (log 10). -/

namespace Sys2Proof.Machine

/-! ### Requesters and refusals -/

/-- A requester as EVT.SOURCE names it (Table 18.3). -/
def reqUnit : Requester → Nat
  | .tile t | .operand t | .stationary t | .output t | .walker t | .frame t => 0x1000 + t
  | .awl a => 0x5000 + a
  | .host => 0x9000
  | .port p => 0x7000 + p
  | .module => 0

/-- OP_TAG or RUN_TAG of a requester's work, or 0 (R273). -/
def reqTag (s : State) : Requester → Nat
  | .tile _ | .operand _ | .stationary _ | .output _ | .walker _ | .frame _ => if s.sched.op.isSome then s.sched.lastTag else 0
  | .awl _ => match s.awls.cur with | some r => field r.block 40 2 | none => 0
  | _ => 0

/-- The lent region that the slices hold over an address, if any (R237). -/
def lentRegion (s : State) (a : Nat) : Option Nat :=
  s.obj.lends.findSome? fun (id, l) => match l with
    | some r => if r.entered && decide (r.base ≤ a) && decide (a < r.base + r.len) then some id else none
    | none => none

/-- How the home answers an access. -/
inductive Access where
  | ok
  | hole
  | lent (region : Nat)
  deriving DecidableEq, Repr

/-- The answer to an access to a line by its address. -/
def accessOf (s : State) (a : Nat) : Access :=
  match locate s a with
  | .hole => .hole
  | .side _ _ => .ok
  | .stack _ _ => match lentRegion s a with | some id => .lent id | none => .ok

/-- ADDRESS_FAULT (R203). -/
def addressFault (unit a : Nat) (s : State) : State := logLimited 0x0401 unit (fld a 0 48) s

/-- What a refused access reports (R203, R237). -/
def refusedAccess (req : Requester) (a : Nat) (s : State) : Access → State
  | .ok => s
  | .hole => addressFault (reqUnit req) a s
  | .lent id =>
    let s := match locate s a with | .stack t _ => tally 2 t 11 1 s | _ => s
    logLimited 0x0501 (reqUnit req) (fld a 0 48 + fld id 48 6) s

/-- DEAD_READ for the dead sectors of a line that a requester was given (R273). -/
def deadReads (req : Requester) (a dead : Nat) (s : State) : State :=
  if dead = 0 then s
  else
    let s := match locate s a with | .stack t _ => tally 2 t 9 1 s | _ => s
    logLimited 0x0602 (reqUnit req) (fld a 0 48 + fld (reqTag s req) 48 16) s

/-! ### Lines of a slice -/

/-- Key of a way. -/
def wayKey (slice set way : Nat) : Nat := slice * 8192 + set * 16 + way

/-- A line of a slice. -/
def l2Line (s : State) (slice set way : Nat) : L2Line := Tab.get {} s.cache.lines (wayKey slice set way)

/-- The way that holds a line. -/
def findWay (s : State) (slice l : Nat) : Option Nat :=
  (List.range 16).find? fun w => (l2Line s slice (l % 512) w).valid && (l2Line s slice (l % 512) w).index == l

/-- The state with a line of a slice changed. -/
def setLine (slice set way : Nat) (v : L2Line) (s : State) : State :=
  { s with cache := { s.cache with lines := Tab.set {} s.cache.lines (wayKey slice set way) v } }

/-- Full byte mask of a sector. -/
def fullMask : Nat := 2 ^ 32 - 1

/-- The slice holds the sector whole: its data, or its dead or poisoned status. -/
def Sector.whole (c : Sector) : Bool := c.mask == fullMask || c.dead || c.poison

/-- The four sectors of a line, absent ones empty. -/
def L2Line.sectors (v : L2Line) : List Sector := (List.range 4).map fun i => v.secs.getD i {}

/-- The mask of bytes that a write names. -/
def maskOf (new : List (Option Byte)) : Nat :=
  new.zipIdx.foldl (fun n (b, i) => n + if b.isSome then 2 ^ i else 0) 0

/-- A write merged into a sector of a slice (R256, R257, R191): a whole write replaces; a part merges, keeps poison,
and merges into the dead-fill of a dead sector. -/
def Sector.write (c : Sector) (fill : Nat) (new : List (Option Byte)) (poison : Bool) : Sector :=
  let m := maskOf new
  if m = 0 then (if poison then { c with poison := true, dirty := true } else c)
  else if m = fullMask then { data := new.map fun b => b.getD 0, mask := fullMask, poison := poison, dirty := true }
  else
    let base := if c.dead then deadFill fill else if c.data.isEmpty then zeros 32 else c.data
    { data := overlay base 0 new, mask := if c.dead then fullMask else c.mask ||| m
      poison := c.poison || poison, dirty := true }

/-- A write merged into a line. -/
def L2Line.write (v : L2Line) (fill : Nat) (data : List (Option Byte)) (stamps : Nat) : L2Line :=
  { v with secs := v.sectors.zipIdx.map fun (c, i) =>
      c.write fill ((data.drop (32 * i)).take 32) (bitB stamps i) }

/-- What a whole line of a slice reads as. -/
def L2Line.read (v : L2Line) (fill : Nat) : LineRead :=
  let cs := v.sectors
  { data := (cs.map fun c => if c.dead then deadFill fill else if c.poison || c.data.isEmpty then zeros 32 else c.data).flatten
    poison := cs.zipIdx.foldl (fun n (c, i) => n + if c.poison then 2 ^ i else 0) 0
    dead := cs.zipIdx.foldl (fun n (c, i) => n + if c.dead then 2 ^ i else 0) 0 }

/-- A filled sector merged under the bytes that the slice holds (R256). -/
def Sector.fill (c : Sector) (r : SectorRead) : Sector :=
  if c.whole then c
  else if c.mask = 0 then
    { data := if r.dead then [] else r.data, mask := if r.dead then 0 else fullMask, poison := r.poison, dead := r.dead
      dirty := c.dirty }
  else
    { c with
      data := r.data.zipIdx.map fun (b, i) => if bitB c.mask i then c.data.getD i 0 else b
      mask := fullMask, poison := c.poison || r.poison }

/-- An add-to-line applied to a line that is present whole (R264). -/
def L2Line.addTo (v : L2Line) (fill code mask : Nat) (operand : Bytes) : L2Line :=
  let r := v.read fill
  let new := addLine code mask r.data operand r.poison
  let w := (addWidth code).getD 128
  { v with secs := v.sectors.zipIdx.map fun (c, i) =>
      let touched := if w = 128 then bitB mask 0
        else (List.range 128).any fun k => bitB mask k && decide (w * k < 32 * i + 32) && decide (32 * i < w * k + w)
      if c.poison || !touched then c
      else { data := slice new (32 * i) 32, mask := fullMask, dirty := true } }

/-- A plain write of a line: add-to-lines of any kind may follow it (R125). -/
def notePlain (a : Nat) (s : State) : State :=
  { s with stack := { s.stack with adds := Tab.set 0 s.stack.adds (a / 128) 0 } }

/-- Codes of add-to-lines since a line's last plain write, with one more: 1 XF640, 2 others, 3 both. -/
def addKinds (s : State) (a code : Nat) : Nat := Tab.get 0 s.stack.adds (a / 128) ||| if code = 5 then 1 else 2

/-- A line whose contents are undefined: every sector but the poisoned ones holds free bytes. -/
def L2Line.free (v : L2Line) (n : Nat) : L2Line :=
  { v with secs := v.sectors.zipIdx.map fun (c, i) =>
      if c.poison then c else { data := freeBytes (n + 32 * i) 32, mask := fullMask, dirty := true } }

/-- An add-to-line on a line that is present whole. One that mixes XF640 with other codes leaves the line undefined
(R125, log 17). -/
def addAt (a code mask : Nat) (operand : Bytes) (acc : State × L2Line) : State × L2Line :=
  let s := acc.1
  let kinds := addKinds s a code
  let s' := { s with stack := { s.stack with adds := Tab.set 0 s.stack.adds (a / 128) kinds } }
  if kinds = 3 then ({ s' with fresh := s.fresh + 128 }, acc.2.free s.fresh)
  else (s', acc.2.addTo s.obj.deadFill code mask operand)

/-! ### Replacement (R250) -/

/-- Ways of a set that a victim may be taken from. -/
def unpinned (s : State) (slice set : Nat) : List Nat :=
  (List.range 16).filter fun w => !((l2Line s slice set w).valid && (l2Line s slice set w).pinned)

/-- The walk from a node of the tree (root 1, leaves 16 to 31): the pointed subtree, or the other when it holds no
unpinned way. -/
def plruWalk (bitsOf : Nat) (free : List Nat) : Nat → Nat → Nat
  | 0, node => node
  | d + 1, node =>
    let sub (n : Nat) := free.filter fun w => (16 + w) / 2 ^ d == n
    let want := 2 * node + if bitB bitsOf (node - 1) then 1 else 0
    let other := 2 * node + if bitB bitsOf (node - 1) then 0 else 1
    plruWalk bitsOf free d (if (sub want).isEmpty then other else want)

/-- The tree bits after an access to a way: each node on its path points away from it. -/
def plruTouch (b way : Nat) : Nat :=
  (List.range 4).foldl (fun b d =>
    let child := (16 + way) / 2 ^ d
    let node := child / 2
    let away := child % 2 == 0
    b - (if bitB b (node - 1) then 2 ^ (node - 1) else 0) + if away then 2 ^ (node - 1) else 0) b

/-- An access to a way noted. -/
def touch (slice set way : Nat) (s : State) : State :=
  { s with cache := { s.cache with plru := Tab.upd 0 s.cache.plru (slice * 512 + set) fun b => plruTouch b way } }

/-- The way that a new line takes: an empty one first (DESIGN CHOICE, log 10), else the tree's victim. -/
def victimWay (s : State) (slice set : Nat) : Nat :=
  match (List.range 16).find? fun w => !(l2Line s slice set w).valid with
  | some w => w
  | none => plruWalk (Tab.get 0 s.cache.plru (slice * 512 + set)) (unpinned s slice set) 4 1 - 16

/-- The dirty sectors of a line written back to its tier (R256, R257). -/
def writeBack (slice : Nat) (v : L2Line) (s : State) : State :=
  match lineOf s slice v.index with
  | none => s
  | some a =>
    if v.secs.any Sector.dirty then
      let data := (v.sectors.map fun c =>
        if c.dirty then (List.range 32).map fun i => if bitB c.mask i then some (c.data.getD i 0) else none
        else List.replicate 32 none).flatten
      let stamps := v.sectors.zipIdx.foldl (fun n (c, i) => n + if c.dirty && c.poison then 2 ^ i else 0) 0
      crossWrite .module (.stack slice v.index) a data stamps (tally 2 slice 6 1 s)
    else s

/-- A line evicted: written back where dirty, then gone. -/
def evict (slice set way : Nat) (s : State) : State :=
  let v := l2Line s slice set way
  if v.valid then
    setLine slice set way {} (writeBack slice v (tally 2 slice 8 1 s))
  else s

/-- A line placed in a slice. -/
def allocate (slice l : Nat) (v : L2Line) (s : State) : State :=
  let set := l % 512
  let way := match findWay s slice l with | some w => w | none => victimWay s slice set
  let s := if (findWay s slice l).isSome then s else evict slice set way s
  touch slice set way (setLine slice set way { v with valid := true, index := l } s)

/-- Lines of a slice that a test holds for, as keys and values. -/
def linesWhere (s : State) (f : Nat → L2Line → Bool) : List (Nat × L2Line) :=
  s.cache.lines.filter fun (k, v) => v.valid && f (k / 8192) v

/-- Lines dropped without write-back. -/
def dropLines (f : Nat → L2Line → Bool) (s : State) : State :=
  { s with cache := { s.cache with lines := s.cache.lines.filter fun (k, v) => !(v.valid && f (k / 8192) v) } }

/-- Lines written back and dropped (R236). -/
def flushLines (f : Nat → L2Line → Bool) (s : State) : State :=
  dropLines f ((linesWhere s f).foldl (fun s (k, v) => writeBack (k / 8192) v s) s)

/-- Every dirty line written back, kept clean (R258). -/
def cleanLines (s : State) : State :=
  let s := s.cache.lines.foldl (fun s (k, v) => if v.valid then writeBack (k / 8192) v s else s) s
  { s with cache := { s.cache with lines := s.cache.lines.map fun (k, v) =>
                        (k, { v with secs := v.secs.map fun c => { c with dirty := false } }) } }

/-! ### Fills and counts -/

/-- A line as its slice holds it, or an empty one. -/
def presentLine (s : State) (slice l : Nat) : L2Line :=
  match findWay s slice l with | some w => l2Line s slice (l % 512) w | none => { valid := true, index := l }

/-- The sectors that a fill of the line reads: those that the slice does not hold whole (R256). -/
def L2Line.missing (v : L2Line) : Nat := v.sectors.zipIdx.foldl (fun n (c, i) => n + if c.whole then 0 else 2 ^ i) 0

/-- The line filled with what its tier has sent. -/
def L2Line.filled (v : L2Line) (r : LineRead) : L2Line :=
  { v with secs := v.sectors.zipIdx.map fun (c, i) =>
      if bitB v.missing i then c.fill ⟨slice r.data (32 * i) 32, bitB r.poison i, bitB r.dead i⟩ else c }

/-- A line filled from its tier. -/
def fillLine (slice l a : Nat) (s : State) : State × L2Line :=
  let v := presentLine s slice l
  let r := crossRead (.stack slice l) a v.missing [] [] s
  (r.1, v.filled r.2)

/-- THRASH counts of an access to a line that is not pinned (R269). -/
def thrashCount (slice : Nat) (pinned miss : Bool) (s : State) : State :=
  if pinned then s
  else { s with cache := { s.cache with thrash := Tab.upd {} s.cache.thrash slice fun t =>
                             { t with acc := t.acc + 1, miss := t.miss + if miss then 1 else 0 } } }

/-- An access counted at its slice before it is served; `slot` is its counter of Table 18.11. -/
def countAccess (slice l slot : Nat) (s : State) : State :=
  let w := findWay s slice l
  let pinned := match w with | some w => (l2Line s slice (l % 512) w).pinned | none => false
  tally 2 slice slot 1 (thrashCount slice pinned w.isNone s)

/-! ### Requests held at a slice (R259) -/

/-- A request refused at the slice (R203, R237): its error completion. -/
def sliceRefuse (req : Requester) (a : Nat) (acc : Access) (s : State) : State :=
  let s := homeReply req (locate s a).home 1 (refusedAccess req a s acc)
  { s with out := s.out ++ [.lineError req] }

/-- The line's data returned to a requester. -/
def giveLine (req : Requester) (home : Endpoint) (a : Nat) (r : LineRead) (s : State) : State :=
  let s := homeReply req home 2 { s with out := s.out ++ [.lineData req r.data r.poison r.dead] }
  deadReads req a r.dead s

/-- A requester's access acknowledged. -/
def giveAck (req : Requester) (home : Endpoint) (s : State) : State :=
  homeReply req home 1 { s with out := s.out ++ [.lineAck req] }

/-- A held request served against a line that is present whole. -/
def serveMiss (slice a : Nat) (q : MissReq) (acc : State × L2Line) : State × L2Line :=
  let s := acc.1
  let v := acc.2
  match q with
  | .read req _ => (giveLine req (.slice slice) a (v.read s.obj.deadFill) s, v)
  | .write req data =>
    (notePlain a (giveAck req (.slice slice) s), v.write s.obj.deadFill data 0)
  | .post _ data stamps => (notePlain a s, v.write s.obj.deadFill data stamps)
  | .add req code mask data =>
    addAt a code mask data
      (tally 2 slice (if code = 5 then 5 else 4) 1 (giveAck req (.slice slice) s), v)

/-- A held request allocates the line. -/
def MissReq.allocates : MissReq → Bool
  | .read _ alloc => alloc
  | _ => true

/-- A line has a miss entry; some request for it waits at the slice; the table has no room for another line. -/
def hasEntry (s : State) (slice l : Nat) : Bool := s.cache.misses.any fun m => m.slice == slice && m.index == l
def hasLate (s : State) (slice l : Nat) : Bool := s.cache.late.any fun m => m.slice == slice && m.index == l
def tableFull (s : State) (slice : Nat) : Bool := decide (64 ≤ (s.cache.misses.filter fun m => m.slice == slice).length)

/-- A request that waits at the slice. -/
def waitLate (slice l : Nat) (q : MissReq) (s : State) : State :=
  { s with cache := { s.cache with late := s.cache.late ++ [⟨slice, l, [q]⟩] } }

/-- A request put in the slice's miss table, or among the waiting ones (R259). -/
def joinMiss (slice l : Nat) (q : MissReq) (s : State) : State :=
  match s.cache.misses.find? fun m => m.slice == slice && m.index == l with
  | some m =>
    if m.reqs.length < 16 then
      tally 2 slice 2 1 { s with cache := { s.cache with misses := s.cache.misses.map fun m =>
                                    if m.slice == slice && m.index == l then { m with reqs := m.reqs ++ [q] } else m } }
    else waitLate slice l q s
  | none =>
    if tableFull s slice then tally 2 slice 10 1 (waitLate slice l q s)
    else { s with cache := { s.cache with misses := s.cache.misses ++ [⟨slice, l, [q]⟩] } }

/-- The counter slot of a request at its slice (Table 18.11). -/
def MissReq.slot : MissReq → Bool → Option Nat
  | .read _ true, hit => some (if hit then 0 else 1)
  | .read _ false, _ => some 7
  | .write _ _, _ | .post _ _ _, _ => some 3
  | .add _ _ _ _, _ => none

/-- A request at the slice of a line that is lost: poison for a read, an acknowledgement for what is discarded (R177,
R181). -/
def answerLost (p : Place) (q : MissReq) (s : State) : State :=
  let s := lostAccess p s
  match q with
  | .read req _ => giveLine req p.home 0 poisonLine s
  | .write req _ | .add req _ _ _ => giveAck req p.home s
  | .post _ _ _ => s

/-- A request that has arrived at its slice, in order behind the requests for its line that wait there (R255, R256, R259,
R261): served from the line when it is present (a write needs no fill), else held in a miss entry. -/
def enterMiss (slice l a : Nat) (q : MissReq) (s : State) : State :=
  let set := l % 512
  if placeLost s (.stack slice l) then answerLost (.stack slice l) q s
  else if hasLate s slice l then waitLate slice l q s
  else if hasEntry s slice l then joinMiss slice l q s
  else match findWay s slice l, q with
    | some w, q =>
      let v := l2Line s slice set w
      let ready := v.sectors.all Sector.whole || (match q with | .write _ _ => true | _ => false)
      if ready then
        let s := match q.slot true with | some k => tally 2 slice k 1 s | none => s
        let r := serveMiss slice a q (s, v)
        touch slice set w (setLine slice set w r.2 r.1)
      else
        joinMiss slice l q (match q.slot false with | some k => tally 2 slice k 1 s | none => s)
    | none, .write req data =>
      let v : L2Line := ({ valid := true, index := l } : L2Line).write s.obj.deadFill data 0
      allocate slice l v (tally 2 slice 3 1 (notePlain a (giveAck req (.slice slice) s)))
    | none, q => joinMiss slice l q (match q.slot false with | some k => tally 2 slice k 1 s | none => s)

/-- A request at its home slice: counted once, at its arrival (R269), then admitted. -/
def sliceRequest (slice l a : Nat) (q : MissReq) (s : State) : State :=
  let s := askHome q.who.1 (.slice slice) (if q.who.2 then 1 else 2) s
  if placeLost s (.stack slice l) then answerLost (.stack slice l) q s
  else
    let w := findWay s slice l
    let pinned := match w with | some w => (l2Line s slice (l % 512) w).pinned | none => false
    enterMiss slice l a q (thrashCount slice pinned w.isNone s)

/-- Waiting requests of a slice admitted after a fill, in order. -/
def retryLate (slice : Nat) (s : State) : State :=
  let mine := s.cache.late.filter fun m => m.slice == slice
  let s := { s with cache := { s.cache with late := s.cache.late.filter fun m => !(m.slice == slice) } }
  mine.foldl (fun s m => m.reqs.foldl (fun s q => enterMiss slice m.index ((lineOf s slice m.index).getD 0) q s) s) s

/-- A miss entry filled: its held requests applied in arrival order, then those that waited for the line, which are served
from it; the line is allocated when some request allocates (R259). -/
def completeEntry (slice l : Nat) (r : LineRead) (s : State) : State :=
  let of (m : Miss) : Bool := m.slice == slice && m.index == l
  let reqs := ((s.cache.misses.filter of).map (·.reqs)).flatten ++ ((s.cache.late.filter of).map (·.reqs)).flatten
  let a := (lineOf s slice l).getD 0
  let s := { s with cache := { s.cache with
    misses := s.cache.misses.filter fun m => !of m, late := s.cache.late.filter fun m => !of m } }
  if placeLost s (.stack slice l) then
    retryLate slice (reqs.foldl (fun s q => answerLost (.stack slice l) q s) s)
  else
    let r := reqs.foldl (fun acc q => serveMiss slice a q acc) (s, (presentLine s slice l).filled r)
    let keep := reqs.any MissReq.allocates || (findWay s slice l).isSome
    retryLate slice (if keep then allocate slice l r.2 r.1 else r.1)

/-- Requests for a line that came before an access of a larger command are served before it (R255): its miss entry is
filled; where it waits for a full table, so does the access. -/
def serveEarlier (slice l : Nat) (s : State) : State :=
  if hasEntry s slice l then
    let a := (lineOf s slice l).getD 0
    let r := crossRead (.stack slice l) a (presentLine s slice l).missing [] [] s
    completeEntry slice l r.2 (tally 2 slice 2 1 r.1)
  else if hasLate s slice l then { s with waits := true }
  else s

/-- A read or an add-to-line that needs a fill waits while the slice's table is full. -/
def needEntry (slice : Nat) (s : State) : State := if tableFull s slice then { s with waits := true } else s

/-! ### The home as larger commands meet it -/

/-- Requesters whose accesses allocate in the slice (Table 9.2); the others take a line where it is. -/
def allocates : Requester → Bool
  | .tile _ | .operand _ | .output _ | .walker _ | .host | .port _ => true
  | .stationary _ | .frame _ | .awl _ | .module => false

/-- What a line of a slice holds of some sectors, all of them whole. -/
def holdsWhole (v : L2Line) (sectors : Nat) : Bool := v.sectors.zipIdx.all fun (c, i) => !bitB sectors i || c.whole

/-- A read at a home slice (R251, R255, R256): the line as the slice holds it, filled where the read needs more. -/
def sliceRead (req : Requester) (t l a sectors : Nat) (s : State) : State × LineRead :=
  let fill := s.obj.deadFill
  let hit := holdsWhole (presentLine s t l) sectors
  let s := serveEarlier t l (countAccess t l (if allocates req then (if hit then 0 else 1) else 7) s)
  let v := presentLine s t l
  match findWay s t l with
  | some w =>
    if holdsWhole v sectors then (touch t (l % 512) w s, v.read fill)
    else
      let f := fillLine t l a (needEntry t s)
      (touch t (l % 512) w (setLine t (l % 512) w f.2 f.1), f.2.read fill)
  | none =>
    let f := fillLine t l a (needEntry t s)
    (if allocates req then allocate t l f.2 f.1 else f.1, f.2.read fill)

/-- A read of a line at its home, whichever it is: the request and the line cross the welts and the mesh. -/
def viewLine (req : Requester) (a sectors : Nat) (s : State) : State × LineRead :=
  let home := (locate s a).home
  let s := homeReply req home 2 (askHome req home 1 s)
  match locate s a with
  | .hole => (s, poisonLine)
  | .side i off => crossRead (.side i off) a sectors [] [] s
  | .stack t l =>
    if placeLost s (.stack t l) then (lostAccess (.stack t l) s, poisonLine) else sliceRead req t l a sectors s

/-- A read at the home of the line that holds an address, which the events name: refused accesses report and return nothing
(R203, R237); dead sectors report (R273). -/
def homeRead (req : Requester) (a sectors : Nat) (s : State) : State × Access × LineRead :=
  match accessOf s a with
  | .ok =>
    let r := viewLine req (a / 128 * 128) sectors s
    (deadReads req a ((List.range 4).foldl (fun n i => n + if bitB r.2.dead i && bitB sectors i then 2 ^ i else 0) 0) r.1,
      .ok, r.2)
  | acc => (refusedAccess req a (homeReply req (locate s a).home 1 (askHome req (locate s a).home 1 s)) acc, acc, poisonLine)

/-- A write at a home slice (R256): behind the requests for its line that wait there (R255); else into the line where the
slice holds it; else it allocates without a fill, or goes to the tier for a requester that allocates nothing. -/
def sliceWrite (req : Requester) (t l a : Nat) (data : List (Option Byte)) (stamps : Nat) (s : State) : State :=
  let fill := s.obj.deadFill
  let w := findWay s t l
  let s := countAccess t l 3 s
  if (hasLate s t l || hasEntry s t l) && !mayIssue s req then { s with waits := true }
  else if hasLate s t l then waitLate t l (.post req data stamps) s
  else if hasEntry s t l then joinMiss t l (.post req data stamps) s
  else
  let s := notePlain a s
  match w with
  | some w => touch t (l % 512) w (setLine t (l % 512) w ((l2Line s t (l % 512) w).write fill data stamps) s)
  | none =>
    if allocates req then allocate t l (({ valid := true, index := l } : L2Line).write fill data stamps) s
    else crossWrite req (.stack t l) a data stamps s

/-- A write at the home of the line that holds an address, `stamps` naming sectors that are written as poison. -/
def homeWrite (req : Requester) (addr : Nat) (data : List (Option Byte)) (stamps : Nat) (s : State) : State × Access :=
  let a := addr / 128 * 128
  let home := (locate s addr).home
  let s := homeReply req home 1 (askHome req home 2 s)
  match accessOf s addr with
  | .ok =>
    match locate s a with
    | .stack t l =>
      (if placeLost s (.stack t l) then lostAccess (.stack t l) s else sliceWrite req t l a data stamps s, .ok)
    | p => (crossWrite req p a data stamps (notePlain a s), .ok)
  | acc => (refusedAccess req addr s acc, acc)

/-- An add-to-line at a side-stack controller: the line is read, combined and written (R209), its read decoded like any
other (R211). -/
def sideAdd (i off a code mask : Nat) (operand : Bytes) (errs again : List CellError) (s : State) : State :=
  let p := Place.side i off
  if placeLost s p then lostAccess p s
  else
    let r := readLine p a 15 errs again s
    let v : L2Line := { valid := true, secs := (List.range 4).map fun i =>
      { data := slice r.2.data (32 * i) 32, mask := fullMask, poison := bitB r.2.poison i } }
    let q := addAt a code mask operand (tally 7 i 2 1 r.1, v)
    let data := (q.2.sectors.map fun c => if c.dirty then c.data.map some else List.replicate 32 none).flatten
    writeLine p a data 0 [] q.1

/-- An add-to-line at the home (R261, R264): an absent line is filled and allocated. -/
def homeAdd (req : Requester) (a code mask : Nat) (operand : Bytes) (s : State) : State × Access :=
  let home := (locate s a).home
  let s := homeReply req home 1 (askHome req home 2 s)
  match accessOf s a with
  | .ok =>
    match locate s a with
    | .stack t l =>
      if placeLost s (.stack t l) then (lostAccess (.stack t l) s, .ok)
      else
        let s := serveEarlier t l (countAccess t l (if code = 5 then 5 else 4) s)
        let f := fillLine t l a (if holdsWhole (presentLine s t l) 15 then s else needEntry t s)
        let q := addAt a code mask operand f
        (allocate t l q.2 q.1, .ok)
    | .side i off =>
      (if !placeLost s (.side i off) && placeWaits s (.side i off) then { s with waits := true }
        else sideAdd i off a code mask operand [] [] s, .ok)
    | .hole => (s, .ok)
  | acc => (refusedAccess req a s acc, acc)

/-! ### Ranges of bytes -/

/-- Lines that a byte range touches. -/
def lineRange (a n : Nat) : List Nat :=
  if n = 0 then [] else (List.range ((a + n - 1) / 128 - a / 128 + 1)).map fun i => (a / 128 + i) * 128

/-- The sectors of a line that a byte range touches. -/
def sectorMask (line a n : Nat) : Nat :=
  (List.range 4).foldl (fun m i => m + if line + 32 * i < a + n ∧ a < line + 32 * i + 32 then 2 ^ i else 0) 0

/-- Bytes read at their homes. -/
structure RangeRead where
  data   : Bytes
  poison : Bool := false          -- some sector of the range is poison
  access : Access := .ok          -- the first refused access
  badAt  : Nat := 0               -- its line
  deriving DecidableEq, Repr

/-- A range of bytes read line by line, up to the first refusal. -/
def readRange (req : Requester) (a n : Nat) (s : State) : State × RangeRead :=
  (lineRange a n).foldl (fun (acc : State × RangeRead) line =>
    if acc.2.access ≠ .ok then acc
    else
      let m := sectorMask line a n
      let r := homeRead req (max a line) m acc.1
      let lo := if line < a then a - line else 0
      let hi := min 128 (a + n - line)
      if r.2.1 = .ok then
        (r.1, { acc.2 with data := acc.2.data ++ slice r.2.2.data lo (hi - lo)
                           poison := acc.2.poison || r.2.2.poison % 16 &&& m != 0 })
      else (r.1, { acc.2 with access := r.2.1, badAt := line })) (s, { data := [] })

/-- The part of a byte list that falls in a line, as a masked line write. -/
def linePart (line a : Nat) (bs : List (Option Byte)) : List (Option Byte) :=
  (List.range 128).map fun i => if line + i < a then none else (bs[line + i - a]?).getD none

/-- A range of bytes written line by line at their homes; `poison` stamps every sector touched. The first refusal is
answered; lines before it stay written. -/
def writeRange (req : Requester) (a : Nat) (bs : List (Option Byte)) (poison : Bool) (s : State) : State × Access :=
  (lineRange a bs.length).foldl (fun (acc : State × Access) line =>
    let d := linePart line a bs
    if d.all Option.isNone then acc
    else
      let stamps := if poison then
          (List.range 4).foldl (fun n i => n + if ((d.drop (32 * i)).take 32).any Option.isSome then 2 ^ i else 0) 0
        else 0
      let r := homeWrite req (max a line) d stamps acc.1
      (r.1, if acc.2 = .ok then r.2 else acc.2)) (s, .ok)

/-- Bytes written by the Cobbler or another agent of the module (Table 18.3: named as the module). -/
def storeBytes (a : Nat) (bs : Bytes) (s : State) : State := (writeRange .module a (bs.map some) false s).1

/-! ### The slice's own commands -/

/-- A stack request with its refusals (R203, R237); a side-stack line has no slice (R209). -/
def slicePath (req : Requester) (a : Nat) (q : MissReq) (s : State) : State :=
  match locate s a, accessOf s a with
  | .stack t l, .ok => sliceRequest t l (a / 128 * 128) q s
  | .side _ _, _ => s
  | _, acc => sliceRefuse req a acc s

/-- Such a request issued, unless its tile has reached its limit. -/
def l2Row (req : Requester) (a : Nat) (q : MissReq) (s : State) : State :=
  if mayIssue s req then slicePath req a q s else s

/-- L2_READ. -/
def execL2Read (req : Requester) (a : Nat) (s : State) : Host.Outcome State Fault Refusal :=
  .next (l2Row req a (.read req true) s)

/-- STREAMING_READ: no allocation (R251). -/
def execStreamingRead (req : Requester) (a : Nat) (s : State) : Host.Outcome State Fault Refusal :=
  .next (l2Row req a (.read req false) s)

/-- L2_WRITE: the bytes of one line from its start. -/
def execL2Write (req : Requester) (a : Nat) (data : List (Option Byte)) (s : State) : Host.Outcome State Fault Refusal :=
  .next (l2Row req a (.write req data) s)

/-! ### THRASH (R269) -/

/-- One slice's window compared with the threshold. -/
def thrashSlice (slice : Nat) (s : State) : State :=
  let t := Tab.get {} s.cache.thrash slice
  let above := decide (s.cache.pctUse * t.acc < 100 * t.miss)
  let log := above && s.cache.pctUse != 0 && decide (4096 ≤ t.acc) && !t.logged
  let t' : Thrash := { logged := if above then t.logged || log else false }
  let s := { s with cache := { s.cache with thrash := Tab.set {} s.cache.thrash slice t' } }
  if log then logEvent 0x0601 (0x3000 + slice) (fld t.miss 0 32 + fld t.acc 32 32) s else s

/-- THRASH_WINDOW: every slice's window ends, and a write of L2_CFG takes effect (R274). -/
def execThrashWindow (s : State) : Host.Outcome State Fault Refusal :=
  let s := (s.cache.thrash.map (·.1)).foldl (fun s k => thrashSlice k s) s
  .next { s with cache := { s.cache with pctUse := s.cache.pct, msUse := s.cache.ms } }

end Sys2Proof.Machine
end

