-- ==== Sys2Proof/Machine/Flags.lean ====
section
/-! DEFINITION. The status registers as bits: each direct register's value computed from the state it shows
(Tables 2.3, 2.8, 3.6, 6.10, 6.12, 6.13, 7.5, 7.6a, 9.9, 10.10, 11.11, 13.5, 13.7 to 13.10). -/

namespace Sys2Proof.Machine

/-- TIER_STAT (Table 6.10). -/
def tierStat (s : State) (i : Nat) : Nat :=
  let d := tierOf s i
  fld d.band 0 2 + fld (b2n d.forced) 2 1 + fld (b2n d.failed) 3 1 + fld d.postMax 4 3

/-- SHANK_STAT (Table 6.13); mode and groups show once the shank has trained. -/
def shankStat (s : State) (t : Nat) : Nat :=
  let k := shankOf s t
  (if k.valid then fld k.mode 0 2 + fld (b2n k.spareUsed) 2 1 + fld (b2n k.guard) 3 1 + fld k.healthy 4 5 else 0)
    + fld k.remaps.length 9 4 + fld k.bucket 13 7 + fld (b2n k.overflow) 20 1 + fld (b2n k.runtime) 21 1
    + fld (b2n k.valid) 31 1

/-- SIDE_STAT (Table 7.5). -/
def sideStat (s : State) (i : Nat) : Nat :=
  let k := sideOf s i
  fld k.state 0 2 + fld (b2n k.ledger) 2 1 + fld k.remaps.length 3 5 + fld k.bucket 8 7 + fld (b2n k.overflow) 15 1
    + fld k.limit 16 7 + fld (b2n k.runtime) 23 1 + fld (b2n k.valid) 31 1

/-- MEM_ECC_CFG (Table 6.12). -/
def memEccCfg (s : State) : Nat := fld s.stack.leakS 0 16 + fld (b2n s.stack.scrubEn) 16 1 + fld s.stack.scrubH 32 8

/-- BAR2_WIN (Table 7.6a). -/
def bar2Win (s : State) : Nat :=
  let w := s.pcie.win
  fld (b2n w.enable) 0 1 + fld (b2n w.remote) 1 1 + fld w.dev 2 6 + fld w.base 30 18 + fld (20 + s.pcie.bar2Code) 48 6

/-- PORT_STAT (Table 11.11). -/
def portStat (s : State) (p : Nat) : Nat :=
  let t := port s p
  fld t.state 0 3 + fld (b2n t.cable) 3 1 + fld (b2n t.resumed) 4 1 + fld t.partPort 5 5
    + fld (t.buckets.foldl (· + ·) 0) 16 16 + fld t.retrains 32 8 + fld t.quars 40 8 + fld t.holdLog 48 4
    + fld t.lastViol 56 8 + fld t.crcErrs 64 16 + fld t.fecUnc 80 16 + fld t.replays 96 16 + fld t.symErr 112 16

/-- Lines pinned in each set of each slice, the largest count (Table 9.9); a pin counts the ways it reserves. -/
def pinnedInSet (s : State) (set : Nat) : Nat :=
  (s.obj.pins.map fun (_, p) => match p with
    | some (base, len) =>
      let w := stackW s
      let b0 := base / (w * 128)
      let n := len / (w * 128)
      n / 512 + (if (set + 512 - b0 % 512) % 512 < n % 512 then 1 else 0)
    | none => 0).foldl (· + ·) 0

/-- L2_CFG.PINNED_MAX. -/
def pinnedMax (s : State) : Nat := if s.obj.pins.isEmpty then 0 else ((List.range 512).map (pinnedInSet s)).foldl max 0

/-- Working-set ways declared by the enabled tasks and the tasks of enabled classes, the largest (R267). -/
def workingWays (s : State) : Nat :=
  let bound (i : Nat) : Bool := s.obj.classes.any fun (_, c) => match c with
    | some c => c.enabled && c.task == i
    | none => false
  (s.obj.tasks.map fun (i, t) => match t with | some t => if t.enabled || bound i then t.ways else 0 | none => 0).foldl max 0

/-- The pin budget (R267). -/
def pinBudget (s : State) : Nat := min 12 (16 - workingWays s)

/-- L2_CFG (Table 9.9). -/
def l2Cfg (s : State) : Nat :=
  fld s.cache.pct 0 7 + fld s.cache.ms 8 10 + fld (pinBudget s) 32 4 + fld (pinnedMax s) 36 4
    + fld s.obj.deadFill 40 2 + fld s.obj.pins.length 42 7

/-- PTM_CTL (Table 13.9). -/
def ptmCtl (s : State) : Nat := fld s.pcie.ptm.interval 0 16 + fld (b2n s.pcie.ptm.align) 16 1

/-- PTM_STAT (Table 13.10). -/
def ptmStat (s : State) : Nat :=
  let t := s.pcie.ptm
  fld t.loc 0 64 + fld t.master 64 64 + fld t.delay 128 32 + fld t.count 160 32 + fld (ofSigned 16 t.rate) 192 16
    + fld (b2n t.valid) 208 1

/-- MSIX_MOD (Table 13.7). -/
def msixMod (s : State) (v : Nat) : Nat :=
  let m := Tab.get {} s.pcie.mods v
  fld m.holdoff 0 16 + fld m.count 16 8

/-! ### Temperatures, rails, pace -/

/-- A temperature in thousandths of a degree as a field shows it: whole degrees, rounded down, unsigned (R427). -/
def degC (t : Int) : Nat := min 255 (t / 1000).toNat

/-- The highest of a list of temperatures. -/
def hottest : List Int → Int
  | [] => 0
  | [t] => t
  | t :: ts => max t (hottest ts)

/-- Temperature of a group: hot spots 0-31, tiers 32-39, side stacks 40-51. -/
def groupTemp (s : State) (g : Nat) : Int := Tab.get 0 s.thermal.temp g

/-- Domain temperatures: base die, tiers, side stacks (R427). -/
def tempBase (s : State) : Int := hottest ((List.range 32).map fun h => groupTemp s h)
def tempTier (s : State) : Int := hottest ((List.range 8).map fun i => groupTemp s (32 + i))
def tempSide (s : State) : Int := hottest ((List.range 12).map fun i => groupTemp s (40 + i))

/-- Temperature of a timing domain: a cluster takes the higher of its two hot spots. -/
def domainTemp (s : State) (n : Nat) : Int :=
  if n < 16 then max (groupTemp s (2 * n)) (groupTemp s (2 * n + 1)) else groupTemp s (16 + n)

/-- Targets of an operating point (Table 2.6), in mV. -/
def coreTarget (point : Nat) : Nat := match point with | 0 => 750 | 1 => 780 | 2 => 650 | _ => 600
def tierTarget (point : Nat) : Nat := match point with | 0 => 1050 | 1 => 1100 | 2 => 1050 | _ => 950

/-- Rail voltage of a timing domain, in mV. -/
def railOf (s : State) (n : Nat) : Nat :=
  if n < 16 then Tab.get 0 s.pace.vcore n
  else if n < 24 then Tab.get 0 s.pace.vtier (n - 16)
  else if s.power.coreRails then 750 else 0

/-- Target of a timing domain's rail; none for a fixed rail. -/
def railTarget (s : State) (n : Nat) : Option Nat :=
  if n < 16 then some (coreTarget s.pace.point) else if n < 24 then some (tierTarget s.pace.point) else none

/-- Floor of a timing domain's rail (Table 2.6). -/
def railFloor (n : Nat) : Option Nat := if n < 16 then some 600 else if n < 24 then some 950 else none

/-- A pace monitor's record. -/
def monOf (s : State) (n : Nat) : PaceMon := Tab.get {} s.pace.mons n

/-- A governor sets the rail: not that of a failed tier, which no governor holds (R181). -/
def governed (s : State) (n : Nat) : Bool := !(16 ≤ n && n < 24 && (tierOf s (n - 16)).failed)

/-- PACE_MON (Table 2.3); the pace reads 0 while the rail is off. -/
def paceMon (s : State) (n : Nat) : Nat :=
  let m := monOf s n
  let v := railOf s n
  fld (if v = 0 then 0 else m.pace) 0 16 + fld (m.paceMin.getD 0) 16 16 + fld v 32 12 + fld (degC (domainTemp s n)) 44 8
    + fld (b2n (v != 0 && railFloor n == some v)) 52 1
    + fld (b2n (v != 0 && governed s n && match railTarget s n with | some t => decide (v < t) | none => false)) 53 1
    + fld (b2n m.valid) 63 1

/-- The array pace: the lowest pace of the 16 clusters (R49). -/
def arrayPace (s : State) : Nat :=
  ((List.range 16).map fun c => if railOf s c = 0 then 0 else (monOf s c).pace).foldl min 0xFFFF

/-- A change of the mode waits or is in progress. -/
def modePending (s : State) : Bool := s.pace.pendPoint.isSome || s.pace.pendNet.isSome || s.pace.pendRed.isSome

/-- PACE_CTL (Table 2.8). -/
def paceCtl (s : State) : Nat :=
  let k := s.pace
  fld (k.showing.getD k.point) 0 2 + fld (b2n k.net) 2 1 + fld (b2n k.red) 3 1 + fld (b2n (modePending s)) 4 1 + fld k.actLevel 8 3
    + fld (b2n k.ballast) 11 1 + fld (b2n k.emerg) 12 1 + fld k.allow 16 16 + fld k.power 32 16
    + fld (arrayPace s) 48 16

/-! ### Objects -/

/-- PERIODIC_STAT (Table 10.6). -/
def periodicStat (s : State) (i : Nat) : Nat :=
  let k := Tab.get {} s.obj.pstat i
  let c := Tab.get none s.obj.classes i
  fld k.instances 0 32 + fld k.overruns 32 16 + fld k.lateRel 48 16 + fld k.lateNow 64 24 + fld k.lateMax 88 24
    + fld (b2n ((c.map (·.enabled)).getD false)) 112 1 + fld (b2n ((c.map (·.cur.isSome)).getD false)) 113 1

/-- TILE_STAT (Table 3.6). -/
def tileStat (s : State) (t : Nat) : Nat :=
  let k := Tab.get {} s.tiles.stat t
  fld k.width 0 8 + fld (b2n k.excluded) 8 1 + fld (b2n k.new) 9 1 + fld (b2n k.runtime) 10 1

/-- Work that R399 calls RUNNING: accepted and not completed, or an enabled class. -/
def atWork (s : State) : Bool :=
  !s.sched.subs.isEmpty || !s.sched.running.isEmpty
    || s.obj.classes.any fun (_, c) => match c with | some c => c.enabled || c.cur.isSome | none => false

/-- Task submissions accepted and not completed (R394). -/
def submissions (s : State) : Nat := (s.sched.subs.filter fun u => u.kind == 1).length

/-- The device state (R399) coded as SMB.STATE (Table 14.12), which agrees with IDENT.STATE. -/
def moduleState (s : State) : Nat :=
  match s.power.phase with
  | .off => 0
  | .latched => 6
  | .bringup _ => 1
  | .up => if s.thermal.hold then 5 else if s.fw.step ≠ 0 then 4 else if atWork s then 3 else 2

/-- The bring-up stage, 0 outside bring-up. -/
def stageNow (s : State) : Nat := match s.power.phase with | .bringup n => n | _ => 0

/-! ### Firmware versions -/

/-- The bytes of an image. -/
def Image.data : Image → Bytes
  | .empty => []
  | .factory => Config.factoryImage
  | .bytes bs => bs

/-- Version carried by an image (Table 17.3). -/
def Image.version (i : Image) : Nat := field i.data 8 4

/-- The image of a slot: 0 A, 1 B. -/
def Firmware.slot (f : Firmware) (n : Nat) : Image := if n = 0 then f.slotA else f.slotB

/-- IDENT.FW_ACTIVE. -/
def fwActive (s : State) : Nat := (s.fw.slot s.fw.running).version

/-! ### The blocks of BAR0 -/

/-- "MW-TS3160-L1" in ASCII. -/
def orderCode : Bytes := [0x4D, 0x57, 0x2D, 0x54, 0x53, 0x33, 0x31, 0x36, 0x30, 0x2D, 0x4C, 0x31, 0, 0, 0, 0]

/-- The identity and status block (Table 13.5), 64 bytes. -/
def identBlock (s : State) : Bytes :=
  orderCode ++ natLE 48 (
    fld 1 0 8 + fld 1 8 8 + fld serialNumber 64 64 + fld (fwActive s) 128 32 + fld Config.romVersion.toNat 160 32
      + fld s.bring.resetGen 192 32 + fld (moduleState s) 224 4 + fld (stageNow s) 228 3
      + fld (b2n s.ev.degraded) 231 1 + fld s.pod.eff.device 232 6 + fld s.bring.lastReset 240 3
      + fld (now s) 256 64)

/-- A stage report (Table 15.2), 64 bytes. -/
def stageReport (s : State) (n : Nat) : Bytes :=
  let r := Tab.get {} s.bring.reports n
  natLE 64 (fld n 0 8 + fld r.result 8 8 + fld r.cause 16 16 + fld r.us 32 32 + fld r.waitMs 64 32 + fld r.resetGen 96 32
    + fld r.added 128 16 + fld r.retested 144 16 + fld r.confirmed 160 16 + fld r.excluded 176 16 + fld r.reduced 192 16
    + fld r.ledger 208 16 + fld r.detail 256 64)

/-- A base-die Warning; a tier or side-stack Warning. -/
def warnBase (s : State) : Bool := s.thermal.warn.any fun (g, b) => b && decide (g < 32)
def warnMem (s : State) : Bool := s.thermal.warn.any fun (g, b) => b && decide (32 ≤ g)

/-- A coolant Warning is active (R444, R445). -/
def coolantWarn (s : State) : Bool := s.coolant.warning || s.coolant.sticky

/-- The awls go on once neither THERMAL_HOLD nor a safety ramp-down holds (R247): the next one pauses each at a yield point of
its own. -/
def wakeAwls (s : State) : State :=
  if s.thermal.hold || s.pace.emerg then s
  else { s with awls := { s.awls with awl := s.awls.awl.map fun (a, w) => (a, { w with paused := false }) } }

/-- Any thermal or coolant Warning is active (SMB.WARN). -/
def anyWarn (s : State) : Bool := warnBase s || warnMem s || coolantWarn s

/-- SUM.THERMAL_FLAGS (Table 14.11). -/
def thermalFlags (s : State) : Nat :=
  fld (b2n (warnBase s)) 0 1 + fld (b2n (warnMem s)) 1 1 + fld (b2n (coolantWarn s)) 2 1 + fld (b2n s.coolant.loss) 3 1
    + fld (b2n (s.thermal.flagged.any fun (_, b) => b)) 4 1 + fld (b2n (s.thermal.suspect.any fun (_, b) => b)) 5 1
    + fld (b2n s.pace.emerg) 6 1

/-- Envelopes and idle powers of the operating points (Tables 2.6 and 2.11), in W. -/
def envelope (point : Nat) : Nat := match point with | 0 => 3600 | 1 => 3600 | 2 => 2400 | _ => 1200
def idlePower (point : Nat) : Nat := match point with | 0 => 700 | 1 => 740 | 2 => 650 | _ => 420

/-- EMERG.LEVEL (Table 16.9). -/
def emergLevel (s : State) : Nat :=
  if s.thermal.hold then 3
  else if !s.thermal.acts.isEmpty || s.pace.emerg || (s.coolant.capOn && decide (s.coolant.capW < envelope s.pace.point))
  then 2
  else if anyWarn s then 1 else 0

/-- Flow in units of 0.01 L/min. -/
def flowField (s : State) : Nat := s.coolant.flow / 10

/-- A mask of 32 bits. -/
def mask32 (n : Nat) (f : Nat → Bool) : Nat := (List.range n).foldl (fun m i => if f i then m + 2 ^ i else m) 0

/-- The emergency register (Table 16.9), 32 bytes. -/
def emergBlock (s : State) : Bytes :=
  natLE 32 (fld s.shut.cause 0 8 + fld (thermalFlags s) 8 8 + fld (emergLevel s) 16 2 + fld (b2n s.coolant.flowEst) 18 1
    + fld (b2n s.coolant.capOn) 19 1 + fld s.thermal.tts 32 32 + fld (degC (tempBase s)) 64 8 + fld (degC (tempTier s)) 72 8
    + fld (degC (tempSide s)) 80 8 + fld (degC s.coolant.inlet) 88 8 + fld (flowField s) 96 16 + fld s.coolant.pump 112 8
    + fld s.coolant.valve 120 8 + fld s.coolant.capW 128 16
    + fld (mask32 8 fun i => Tab.get false s.thermal.suspect i) 144 8
    + fld (mask32 32 fun h => Tab.get false s.thermal.flagged h) 160 32)

/-- A shutdown record (Table 16.10), 32 bytes. -/
def SdRec.bytes (r : SdRec) : Bytes :=
  let b := natLE 28 (fld 0x5344 0 16 + fld 2 16 8 + fld r.cause2040 24 8 + fld r.peak 32 8 + fld r.inlet 40 8
    + fld r.vin 48 16 + fld r.resetGen 64 32 + fld r.count 96 8 + fld r.cause 128 8 + fld r.unit 136 8 + fld r.flow 144 16
    + fld r.time 160 64)
  b ++ natLE 4 (crc32 b)

/-- One slot as BAR0 shows it: header and payload. -/
def slotBytes (c : Slot) : Bytes := c.header ++ getBytes c.payload 0 4032

/-- The MSI-X table entry of a vector, 16 bytes. -/
def MsixEntry.bytes (e : MsixEntry) : Bytes := natLE 4 e.addrLo ++ natLE 4 e.addrHi ++ natLE 4 e.data ++ natLE 4 (b2n e.mask)

/-- STATE, STAGE and DEGRADED as IDENT and SUMMARY show them. -/
def stateByte (s : State) : Nat := fld (moduleState s) 0 4 + fld (stageNow s) 4 3 + fld (b2n s.ev.degraded) 7 1

/-- A byte of the SUMMARY page: the last snapshot, in which the state stands as it is now (R399, R400; log 76). -/
def summaryByte (s : State) (i : Nat) : Byte := if i = 88 then BitVec.ofNat 8 (stateByte s) else s.tele.page.getD i 0

/-- The byte at an offset of BAR0 (Table 13.4); reserved offsets read 0 (R361). -/
def bar0Byte (s : State) (x : Nat) : Byte :=
  let reg (base w : Nat) (v : Nat → Nat) : Byte := BitVec.ofNat 8 (v ((x - base) / w) / 256 ^ ((x - base) % w))
  if x < 0x40 then (identBlock s).getD x 0
  else if 0x300 ≤ x ∧ x < 0x308 then reg 0x300 8 fun _ => paceCtl s
  else if 0x400 ≤ x ∧ x < 0x520 then reg 0x400 8 (paceMon s)
  else if 0x600 ≤ x ∧ x < 0x800 then reg 0x600 16 (periodicStat s)
  else if 0x800 ≤ x ∧ x < 0xA00 then reg 0x800 2 (tileStat s)
  else if 0xA00 ≤ x ∧ x < 0xE00 then reg 0xA00 4 (shankStat s)
  else if 0xE00 ≤ x ∧ x < 0xE20 then reg 0xE00 4 (tierStat s)
  else if 0xE40 ≤ x ∧ x < 0xE48 then reg 0xE40 8 fun _ => memEccCfg s
  else if 0xE80 ≤ x ∧ x < 0xEB0 then reg 0xE80 4 (sideStat s)
  else if 0xF00 ≤ x ∧ x < 0xF08 then reg 0xF00 8 fun _ => bar2Win s
  else if 0xF40 ≤ x ∧ x < 0xF48 then reg 0xF40 8 fun _ => l2Cfg s
  else if 0xF80 ≤ x ∧ x < 0xFA0 then reg 0xF80 32 fun _ => ptmStat s
  else if 0xFC0 ≤ x ∧ x < 0xFC8 then reg 0xFC0 8 fun _ => ptmCtl s
  else if 0x1000 ≤ x ∧ x < 0x1140 then (stageReport s ((x - 0x1000) / 64)).getD (x % 64) 0
  else if 0x2000 ≤ x ∧ x < 0x2200 then reg 0x2000 16 (portStat s)
  else if 0x10000 ≤ x ∧ x < 0x50000 then (slotBytes (Tab.get {} s.mail.slots ((x - 0x10000) / 4096))).getD (x % 4096) 0
  else if 0x80000 ≤ x ∧ x < 0x80800 then (Tab.get {} s.pcie.table ((x - 0x80000) / 16)).bytes.getD (x % 16) 0
  else if 0x80800 ≤ x ∧ x < 0x80810 then
    BitVec.ofNat 8 (mask32 8 fun i => Tab.get false s.pcie.pba (8 * (x - 0x80800) + i))
  else if 0x81000 ≤ x ∧ x < 0x81200 then reg 0x81000 4 (msixMod s)
  else if 0x100000 ≤ x ∧ x < 0x102000 then
    match Tab.get none s.ev.window ((x - 0x100000) / 32) with | some r => r.bytes.getD (x % 32) 0 | none => 0
  else if 0x200000 ≤ x ∧ x < 0x201000 then summaryByte s (x - 0x200000)
  else if 0x300000 ≤ x ∧ x < 0x300020 then (emergBlock s).getD (x % 32) 0
  else if 0x300100 ≤ x ∧ x < 0x300300 then
    match (s.shut.ring.filterMap id)[(x - 0x300100) / 32]? with | some r => r.bytes.getD (x % 32) 0 | none => 0
  else 0

/-- A read of BAR0 as its completion returns it (R361, R362). -/
def bar0Read (s : State) (x n : Nat) : Bytes := (List.range n).map fun i => bar0Byte s (x + i)

end Sys2Proof.Machine
end

