-- ==== Sys2Proof/Machine/Regs.lean ====
section
/-! DEFINITION. Reads of BAR0 that change state and every write to BAR0 (R361, R362): the direct registers, `PTM_CTL`,
`MSIX_MOD`, the MSI-X table and the mailbox slots. -/

namespace Sys2Proof.Machine

/-! ### How a host request is received -/

/-- The port takes requests: the link is up and stage 1 has ended (R375). -/
def hostHeard (s : State) : Bool :=
  s.pcie.link && match s.power.phase with | .bringup n => decide (2 ≤ n) | .up => true | _ => false

/-- The link is up before stage 1 has ended: configuration requests get Configuration Request Retry Status (R38, R375). -/
def configRetried (s : State) : Bool :=
  s.pcie.link && match s.power.phase with | .bringup n => decide (n ≤ 1) | _ => false

/-- A configuration write received: its effect `f`, or a completion with Configuration Request Retry Status. -/
def configWrite (f : State → State) (s : State) : Host.Outcome State Fault Refusal :=
  if configRetried s then .next { s with out := s.out ++ [.retry] }
  else if hostHeard s = false then idle s
  else .next (f s)

/-- The function serves memory requests: Memory Space Enable is 1 and the function is in D0 (Table 13.8, R360). -/
def memoryServed (s : State) : Bool := s.pcie.cfg.memSpace && !s.pcie.d3

/-- A read of BAR0 received: its completion, with the effect `f` when it is served; Unsupported Request when memory
requests are not served. -/
def hostRead (x n : Nat) (f : State → State) (s : State) : Host.Outcome State Fault Refusal :=
  if hostHeard s = false then idle s
  else if memoryServed s then .next (f { s with out := s.out ++ [.registerRead (bar0Read s x n)] })
  else .next (setAer aerUnsupported { s with out := s.out ++ [.completion .unsupported []] })

/-- A write to BAR0 received: the effect `f` when it is served. -/
def hostWriteRow (f : State → State) (s : State) : Host.Outcome State Fault Refusal :=
  if hostHeard s = false then idle s
  else if memoryServed s then .next (f s)
  else .next (setAer aerUnsupported s)

/-- A read of `n` bytes from `x` covers the bytes lo to hi of BAR0. -/
def covers (x n lo hi : Nat) : Bool := decide (x ≤ lo) && decide (hi < x + n)

/-! ### RC fields (R362) -/

/-- PACE_MIN of every monitor that a read covers whole (R51). -/
def clearPaceMin (x n : Nat) (s : State) : State :=
  let ms := (List.range 36).filter fun m => covers x n (0x402 + 8 * m) (0x403 + 8 * m)
  let read (m : Nat) : PaceMon := { Tab.get {} s.pace.mons m with paceMin := none }
  { s with pace := { s.pace with mons := Tab.setMany {} s.pace.mons ms read } }

/-- LATE_MAX_US of every class (R303). -/
def clearLateMax (x n : Nat) (s : State) : State :=
  let is := (List.range 32).filter fun i => covers x n (0x60B + 16 * i) (0x60D + 16 * i)
  let read (i : Nat) : PStat := { Tab.get {} s.obj.pstat i with lateMax := 0 }
  { s with obj := { s.obj with pstat := Tab.setMany {} s.obj.pstat is read } }

/-- POSTPONE_MAX of every tier (R186). -/
def clearPostMax (x n : Nat) (s : State) : State :=
  let is := (List.range 8).filter fun i => covers x n (0xE00 + 4 * i) (0xE00 + 4 * i)
  let read (i : Nat) : Tier := { tierOf s i with postMax := 0 }
  { s with stack := { s.stack with tiers := Tab.setMany {} s.stack.tiers is read } }

/-- CRC_ERRS, FEC_UNCORR and REPLAYS of every port, each where it is covered whole (R335). -/
def clearPortCounts (x n : Nat) (s : State) : State :=
  let whole (p k : Nat) : Bool := covers x n (0x2008 + 16 * p + 2 * k) (0x2009 + 16 * p + 2 * k)
  let ps := (List.range 32).filter fun p => (List.range 3).any (whole p)
  let read (p : Nat) : Port :=
    let t := port s p
    { t with
      crcErrs := if whole p 0 then 0 else t.crcErrs
      fecUnc := if whole p 1 then 0 else t.fecUnc
      replays := if whole p 2 then 0 else t.replays }
  { s with ports := Tab.setMany {} s.ports ps read }

/-- Every RC field that a read of BAR0 covers whole. -/
def readClears (x n : Nat) (s : State) : State := clearPortCounts x n (clearPostMax x n (clearLateMax x n (clearPaceMin x n s)))

/-- A read that begins in a register of `size` bytes at `base`, and may go on into what follows it. -/
def registerRow (base size off n : Nat) (s : State) : Host.Outcome State Fault Refusal :=
  if size ≤ off ∨ n = 0 ∨ 4096 < n then idle s else hostRead (base + off) n (readClears (base + off) n) s

/-! ### Reads that change state -/

/-- PACE_MON_READ: a read that begins in a pace monitor (R51). -/
def execPaceMonRead (n off size : Nat) (s : State) : Host.Outcome State Fault Refusal :=
  if 36 ≤ n then idle s else registerRow (0x400 + 8 * n) 8 off size s

/-- TIER_STAT_READ (R186). -/
def execTierStatRead (i off size : Nat) (s : State) : Host.Outcome State Fault Refusal :=
  if 8 ≤ i then idle s else registerRow (0xE00 + 4 * i) 4 off size s

/-- PERIODIC_STAT_READ (R303). -/
def execPeriodicStatRead (i off size : Nat) (s : State) : Host.Outcome State Fault Refusal :=
  if 32 ≤ i then idle s else registerRow (0x600 + 16 * i) 16 off size s

/-- PORT_STAT_READ (R335). -/
def execPortStatRead (p off size : Nat) (s : State) : Host.Outcome State Fault Refusal :=
  if 32 ≤ p then idle s else registerRow (0x2000 + 16 * p) 16 off size s

/-- IDENT_TIMEBASE_READ: a 4-byte read of the low half latches the upper half for the next 4-byte read of it (R363).
`off` counts from IDENT.TIMEBASE. -/
def execIdentTimebaseRead (off size : Nat) (s : State) : Host.Outcome State Fault Refusal :=
  if size = 0 ∨ 8 ≤ off ∨ 4096 < size then idle s
  else if off = 4 ∧ size = 4 ∧ hostHeard s ∧ memoryServed s then
    match s.pcie.tbLatch with
    | some v => .next { s with out := s.out ++ [.registerRead (natLE 4 v)], pcie := { s.pcie with tbLatch := none } }
    | none => hostRead (48 + off) size id s
  else
    hostRead (48 + off) size (fun s =>
      if off = 0 ∧ size = 4 then { s with pcie := { s.pcie with tbLatch := some (now s / 2 ^ 32) } }
      else readClears (48 + off) size s) s

/-! ### 64-bit registers written in halves (R362) -/

/-- What a write of a part leaves: the latched lower half, and the value that takes effect, if any. -/
def halfWrite (old : Nat) (latch : Option Nat) (part : RegPart) (v : Nat) : Option Nat × Option Nat :=
  match part with
  | .whole => (none, some (v % 2 ^ 64))
  | .lower => (some (v % 2 ^ 32), none)
  | .upper => (none, some (latch.getD (old % 2 ^ 32) + 2 ^ 32 * (v % 2 ^ 32)))

/-- A written MEM_ECC_CFG (Table 6.12). -/
def Stack.setEcc (k : Stack) (now v : Nat) : Stack :=
  let h := bits v 39 32
  { k with leakAt := now, leakS := bits v 15 0, scrubEn := bitB v 16, scrubH := if 1 ≤ h ∧ h ≤ 168 then h else 24 }

/-- MEM_ECC_CFG written in whole or in part. -/
def writeMemEcc (part : RegPart) (v : Nat) (s : State) : State :=
  let r := halfWrite (memEccCfg s) s.pcie.eccLow part v
  { s with pcie := { s.pcie with eccLow := r.1 }
           stack := match r.2 with | some v => s.stack.setEcc (now s) v | none => s.stack }

/-- BAR2_WIN written (Table 7.6a, R219). -/
def writeBar2Win (part : RegPart) (v : Nat) (s : State) : State :=
  let r := halfWrite (bar2Win s) s.pcie.winLow part v
  { s with pcie := { s.pcie with
      winLow := r.1
      win := match r.2 with
        | some v => ⟨bitB v 0, bitB v 1, bits v 7 2, bits v 47 30⟩
        | none => s.pcie.win } }

/-- A written L2_CFG (Table 9.9). -/
def Caches.setCfg (k : Caches) (v : Nat) : Caches :=
  let p := bits v 6 0
  let m := bits v 17 8
  { k with pct := if p ≤ 100 then p else 50, ms := if 1 ≤ m ∧ m ≤ 1000 then m else 10 }

/-- L2_CFG written; THRASH_WINDOW makes it take effect (R274). -/
def writeL2Cfg (part : RegPart) (v : Nat) (s : State) : State :=
  let r := halfWrite (l2Cfg s) s.pcie.l2Low part v
  { s with pcie := { s.pcie with l2Low := r.1 }
           cache := match r.2 with | some v => s.cache.setCfg v | none => s.cache }

/-- PTM_CTL written (Table 13.9). -/
def writePtmCtl (part : RegPart) (v : Nat) (s : State) : State :=
  let r := halfWrite (ptmCtl s) s.pcie.ptmLow part v
  let ptm := s.pcie.ptm
  { s with pcie := { s.pcie with
      ptmLow := r.1
      ptm := match r.2 with
        | some v =>
          let i := bits v 15 0
          { ptm with interval := if 1 ≤ i ∧ i ≤ 10000 then i else 100, align := bitB v 16 }
        | none => ptm } }

/-- MEM_ECC_CFG_WRITE. -/
def execMemEccCfgWrite (part : RegPart) (value : Nat) (s : State) : Host.Outcome State Fault Refusal :=
  hostWriteRow (writeMemEcc part value) s

/-- BAR2_WIN_WRITE. -/
def execBar2WinWrite (part : RegPart) (value : Nat) (s : State) : Host.Outcome State Fault Refusal :=
  hostWriteRow (writeBar2Win part value) s

/-- L2_CFG_WRITE. -/
def execL2CfgWrite (part : RegPart) (value : Nat) (s : State) : Host.Outcome State Fault Refusal :=
  hostWriteRow (writeL2Cfg part value) s

/-- PTM_CTL_WRITE. -/
def execPtmCtlWrite (part : RegPart) (value : Nat) (s : State) : Host.Outcome State Fault Refusal :=
  hostWriteRow (writePtmCtl part value) s

/-! ### 32-bit registers -/

/-- OVERFLOW of SHANK_STAT cleared by writing 1 (R200). -/
def writeShankStat (t v : Nat) (s : State) : State :=
  if t < 256 ∧ bitB v 20 then setShank t (fun k => { k with overflow := false }) s else s

/-- OVERFLOW of SIDE_STAT cleared by writing 1 (R217). -/
def writeSideStat (i v : Nat) (s : State) : State :=
  if i < 12 ∧ bitB v 15 then setSide i (fun k => { k with overflow := false }) s else s

/-- MSIX_MOD written; vector 1 ignores it, and a COUNT of 0 is stored as 1 (R369). -/
def writeMsixMod (v x : Nat) (s : State) : State :=
  if v = 1 ∨ 128 ≤ v then s
  else { s with pcie := { s.pcie with
    mods := Tab.set {} s.pcie.mods v ⟨bits x 15 0, if bits x 23 16 = 0 then 1 else bits x 23 16⟩ } }

/-- SHANK_STAT_WRITE. -/
def execShankStatWrite (t value : Nat) (s : State) : Host.Outcome State Fault Refusal :=
  hostWriteRow (writeShankStat t value) s

/-- SIDE_STAT_WRITE. -/
def execSideStatWrite (i value : Nat) (s : State) : Host.Outcome State Fault Refusal :=
  hostWriteRow (writeSideStat i value) s

/-- MSIX_MOD_WRITE. -/
def execMsixModWrite (v value : Nat) (s : State) : Host.Outcome State Fault Refusal :=
  hostWriteRow (writeMsixMod v value) s

/-! ### The MSI-X table (R369) -/

/-- The held message of a vector sent when nothing masks it any more and MSI-X Enable is 1. -/
def releaseMsix (v : Nat) (s : State) : State :=
  if s.pcie.msixOn && Tab.get false s.pcie.pba v && !(Tab.get {} s.pcie.table v).mask && !s.pcie.funcMask then
    msixSend v { s with pcie := { s.pcie with pba := Tab.set false s.pcie.pba v false } }
  else s

/-- One dword of an entry written. -/
def writeMsixTable (v dword x : Nat) (s : State) : State :=
  if 128 ≤ v ∨ 4 ≤ dword then s
  else
    let x := x % 2 ^ 32
    releaseMsix v { s with pcie := { s.pcie with table := Tab.upd {} s.pcie.table v fun e =>
      match dword with
      | 0 => { e with addrLo := x / 4 * 4 }
      | 1 => { e with addrHi := x }
      | 2 => { e with data := x }
      | _ => { e with mask := bitB x 0 } } }

/-- MSIX_TABLE_WRITE. -/
def execMsixTableWrite (v dword value : Nat) (s : State) : Host.Outcome State Fault Refusal :=
  hostWriteRow (writeMsixTable v dword value) s

/-- FUNCTION_MASK_CLEAR: MSI-X Message Control as written, the enable and the function mask; with the mask clear every message
held by it alone is sent (R369). -/
def execFunctionMaskClear (enable mask : Bool) (s : State) : Host.Outcome State Fault Refusal :=
  configWrite (fun s => (List.range 128).foldl (fun s v => releaseMsix v s)
    { s with pcie := { s.pcie with msixOn := enable, funcMask := mask } }) s

/-! ### Mailbox slots (R380, R381, R384) -/

/-- Host-writable bits of header bytes 2 to 63 (Table 14.1): COMMIT_SEQ, CMD, IRQ, SEQ and LEN. -/
def slotWritable (i : Nat) : Bool := (2 ≤ i && i < 6) || i == 6 || (8 ≤ i && i < 14)

/-- A slot with the host's bytes written from an offset. COMMIT takes POSTED and no other value (Table 14.1). -/
def Slot.hostWrite (c : Slot) (off : Nat) (data : List (Option Byte)) : Slot :=
  let w := data.zipIdx.filterMap fun (b, i) => b.map fun v => (off + i, v)
  let h := overlay c.header 0 ((List.range 64).map fun i =>
    if slotWritable i then (w.find? fun p => p.1 == i).map (·.2) else none)
  let touched := w.any fun p => decide (p.1 < 2)
  let commit := field (overlay c.header 0 ((List.range 2).map fun i => (w.find? fun p => p.1 == i).map (·.2))) 0 2
  { c with
    commit := if touched ∧ commit = 1 then 1 else c.commit
    cseq := field h 2 2, cmd := field h 4 2, irq := bitB (field h 6 1) 0, seq := field h 8 4, len := field h 12 2
    payload := w.foldl (fun t p => if 64 ≤ p.1 ∧ p.1 < 4096 then Tab.set 0 t (p.1 - 64) p.2 else t) c.payload }

/-- A write to a slot taken: dropped from ACCEPTED until DONE (R384); while POSTED it may or may not be taken, which a
free value decides. -/
def writeSlot (n off : Nat) (data : List (Option Byte)) (s : State) : State :=
  let c := Tab.get {} s.mail.slots n
  let busy := c.commit == 2 || s.mail.accepted.any fun a => a.origin == .slot n && !a.mute
  let put := { s with mail := { s.mail with slots := Tab.set {} s.mail.slots n (c.hostWrite off data) } }
  if busy then s
  else if c.commit = 1 then
    if (Config.freeWord s.fresh).getLsbD 0 then { put with fresh := s.fresh + 1 } else { s with fresh := s.fresh + 1 }
  else put

/-! ### Any other write (R362) -/

/-- Offsets of the direct registers, the identity block, PTM_CTL and MSIX_MOD. -/
def isDirect (x : Nat) : Bool :=
  decide (x < 0x100) || (0x300 ≤ x && x < 0x308) || (0x400 ≤ x && x < 0x520) || (0x600 ≤ x && x < 0xE20)
    || (0xE40 ≤ x && x < 0xE48) || (0xE80 ≤ x && x < 0xEB0) || (0xF00 ≤ x && x < 0xF08) || (0xF40 ≤ x && x < 0xF48)
    || (0xF80 ≤ x && x < 0xFA0) || (0xFC0 ≤ x && x < 0xFC8) || (0x2000 ≤ x && x < 0x2200)
    || (0x81000 ≤ x && x < 0x81200)

/-- Control address of a BAR0 offset (R221). -/
def controlAddr (x : Nat) : Nat := 0xFF0000000000 + x

/-- The part of a 64-bit register that an aligned 4- or 8-byte write covers. -/
def partOf (x size : Nat) : RegPart := if size = 8 then .whole else if x % 8 = 0 then .lower else .upper

/-- A naturally aligned write to a direct register. -/
def writeDirect (x size v : Nat) (s : State) : State :=
  let pair (f : Nat → Nat → State → State) (i : Nat) : State :=
    if size = 8 then f (i + 1) (v / 2 ^ 32) (f i (v % 2 ^ 32) s) else f i v s
  if 0xA00 ≤ x ∧ x < 0xE00 then pair writeShankStat ((x - 0xA00) / 4)
  else if 0xE80 ≤ x ∧ x < 0xEB0 then pair writeSideStat ((x - 0xE80) / 4)
  else if 0x81000 ≤ x ∧ x < 0x81200 then pair writeMsixMod ((x - 0x81000) / 4)
  else if x / 8 = 0xE40 / 8 then writeMemEcc (partOf x size) v s
  else if x / 8 = 0xF00 / 8 then writeBar2Win (partOf x size) v s
  else if x / 8 = 0xF40 / 8 then writeL2Cfg (partOf x size) v s
  else if x / 8 = 0xFC0 / 8 then writePtmCtl (partOf x size) v s
  else s

/-- A write to the MSI-X table: dwords and qwords as the base specification has them; other forms change nothing
(DESIGN CHOICE, log 31). -/
def writeTableRaw (x size v : Nat) (s : State) : State :=
  let e := (x - 0x80000) / 16
  let d := (x - 0x80000) % 16 / 4
  if size = 4 ∧ x % 4 = 0 then writeMsixTable e d v s
  else if size = 8 ∧ x % 8 = 0 then writeMsixTable e (d + 1) (v / 2 ^ 32) (writeMsixTable e d v s)
  else s

/-- BAR0_WRITE. -/
def execBar0Write (off size value : Nat) (ep : Bool) (s : State) : Host.Outcome State Fault Refusal :=
  hostWriteRow (fun s =>
    if ep then setAer aerPoisoned s
    else if (List.range size).any fun i => isDirect (off + i) then
      if (size = 4 ∨ size = 8) ∧ off % size = 0 then writeDirect off size value s
      else addressFault 0x9000 (controlAddr off) s
    else if 0x10000 ≤ off ∧ off < 0x50000 then
      writeSlot ((off - 0x10000) / 4096) (off % 4096) ((natLE size value).map some) s
    else if 0x80000 ≤ off ∧ off < 0x80800 then writeTableRaw off size value s
    else s) s

/-- MAILBOX_SLOT_WRITE. -/
def execMailboxSlotWrite (slot off : Nat) (data : List (Option Byte)) (s : State) : Host.Outcome State Fault Refusal :=
  if 64 ≤ slot then idle s else hostWriteRow (writeSlot slot off data) s

end Sys2Proof.Machine
end

