-- ==== Sys2Proof/Machine/ConfigSpace.lean ====
section
/-! DEFINITION. What the configuration space of the function holds (R358-R360): the header, the two lists of capabilities
and the values that their tables give. No row reads it; its controls are in `HostCfg`. The places within the header and the
identifiers of the capabilities are those of the PCI Express Base Specification (PRESUMED, log 171). -/

namespace Sys2Proof.Machine

/-- Bytes of BAR2 (R364). -/
def bar2Size (s : State) : Nat := 2 ^ (20 + s.pcie.bar2Code)

/-- A 64-bit memory BAR of a size as it reads: the written address above the size, the type bits below. -/
def barValue (size type addr : Nat) : Bytes := natLE 8 (addr % 2 ^ 64 / size * size + type)

/-- The header (Table 13.2), 64 bytes: Command with Memory Space Enable and Bus Master Enable, Status with the capabilities
list, BAR0 of 64 MiB (64-bit, non-prefetchable) and BAR2 (64-bit, prefetchable). -/
def configHeader (s : State) : Bytes :=
  natLE 2 0x1F6E ++ natLE 2 0x3160
    ++ natLE 2 (fld (b2n s.pcie.cfg.memSpace) 1 1 + fld (b2n s.pcie.cfg.busMaster) 2 1) ++ natLE 2 0x10
    ++ natLE 1 0x01 ++ natLE 3 0x120000 ++ zeros 4
    ++ barValue (2 ^ 26) 0x4 s.pcie.cfg.bar0 ++ barValue (bar2Size s) 0xC s.pcie.cfg.bar2 ++ zeros 12
    ++ natLE 2 0x1F6E ++ natLE 2 0x0001 ++ zeros 4 ++ natLE 1 0x40 ++ zeros 11

/-- A capability of Table 13.3: its place and its identifier. -/
structure Capability where
  offset : Nat
  id     : Nat
  deriving DecidableEq, Repr

/-- The capabilities of the first 256 bytes, in order: Power Management, MSI-X, PCI Express. -/
def capabilities : List Capability := [⟨0x40, 0x01⟩, ⟨0x50, 0x11⟩, ⟨0x70, 0x10⟩]

/-- The extended capabilities, in order: Advanced Error Reporting, Device Serial Number, Resizable BAR, Precision Time
Measurement, Secondary PCI Express, Data Link Feature, the physical layers at 16, 32 and 64 GT/s, Lane Margining, Device 3. -/
def extCapabilities : List Capability :=
  [⟨0x100, 0x0001⟩, ⟨0x150, 0x0003⟩, ⟨0x160, 0x0015⟩, ⟨0x180, 0x001F⟩, ⟨0x190, 0x0019⟩, ⟨0x1D0, 0x0025⟩,
    ⟨0x1E0, 0x0026⟩, ⟨0x220, 0x002A⟩, ⟨0x260, 0x0031⟩, ⟨0x2A0, 0x0027⟩, ⟨0x300, 0x002F⟩]

/-- The next pointer of the capability at an offset: that of its successor in the list, 0 at the end (R359). -/
def nextCap : List Capability → Nat → Nat
  | a :: b :: rest, x => if a.offset = x then b.offset else nextCap (b :: rest) x
  | _, _ => 0

/-- The first word of a capability of the first list: identifier, next pointer. -/
def capHeader (c : Capability) : Nat := fld c.id 0 8 + fld (nextCap capabilities c.offset) 8 8

/-- The first word of an extended capability, of version 1. -/
def extCapHeader (c : Capability) : Nat := fld c.id 0 16 + fld 1 16 4 + fld (nextCap extCapabilities c.offset) 20 12

/-- The MSI-X capability after its first half word (Table 13.3): control with table size 127 and the two masks of the
state, then the places of the table and the PBA in BAR0. -/
def msixCapability (s : State) : Bytes :=
  natLE 2 (127 + fld (b2n s.pcie.funcMask) 14 1 + fld (b2n s.pcie.msixOn) 15 1) ++ natLE 4 0x80000 ++ natLE 4 0x80800

/-- The Resizable BAR registers: sizes 1 GiB to 2 TiB as bits 14 to 25, one BAR of index 2, and the size in effect. -/
def resizableBar (s : State) : Bytes :=
  natLE 4 (2 ^ 26 - 2 ^ 14) ++ natLE 4 (fld 2 0 3 + fld 1 5 3 + fld s.pcie.bar2Code 8 6)

/-- The Device Serial Number capability after its first word (R360). -/
def deviceSerial : Bytes := natLE 8 serialNumber

/-- Power Management after its first half word: version 3, no PME; the power state, No_Soft_Reset 1. -/
def powerCapability (s : State) : Bytes := natLE 2 3 ++ natLE 4 (fld (if s.pcie.d3 then 3 else 0) 0 2 + fld 1 3 1)

/-- Code of a payload or read request size. -/
def sizeCode (n : Nat) : Nat := ((List.range 6).find? fun i => 128 * 2 ^ i == n).getD 0

/-- The PCI Express capability after its first half word (Table 13.3): an Endpoint with Flit mode, Max_Payload_Size 512 B,
extended and 10-bit tags, Function Level Reset, completion timeout ranges A to D with disable, 64.0 GT/s and x16, no ASPM;
the controls as written and the link as it trained. -/
def pcieCapability (s : State) : Bytes :=
  let c := s.pcie.cfg
  natLE 2 (2 + fld 1 15 1) ++ natLE 4 (fld 2 0 3 + fld 1 5 1 + fld 1 15 1 + fld 1 28 1)
    ++ natLE 2 (fld (b2n c.relaxed) 4 1 + fld (sizeCode c.maxPayload) 5 3 + fld 1 8 1 + fld (sizeCode c.maxRead) 12 3) ++ zeros 2
    ++ natLE 4 (fld 6 0 4 + fld 16 4 6) ++ zeros 2 ++ natLE 2 (fld s.pcie.speed 0 4 + fld s.pcie.width 4 6) ++ zeros 16
    ++ natLE 4 (fld 15 0 4 + fld 1 4 1 + fld 3 16 2) ++ natLE 2 (fld (b2n c.cplDisable) 4 1 + fld (b2n c.tag10) 12 1) ++ zeros 2
    ++ natLE 4 (fld 63 1 7) ++ natLE 2 6 ++ natLE 2 (fld (b2n s.pcie.flit) 10 1)

/-- Advanced Error Reporting after its first word: uncorrectable status, mask and severity; no correctable error, the advisory
non-fatal one masked; no ECRC (R359, R371). -/
def aerCapability (s : State) : Bytes :=
  natLE 4 s.pcie.aer ++ natLE 4 s.pcie.cfg.aerMask ++ natLE 4 s.pcie.cfg.aerSev ++ zeros 4 ++ natLE 4 0x2000 ++ zeros 4

/-- Precision Time Measurement after its first word: a requester; PTM Enable. -/
def ptmCapability (s : State) : Bytes := natLE 4 1 ++ natLE 4 (b2n s.pcie.ptm.enabled)

/-- Secondary PCI Express after its first word: link control 3, lane errors, 16 equalization entries. -/
def secondaryCapability : Bytes := zeros 4 ++ zeros 4 ++ zeros 32

/-- Data Link Feature after its first word: Scaled Flow Control, exchange enabled. -/
def dataLinkFeature : Bytes := natLE 4 (1 + fld 1 31 1) ++ zeros 4

/-- Device 3 after its first word: 14-bit tags as completer and requester; the enable as written. -/
def device3 (s : State) : Bytes := natLE 4 (fld 3 1 2) ++ natLE 4 (fld (b2n s.pcie.cfg.tag14) 2 1) ++ zeros 4

end Sys2Proof.Machine
end

