-- ==== Sys2Proof/Machine/HostFn.lean ====
section
/-! DEFINITION. The PCIe function (chapter 13): its configuration controls, BAR2 (R218-R220, R364-R366), PTM (R372,
R373), moderation (R369), and the module's reads of host memory (R370). -/

namespace Sys2Proof.Machine

/-! ### Requests of the module -/

/-- Reads that may be outstanding (R370). -/
def readLimit (s : State) : Nat := if s.pcie.flit && s.pcie.cfg.tag14 then 1024 else if s.pcie.cfg.tag10 then 768 else 256

/-- The pieces of a host range, each within the read request size and one 4 KiB block (R370). -/
def readPieces (size : Nat) : Nat → Nat → Nat → List (Nat × Nat)
  | 0, _, _ => []
  | k + 1, a, n =>
    if n = 0 then []
    else
      let m := min n (min size (4096 - a % 4096))
      (a, m) :: readPieces size k (a + m) (n - m)

/-- Waiting reads issued while the function may and the limit allows; Relaxed Ordering as enabled (R370). -/
def issueReads : Nat → State → State
  | 0, s => s
  | k + 1, s =>
    match s.pcie.waiting with
    | [] => s
    | r :: rest =>
      if canIssue s && decide (s.pcie.reads.length < readLimit s) then
        let r := { r with tag := s.pcie.nextTag }
        issueReads k { s with
          pcie := { s.pcie with waiting := rest, reads := s.pcie.reads ++ [r], nextTag := (s.pcie.nextTag + 1) % 2 ^ 14 }
          out := s.out ++ [.hostRead r.tag r.addr r.len s.pcie.cfg.relaxed] }
      else s

/-- Waiting reads issued. -/
def pumpReads (s : State) : State := issueReads s.pcie.waiting.length s

/-- A read of host memory for an object. -/
def askHost (addr len : Nat) (why : ReadFor) (s : State) : State :=
  let rs := (readPieces (max 128 s.pcie.cfg.maxRead) (len + 1) addr len).map fun (a, n) => (⟨0, a, n, why⟩ : OutRead)
  pumpReads { s with pcie := { s.pcie with waiting := s.pcie.waiting ++ rs } }

/-- What Bus Master Enable or D3hot held back goes out in order: writes and records, the messages that announce them as the
vectors then stand (R368), and reads (R370, R376). -/
def flushHost (s : State) : State :=
  if canIssue s then
    pumpReads (s.pcie.heldMsix.foldl (fun s v => msixSend v s)
      { s with out := s.out ++ s.pcie.heldRecs.map fun (a, bs) => Output.hostWrite a bs false false
               pcie := { s.pcie with heldRecs := [], heldMsix := [] } })
  else s

/-! ### Configuration -/

/-- BAR2_RESIZE: 1 GiB to 2 TiB, with Memory Space Enable clear (R364). -/
def execBar2Resize (code : Nat) (s : State) : Host.Outcome State Fault Refusal :=
  configWrite (fun s =>
    if code < 10 ∨ 21 < code ∨ s.pcie.cfg.memSpace then s else { s with pcie := { s.pcie with bar2Code := code } }) s

/-- Max_Payload_Size as Device Control takes it: 128, 256 or 512, and no other value (R370). -/
def payloadSize (old new : Nat) : Nat := if [128, 256, 512].contains new then new else old

/-- BUS_MASTER_ENABLE: the controls as written; what was held proceeds once Bus Master Enable is 1 (R370). -/
def execBusMasterEnable (cfg : HostCfg) (s : State) : Host.Outcome State Fault Refusal :=
  configWrite (fun s => flushHost { s with pcie := { s.pcie with
    cfg := { cfg with maxPayload := payloadSize s.pcie.cfg.maxPayload cfg.maxPayload } } }) s

/-- POWER_STATE_CHANGE: D3hot or D0, keeping every state (R360). -/
def execPowerStateChange (d3hot : Bool) (s : State) : Host.Outcome State Fault Refusal :=
  configWrite (fun s => flushHost { s with pcie := { s.pcie with d3 := d3hot } }) s

/-- PTM_ENABLE: setting it starts the count of dialogs anew (R372, R373). -/
def execPtmEnable (on : Bool) (s : State) : Host.Outcome State Fault Refusal :=
  configWrite (fun s =>
    { s with pcie := { s.pcie with ptm :=
      { s.pcie.ptm with enabled := on, dialogs := if on then 0 else s.pcie.ptm.dialogs
                        valid := if on then false else s.pcie.ptm.valid } } }) s

/-- An integer kept within ±n. -/
def within (n : Nat) (i : Int) : Int := if i < -(n : Int) then -(n : Int) else if (n : Int) < i then (n : Int) else i

/-- Rate of the timebase against PTM Master Time between two dialogs, in 0.01 ppm, rounded toward zero and kept in 16
bits (DESIGN CHOICE, log 33: the manual states neither). -/
def ptmRate (dl dm : Int) : Int := if dm ≤ 0 then 0 else clampInt 16 (Int.tdiv ((dl - dm) * 100000000) dm)

/-- One dialog (R372, R373). The trim moves against the measured rate, or back to 0, by at most 1 ppm, within 100 ppm. -/
def Ptm.dialog (t : Ptm) (loc master delay : Nat) : Ptm :=
  let rate := if t.dialogs = 0 then t.rate else ptmRate ((loc : Int) - t.loc) ((master : Int) - t.master)
  let valid := decide (1 ≤ t.dialogs)
  { t with
    loc := loc, master := master % 2 ^ 64, delay := delay % 2 ^ 32, count := (t.count + 1) % 2 ^ 32
    rate := rate, valid := valid, dialogs := t.dialogs + 1
    trim := if t.align && valid then within 10000 (t.trim + within 100 (-rate)) else t.trim + within 100 (-t.trim) }

/-- PTM_DIALOG: with PTM Enable set a dialog runs; without it only the rate returns (R373). -/
def execPtmDialog (master delay : Nat) (s : State) : Host.Outcome State Fault Refusal :=
  let t := s.pcie.ptm
  if t.enabled && s.pcie.link && hostHeard s then
    .next { s with pcie := { s.pcie with ptm := t.dialog (now s) master delay } }
  else .next { s with pcie := { s.pcie with ptm := { t with trim := t.trim + within 100 (-t.trim) } } }

/-- MSIX_HOLDOFF_EXPIRY: one message for what was gathered (R369). -/
def execMsixHoldoffExpiry (v : Nat) (s : State) : Host.Outcome State Fault Refusal :=
  if Tab.get 0 s.pcie.gathered v = 0 then idle s
  else .next (msixSend v { s with pcie := { s.pcie with gathered := Tab.set 0 s.pcie.gathered v 0 } })

/-! ### BAR2 -/

/-- The address that a BAR2 offset reaches (R218). -/
def bar2Addr (s : State) (off : Nat) : Nat := s.pcie.win.base * 2 ^ 30 / bar2Size s * bar2Size s + off

/-- A request that PCI Express can carry: within BAR2 and one 4 KiB block (R365). -/
def bar2Fits (s : State) (off n : Nat) : Bool :=
  decide (1 ≤ n) && decide (off % 4096 + n ≤ 4096) && decide (off + n ≤ bar2Size s)

/-- The module has reached READY since the last bring-up began (R365). -/
def ready (s : State) : Bool := s.power.phase == .up

/-- How bad a completion status is (R220). -/
def CplStatus.rank : CplStatus → Nat
  | .ok => 0
  | .ep => 1
  | .abort => 2
  | .unsupported => 3

/-- The worse of two statuses. -/
def CplStatus.worse (a b : CplStatus) : CplStatus := if a.rank < b.rank then b else a

/-- Status of one line of a host access. -/
def hostStatus (acc : Access) (poison : Bool) : CplStatus :=
  match acc with
  | .ok => if poison then .ep else .ok
  | .hole => .unsupported
  | .lent _ => .abort

/-- A local BAR2 read, line by line (Table 7.6b). -/
def bar2Local (a n : Nat) (s : State) : State × CplStatus × Bytes :=
  (lineRange a n).foldl (fun (acc : State × CplStatus × Bytes) line =>
    let k := sectorMask line a n
    let r := homeRead .host (max a line) k acc.1
    let lo := if line < a then a - line else 0
    let hi := min 128 (a + n - line)
    (r.1, acc.2.1.worse (hostStatus r.2.1 (r.2.2.poison &&& k != 0)), acc.2.2 ++ slice r.2.2.data lo (hi - lo)))
    (s, .ok, [])

/-- The completion of a BAR2 read, with its AER error. -/
def complete (st : CplStatus) (bs : Bytes) (s : State) : State :=
  accessAer st { s with out := s.out ++ [.completion st (if st.rank ≤ 1 then bs else [])] }

/-- A read of local memory completed, or none while one of its accesses waits. -/
def tryBar2 (a n : Nat) (s : State) : Option State :=
  let r := bar2Local a n { s with waits := false }
  if waited s r.1 then none else some (complete r.2.1 r.2.2 { r.1 with waits := s.waits })

/-- A read of local memory completed, or kept with its translation until it can be (R219). -/
def takeBar2 (a n : Nat) (s : State) : State :=
  match tryBar2 a n s with
  | some t => t
  | none => { s with pcie := { s.pcie with bar2Held := s.pcie.bar2Held ++ [(a, n)] } }

/-- The reads that wait, taken again in order. -/
def serveBar2 (s : State) : State :=
  match s.pcie.bar2Held with
  | [] => s
  | rs => rs.foldl (fun s r => takeBar2 r.1 r.2 s) { s with pcie := { s.pcie with bar2Held := [] } }

/-- BAR2_READ: one that meets a waiting access completes later, with the translation of its arrival (R219). -/
def execBar2Read (off len : Nat) (s : State) : Host.Outcome State Fault Refusal :=
  if hostHeard s = false ∨ bar2Fits s off len = false then idle s
  else if memoryServed s = false then .next (complete .unsupported [] s)
  else if ready s = false then .next (complete .abort [] s)
  else
    let a := bar2Addr s off
    if s.pcie.win.enable = false then .next (complete .unsupported [] (addressFault 0x9000 a s))
    else if s.pcie.win.remote ∧ s.pcie.win.dev ≠ s.pod.eff.device then
      if (routePort s s.pcie.win.dev (a / 128)).isNone then
        .next (hostUnreachable s.pcie.win.dev 5 (complete .abort [] s))
      else .next (sendRequest 1 s.pcie.win.dev 3 0x9000 0 a len none [] (.hostRead len) s)
    else .next (takeBar2 a len s)

/-- The runs of enabled bytes of a write: offset and bytes. -/
def byteRuns : List (Option Byte) → List (Nat × Bytes)
  | [] => []
  | none :: rest => (byteRuns rest).map fun (o, b) => (o + 1, b)
  | some v :: rest =>
    match byteRuns rest with
    | (0, b) :: rs => (0, v :: b) :: rs.map fun (o, b) => (o + 1, b)
    | rs => (0, [v]) :: rs.map fun (o, b) => (o + 1, b)

/-- The AER errors of the lines of a dropped write (Table 13.8). -/
def writeAer (a n : Nat) (s : State) : State :=
  (lineRange a n).foldl (fun s' line => accessAer (hostStatus (accessOf s line) false) s') s

/-- A write that PCI Express can carry: also within Max_Payload_Size (R365). -/
def bar2Takes (s : State) (off n : Nat) : Bool := bar2Fits s off n && decide (n ≤ max 128 s.pcie.cfg.maxPayload)

/-- BAR2_WRITE. A poisoned write to another module is dropped: a WRITE carries no poison (DESIGN CHOICE, log 34). -/
def execBar2Write (off : Nat) (data : List (Option Byte)) (ep : Bool) (s : State) : Host.Outcome State Fault Refusal :=
  if hostHeard s = false ∨ bar2Takes s off data.length = false then idle s
  else
    let s := if ep then setAer aerPoisoned s else s
    if memoryServed s = false then .next (setAer aerUnsupported s)
    else if ready s = false then .next (setAer aerAbort s)
    else
      let a := bar2Addr s off
      if s.pcie.win.enable = false then .next (setAer aerUnsupported (addressFault 0x9000 a s))
      else if s.pcie.win.remote ∧ s.pcie.win.dev ≠ s.pod.eff.device then
        let dev := s.pcie.win.dev
        if ep then .next s
        else if (routePort s dev (a / 128)).isNone then .next (hostUnreachable dev 5 (setAer aerAbort s))
        else
          .next ((byteRuns data).foldl (fun s (o, bs) =>
            sendRequest 2 dev 3 0x9000 0 (a + o) bs.length none bs .hostWrite s) s)
      else .next (writeRange .host a data ep (writeAer a data.length s)).1

end Sys2Proof.Machine
end

