-- ==== Sys2Proof/Machine/Link.lean ====
section
/-! DEFINITION. The Jorelink link (chapter 11): training and sessions, flits received and sent, violations and
quarantine. Port states are the codes of Table 11.3: 0 IDLE, 1 DETECT, 2 TRAINING, 3 ACTIVE, 4 RETRAINING,
5 QUARANTINED, 6 PARKED. -/

namespace Sys2Proof.Machine

/-- Receive buffers in flits, by channel (Table 11.8). -/
def bufferFlits : List Nat := [32, 128, 128, 256]

/-- Saturating increment of a status count. -/
def bump (limit v : Nat) : Nat := if v < limit then v + 1 else v

/-! ### Violations (R330-R334) -/

/-- The rate count of R333. -/
def Port.rate (pt : Port) : Nat := pt.buckets.foldl (· + ·) 0

/-- Five saturating 16-bit class counts (Table 18.4, FABRIC_VIOLATION). -/
def classCounts (t : Tab Nat) : Nat :=
  (List.range 5).foldl (fun n i => n + fld (min 0xFFFF (Tab.get 0 t (i + 1))) (16 * i) 16) 0

/-- Counter slot of a violation class, and the unit of its half (Table 18.12). -/
def violationSlot (code : Nat) : Nat × Nat :=
  match code with
  | 1 => (8, 1)
  | 2 => (8, 2 ^ 32)
  | 3 => (9, 1)
  | 4 => (9, 2 ^ 32)
  | _ => (10, 1)

/-- FABRIC_VIOLATION, at most once per 100 ms per port, with the counts since the last (R332, R474). -/
def logViolations (p : Nat) (s : State) : State :=
  let running := s.ev.folds.any fun f => f.code == 0x0805 && f.key == 0x7000 + p
  let s' := logLimited 0x0805 (0x7000 + p) 0 s
  if running then s'
  else
    let d := classCounts (port s p).violLast
    let s := logEvent 0x0805 (0x7000 + p) d { s with ev := { s.ev with folds := s.ev.folds ++ [⟨0x0805, 0x7000 + p, 0, 0⟩] } }
    setPort s p fun pt => { pt with violLast := [] }

/-- Quarantine of a port (Table 11.10, R334). -/
def quarantine (p : Nat) (s : State) : State :=
  let before := reachable s
  let hold := 2 ^ (port s p).holdLog
  let s := lctl p 5 0 (lctl p 5 0 (lctl p 5 0 s))
  let s := logEvent 0x0806 (0x7000 + p) (classCounts (port s p).violLast + fld hold 80 16) s
  let s := setPortState p 5 (endSession p s)
  routeChanges before (setPort s p fun pt =>
    { pt with quars := bump 255 pt.quars, holdLog := min 8 (pt.holdLog + 1) })

/-- A violation counted, entered in the rate count, and NACKed where the port is ACTIVE (R331). -/
def countViolation (p code seq unit : Nat) (s : State) : State :=
  let s := setPort s p fun pt => { pt with
    viol := Tab.upd 0 pt.viol code (· + 1)
    violLast := Tab.upd 0 pt.violLast code (· + 1)
    lastViol := code
    buckets := match pt.buckets with | [] => [1] | b :: bs => (b + 1) :: bs }
  let s := tallyHalf 5 p (violationSlot code).1 (violationSlot code).2 s
  if (port s p).state = 3 then lctl p 2 (fld seq 8 12 + fld unit 20 4 + fld code 24 8) s else s

/-- A violation reported; the 1,001st within the window quarantines an ACTIVE port (R332, R333). -/
def reportViolation (p : Nat) (s : State) : State :=
  let s := logViolations p s
  if (port s p).state = 3 ∧ 1000 < (port s p).rate then quarantine p s else s

/-- One violation (R331). -/
def violate (p code seq unit : Nat) (s : State) : State := reportViolation p (countViolation p code seq unit s)

/-! ### Retraining and replay (R322, R327) -/

/-- Entry to RETRAINING (R327): RETRAIN_REQ three times, PORT_RETRAIN with the trigger. -/
def retrain (p trigger : Nat) (s : State) : State :=
  if (port s p).state = 3 then
    let before := reachable s
    let s := lctl p 4 0 (lctl p 4 0 (lctl p 4 0 s))
    let s := logEvent 0x0803 (0x7000 + p) trigger s
    let s := setPort s p fun pt => { pt with
      retrains := bump 255 pt.retrains, phy := pt.phy.restart, decided := none
      sess := { pt.sess with partnerInit := false, initHdr := none } }
    routeChanges before (setPortState p 4 s)
  else s

/-- The held flits sent again from a sequence number onward, with the acknowledgement and credit of now (R322,
R323). -/
def resendFlits (p : Nat) (fs : List HeldFlit) (s : State) : State :=
  fs.foldl (fun s f =>
    let r := (port s p).emit p 1 f.seq f.vc f.units f.start f.payload
    { s with ports := Tab.set {} s.ports p { r.1 with replays := bump 0xFFFF r.1.replays }
             out := s.out ++ r.2
             ev := s.ev.add 5 p 4 1 }) s

/-- A replay from a held flit; the oldest one's reaching its ninth replay retrains the port (R322, R327). -/
def replayFrom (p seq : Nat) (s : State) : State :=
  let held := (port s p).sess.held
  let fs := held.dropWhile fun f => f.seq != seq
  let oldest := decide (fs.length = held.length)
  let s := resendFlits p fs s
  let s := if oldest then setPort s p fun pt =>
      { pt with sess := { pt.sess with held := match pt.sess.held with
          | [] => []
          | f :: r => { f with replays := f.replays + 1 } :: r } }
    else s
  match (port s p).sess.held.head? with
  | some f => if oldest && f.replays == 9 then retrain p 2 s else s
  | none => s

/-- REPLAY_REQ for the next expected flit, unless one is outstanding (R320). -/
def askReplay (p : Nat) (s : State) : State :=
  let pt := port s p
  if pt.sess.replayOut then s
  else
    lctl p 1 (fld pt.sess.expect 8 12)
      (setPort s p fun pt => { pt with sess := { pt.sess with replayOut := true } })

/-! ### What every good header carries (R321, R325) -/

/-- A header breaks Table 11.6 for its type (R316, R330). -/
def headerBad (hdr : Nat) : Bool :=
  bitB hdr 31 || bitB hdr 63 ||
    (if bits hdr 3 0 = 1 then bits hdr 35 32 == 0 || decide (2 ^ bits hdr 35 32 ≤ bits hdr 50 36)
     else bits hdr 15 4 != 0 || bits hdr 30 29 != 0 || bits hdr 35 32 != 0 || bits hdr 50 36 != 0)

/-- CRED_CUM would give more credits than were advertised (R325). -/
def creditBad (ss : Session) (hdr : Nat) : Bool :=
  let vc := bits hdr 52 51
  decide (nth ss.credits vc < (nth ss.sent vc + 1024 - bits hdr 62 53) % 1024)

/-- The credit count of a header taken in. -/
def Session.takeCredit (ss : Session) (hdr : Nat) : Session :=
  { ss with cum := ss.cum.set (bits hdr 52 51) (bits hdr 62 53) }

/-- A cumulative acknowledgement (R321): the held flits up to it freed; none when it names a flit neither held nor
recently freed. -/
def Session.takeAck (ss : Session) (seq : Nat) : Option Session :=
  if ss.held.any fun f => f.seq == seq then
    let left := (ss.held.dropWhile fun f => f.seq != seq).drop 1
    some { ss with held := left, acked := min 256 (ss.acked + (ss.held.length - left.length)) }
  else
    let oldest := match ss.held.head? with | some f => f.seq | none => ss.nextTx
    if (oldest + 4095 - seq) % 4096 < ss.acked then some ss else none

/-- Carried messages of which no unit is under way and which neither are refused nor wait have been delivered; what waited
behind them leaves (R342). -/
def dropCarried (s : State) : State :=
  let busy (id : Nat) : Bool := s.ports.any fun (_, pt) =>
    pt.sess.tx.any (fun u => u.req == some id) || pt.sess.held.any fun f => f.reqs.any fun x => x.1 == id
  let s := { s with pod := { s.pod with reqs := s.pod.reqs.filter fun r => r.why != .carried || r.refused || !r.sent || busy r.id } }
  sendReleased s.pod.reqs.length s

/-- Acknowledgement and credit of a good header taken in, and whether its ACK_SEQ stands (R321, R325). -/
def noteHeader (p hdr : Nat) (s : State) : State × Bool :=
  let ss := ((port s p).sess).takeCredit hdr
  match (if bitB hdr 28 then ss.takeAck (bits hdr 27 16) else some ss) with
  | some ss' => (setPort s p fun pt => { pt with sess := ss' }, true)
  | none => (setPort s p fun pt => { pt with sess := ss }, false)

/-- The same, with what an acknowledgement lets go, and the violation SEQ_WINDOW of an ACK_SEQ that does not stand. -/
def takeHeader (p hdr : Nat) (s : State) : State :=
  let r := noteHeader p hdr s
  if r.2 then dropCarried r.1 else violate p 4 (bits hdr 15 4) 0 r.1

/-! ### DATA flits (R318, R320, R324) -/

/-- Units taken out of the receive buffer: a flit with none left frees its credit (R325). -/
def Session.take (ss : Session) (fs : List (Nat × Nat)) : Session :=
  fs.foldl (fun ss (seq, n) =>
    match ss.buf.find? fun b => b.1 == seq with
    | none => ss
    | some (_, vc, left) =>
      if n < left then { ss with buf := ss.buf.map fun b => if b.1 == seq then (seq, vc, left - n) else b }
      else { ss with buf := ss.buf.filter fun b => !(b.1 == seq)
                     freed := ss.freed.set vc ((nth ss.freed vc + 1) % 1024) }) ss

/-- A channel while the units of one flit are read: the message under way, messages completed, units of the flit
that belong to a live message, and whether the framing of R318 held. -/
structure Framing where
  part : Option PartMsg
  done : List RxMsg := []
  live : Nat := 0
  ok   : Bool := true
  deriving DecidableEq, Repr

/-- MSG.UNITS of a header unit; a 0 counts as 1, so that the message ends with its header. -/
def unitsOf (u : Bytes) : Nat := max 1 (bits (field u 0 4) 16 8)

/-- One unit read (R318). -/
def Framing.unit (f : Framing) (vc seq u : Nat) (start : Bool) (b : Bytes) : Framing :=
  let finish (m : PartMsg) : Framing :=
    let m := { m with bytes := m.bytes ++ b, need := m.need - 1
                      flits := match m.flits.reverse with
                        | (q, n) :: r => if q = seq then ((q, n + 1) :: r).reverse else m.flits ++ [(seq, 1)]
                        | [] => [(seq, 1)] }
    let live := if m.drop then f.live else f.live + 1
    if m.need = 0 then
      { f with part := none, live := live
               done := if m.drop then f.done else f.done ++ [⟨vc, m.seq, m.unit, m.bytes, m.flits⟩] }
    else { f with part := some m, live := live }
  match f.part with
  | some m =>
    if m.drop && m.need == 0 then
      if start then finish ⟨seq, u, unitsOf b, [], [], false⟩ else f
    else if start then { f with ok := false }
    else finish m
  | none => if start then finish ⟨seq, u, unitsOf b, [], [], false⟩ else { f with ok := false }

/-- The units of a DATA flit read. -/
def readUnits (part : Option PartMsg) (hdr : Nat) (payload : Bytes) : Framing :=
  (List.range (bits hdr 35 32)).foldl
    (fun f u => f.unit (bits hdr 30 29) (bits hdr 15 4) u (bitB (bits hdr 50 36) u) (slice payload (16 * u) 16))
    { part := part }

/-- What is left of a channel after a flit of it was dropped: every message with a unit in it goes (R331). -/
def afterDrop (f : Framing) : Option PartMsg :=
  if f.ok then f.part.map fun m => { m with drop := true, bytes := [], flits := [] }
  else some ⟨0, 0, 0, [], [], true⟩

/-- A DATA flit dropped: E has advanced; a part message with a unit in it goes; its credit is freed unless it never held a
buffer. -/
def Session.dropFlit (ss : Session) (vc units : Nat) (f : Framing) (free : Bool) : Session :=
  let gone := match Tab.get none ss.parts vc with | some m => m.flits | none => []
  let ss := if units = 0 then ss else { ss.take gone with parts := Tab.set none (ss.take gone).parts vc (afterDrop f) }
  { ss with freed := if free then ss.freed.set vc ((nth ss.freed vc + 1) % 1024) else ss.freed }

/-- A DATA flit taken into the buffer. -/
def Session.keepFlit (ss : Session) (seq vc : Nat) (f : Framing) : Session :=
  { ss with
    parts := Tab.set none ss.parts vc f.part
    rx := ss.rx ++ f.done
    buf := if f.live = 0 then ss.buf else ss.buf ++ [(seq, vc, f.live)]
    freed := if f.live = 0 then ss.freed.set vc ((nth ss.freed vc + 1) % 1024) else ss.freed }

/-- An in-order DATA flit: E advances, then the checks of R330 (malformed first, then credit overrun). -/
def acceptData (p hdr : Nat) (payload : Bytes) (s : State) : State :=
  let seq := bits hdr 15 4
  let vc := bits hdr 30 29
  let s := tally 5 p 1 1 (tally 5 p 3 (16 * bits hdr 35 32) s)
  let s := setPort s p fun pt => { pt with sess := { pt.sess with
    expect := (seq + 1) % 4096, gotAny := true, replayOut := false, unacked := pt.sess.unacked + 1 } }
  let ss := (port s p).sess
  let f := readUnits (Tab.get none ss.parts vc) hdr payload
  if headerBad hdr || creditBad ss hdr || !f.ok then
    violate p 1 seq 0 (setPort s p fun pt => { pt with sess := ss.dropFlit vc (bits hdr 35 32) f true })
  else if nth bufferFlits vc ≤ (ss.buf.filter fun b => b.2.1 == vc).length then
    violate p 2 seq 0 (setPort s p fun pt => { pt with sess := ss.dropFlit vc (bits hdr 35 32) f false })
  else takeHeader p hdr (setPort s p fun pt => { pt with sess := ss.keepFlit seq vc f })

/-! ### The commands -/

/-- The CRC of 256 received bytes holds (R317). -/
def crcGood (b : Bytes) : Bool := field b 248 8 == crc64 (b.take 248)

/-- What the port sends once a flit has been dealt with: new DATA flits, and an IDLE flit when 32 DATA flits are
unacknowledged (R321, R323). -/
def answerFlit (p : Nat) (s : State) : State :=
  let s := pump p s
  if (port s p).state = 3 ∧ 32 ≤ (port s p).sess.unacked then emitCtl p 0 (zeros 240) s else s

/-- The port's stream moved on past a flit; symbols that the decoder corrected are counted. -/
def passFlit (p : Nat) (ph : Phy) (s : State) : State :=
  tally 5 p 7 (ph.fixed - (port s p).phy.fixed) (setPort s p fun pt => { pt with phy := ph })

/-- A CRC-good flit received in one of some states (Table 11.7b), of a kind that `mine` tells by header and body; a codeword
that cannot be corrected and a failed CRC have their own rows. -/
def receiveFlit (p : Nat) (f : RxFlit) (states : List Nat) (mine : Nat → Nat → Bool) (run : Nat → Bytes → State → State)
    (s : State) : Host.Outcome State Fault Refusal :=
  match (port s p).phy.take f with
  | none => idle s
  | some (ph, b) =>
    if states.contains (port s p).state && crcGood b && mine (field b 0 8) (field b 8 240) then
      .next (answerFlit p (run (field b 0 8) (slice b 8 240) (passFlit p ph s)))
    else idle s

/-- A header that makes its flit malformed (R316, R325, R330). -/
def flitBad (p hdr : Nat) (s : State) : Bool := headerBad hdr || creditBad (port s p).sess hdr

/-- A CRC-good DATA flit on an ACTIVE port (Table 11.7b). -/
def takeDataFlit (p hdr : Nat) (payload : Bytes) (s : State) : State :=
  let seq := bits hdr 15 4
  let d := (seq + 4096 - (port s p).sess.expect) % 4096
  if d = 0 then acceptData p hdr payload s
  else if 3840 ≤ d then
    let s := setPort s p fun pt => { pt with dups := pt.dups + 1, sess := { pt.sess with unacked := pt.sess.unacked + 1 } }
    if flitBad p hdr s then violate p 1 seq 0 s else takeHeader p hdr s
  else if d ≤ 255 then
    let s := askReplay p (setPort s p fun pt => { pt with gaps := pt.gaps + 1 })
    if flitBad p hdr s then violate p 1 seq 0 s else takeHeader p hdr s
  else violate p (if flitBad p hdr s then 1 else 4) seq 0 s

/-- FLIT_DATA. -/
def execFlitData (p : Nat) (f : RxFlit) (s : State) : Host.Outcome State Fault Refusal :=
  receiveFlit p f [3] (fun hdr _ => bits hdr 3 0 == 1) (takeDataFlit p) s

/-- FLIT_IDLE: header processed; a malformed one is dropped (R320, R330). -/
def execFlitIdle (p : Nat) (f : RxFlit) (s : State) : Host.Outcome State Fault Refusal :=
  receiveFlit p f [3] (fun hdr _ => bits hdr 3 0 == 0)
    (fun hdr _ s => if flitBad p hdr s then violate p 1 0 0 s else takeHeader p hdr s) s

/-- Reserved bits of a TRAIN body (Table 11.5). -/
def trainReserved (body : Nat) : Bool := bits body 15 13 != 0 || bits body 31 29 != 0 || body / 2 ^ 128 != 0

/-- FLIT_TRAIN: an ACTIVE port enters RETRAINING (R320, R327). -/
def execFlitTrain (p : Nat) (f : RxFlit) (s : State) : Host.Outcome State Fault Refusal :=
  receiveFlit p f [3] (fun hdr _ => bits hdr 3 0 == 3)
    (fun hdr pl s => if headerBad hdr || trainReserved (leNat pl) then violate p 1 0 0 s else retrain p 4 s) s

/-- FLIT_UNKNOWN_TYPE: an unknown TYPE or LCTL code, dropped as MALFORMED_FLIT with a NACK (R330). -/
def execFlitUnknownType (p : Nat) (f : RxFlit) (s : State) : Host.Outcome State Fault Refusal :=
  receiveFlit p f [3] (fun hdr body => decide (3 < bits hdr 3 0)
      || (bits hdr 3 0 == 2 && (bits body 7 0 == 0 || decide (6 < bits body 7 0))))
    (fun _ _ s => violate p 1 0 0 s) s

/-- One flit discarded for CRC or FEC (R320). -/
def crcFailed (p : Nat) (s : State) : State :=
  askReplay p (tally 5 p 5 1 (setPort s p fun pt => { pt with crcErrs := bump 0xFFFF pt.crcErrs }))

/-- FLIT_CRC_FAILURE. -/
def execFlitCrcFailure (p : Nat) (f : RxFlit) (s : State) : Host.Outcome State Fault Refusal :=
  match (port s p).phy.take f with
  | none => idle s
  | some (ph, b) =>
    if (port s p).state = 3 ∧ crcGood b = false then .next (crcFailed p (passFlit p ph s)) else idle s

/-- Uncorrectable codewords of the last ms, that of now with them (R327). -/
def lossesAt (p : Nat) (s : State) : List Nat := (now s :: (port s p).phy.losses).filter fun t => decide (now s - t < 1000000)

/-- UNCORRECTABLE_CODEWORD: counted, and every flit with a bit in it fails its CRC (R310). The seventeenth within 1 ms retrains
the port (R327). -/
def execUncorrectableCodeword (p : Nat) (errs : List WireError) (s : State) : Host.Outcome State Fault Refusal :=
  match (port s p).phy.lose errs with
  | none => idle s
  | some (ph, n) =>
    if (port s p).state ≠ 3 then idle s
    else
      let times := lossesAt p s
      let s := (List.range n).foldl (fun s _ => crcFailed p s)
        (tally 5 p 6 1 (setPort s p fun pt => { pt with phy := { ph with losses := times }, fecUnc := bump 0xFFFF pt.fecUnc }))
      .next (if 16 < times.length then retrain p 3 s else s)

/-- Reserved bits of an LCTL body (Table 11.7a). -/
def lctlReserved (body : Nat) : Bool := bits body 63 32 != 0 || body / 2 ^ 128 != 0

/-- An LCTL flit of a code on an ACTIVE port; a malformed one is a violation (R319, R330). -/
def lctlRow (p : Nat) (f : RxFlit) (code : Nat) (run : Nat → Nat → State → State) (s : State) :
    Host.Outcome State Fault Refusal :=
  receiveFlit p f [3] (fun hdr body => bits hdr 3 0 == 2 && bits body 7 0 == code)
    (fun hdr pl s => if flitBad p hdr s || lctlReserved (leNat pl) then violate p 1 0 0 s else run hdr (leNat pl) s) s

/-- REPLAY_REQ (R322): the held flits from the one named onward, ahead of any new one; a bad ACK_SEQ and a bad LCTL.SEQ of one
flit are one violation (R331), whose NACK, an LCTL flit, goes first; its event, and what the acknowledgement lets go, wait for
the replay (R323). -/
def takeReplayReq (p hdr body : Nat) (s : State) : State :=
  let r := noteHeader p hdr s
  let seq := bits body 19 8
  let ss := (port r.1 p).sess
  let names := ss.held.any fun f => f.seq == seq
  let good := names || seq == ss.nextTx
  let bad := !(r.2 && good)
  let s := if bad then countViolation p 4 (if good then 0 else seq) 0 r.1 else r.1
  let s := if names then replayFrom p seq s else s
  let s := if r.2 then dropCarried s else s
  if bad then reportViolation p s else s

/-- REPLAY_REQ received. -/
def execReplayReq (p : Nat) (f : RxFlit) (s : State) : Host.Outcome State Fault Refusal :=
  lctlRow p f 1 (takeReplayReq p) s

/-- The requests that a NACK names (R340): every one with a unit in the flit, or the one that begins at a unit. -/
def nackedIds (ss : Session) (seq unit code : Nat) : List Nat :=
  match ss.held.find? fun f => f.seq == seq with
  | none => []
  | some f =>
    if code = 1 ∨ code = 2 then (f.reqs.map (·.1)).eraseDups
    else (f.reqs.filter fun r => r.2 == some unit).map (·.1)

/-- The message that begins at a unit of a held flit, put together from the flits and the units behind it (R340). -/
def messageAt (ss : Session) (seq unit : Nat) : Option Bytes :=
  match ss.held.dropWhile fun f => f.seq != seq with
  | [] => none
  | f :: rest =>
    if bitB f.start unit = false then none
    else
      let cut (g : HeldFlit) : Bytes := g.payload.take (16 * g.units)
      let bs := (cut f).drop (16 * unit) ++ ((rest.filter fun g => g.vc == f.vc).map cut).flatten
        ++ ((ss.tx.filter fun u => u.vc == f.vc).map (·.bytes)).flatten
      some (bs.take (16 * bits (field bs 0 4) 16 8))

/-- Later messages of a unit to a device that were refused as well wait behind the first refused one (R342). -/
def waitBehind (reqs : List Request) : List Request :=
  reqs.map fun r =>
    if r.refused && reqs.any (fun q => q.dst == r.dst && q.unit == r.unit && q.holding && decide (q.id < r.id)) then
      { r with sent := false, refused := false, holding := false }
    else r

/-- A response, or a message that this module forwards, refused with BUSY: kept to be sent again (R342, R350). -/
def carry (p seq unit : Nat) (s : State) : State :=
  let ss := (port s p).sess
  match ss.held.find? (fun f => f.seq == seq), messageAt ss seq unit with
  | some f, some bs =>
    let h := field bs 0 16
    let id := s.pod.nextReq
    let own := bits h 28 23 == s.pod.eff.device
    { s with pod := { s.pod with
        nextReq := id + 1
        reqs := waitBehind (s.pod.reqs ++ [{
          id := id, tag := bits h 47 32, type := bits h 7 0, dst := bits h 22 17, vc := f.vc
          unit := if own then 0x20000 + id else carriedUnit bs, bytes := bs, why := .carried, busy := 1
          holding := true, refused := true, fwd := if own then none else some (p / 4) }]) } }
  | _, _ => s

/-- A message refused with BUSY (R342): a request of this module is held, any other message kept. -/
def refuseBusy (p seq unit : Nat) (s : State) : State :=
  match nackedIds (port s p).sess seq unit 0x10 with
  | [] => carry p seq unit s
  | ids =>
    let reqs := s.pod.reqs.map fun (r : Request) =>
      if ids.contains r.id then { r with busy := r.busy + 1, holding := true, refused := true } else r
    { s with pod := { s.pod with reqs := waitBehind reqs } }

/-- NACK: the named requests end NACKED, or the named message was refused BUSY (R340, R342). -/
def takeNack (p hdr body : Nat) (s : State) : State :=
  let code := bits body 31 24
  let seq := bits body 19 8
  let unit := bits body 23 20
  takeHeader p hdr
    (if code = 0x10 then refuseBusy p seq unit s
    else if [1, 2, 3, 5].contains code then endRequests (nackedIds (port s p).sess seq unit code) 7 s
    else s)

/-- NACK received. -/
def execNack (p : Nat) (f : RxFlit) (s : State) : Host.Outcome State Fault Refusal :=
  lctlRow p f 2 (takeNack p) s

/-- The partner's receive buffers, as CREDIT_INIT advertises them. -/
def bodyCredits (body : Nat) : List Nat := (List.range 4).map fun i => bits body (79 + 16 * i) (64 + 16 * i)

/-- The credit counts set to what the partner advertised, its buffers being empty (R325). -/
def Session.init (ss : Session) (credits : List Nat) : Session :=
  { ss with credits := credits, cum := ss.sent, partnerInit := true, initHdr := none }

/-- CREDIT_INIT: taken in training, its header once the session is decided (R315, R320); outside training a violation
MALFORMED_FLIT (R325, R330). -/
def execCreditInit (p : Nat) (f : RxFlit) (s : State) : Host.Outcome State Fault Refusal :=
  receiveFlit p f [2, 3, 4] (fun hdr body => bits hdr 3 0 == 2 && bits body 7 0 == 3)
    (fun hdr pl s =>
      if (port s p).state = 3 ∨ headerBad hdr ∨ lctlReserved (leNat pl) then violate p 1 0 0 s
      else setPort s p fun pt => { pt with sess := { pt.sess.init (bodyCredits (leNat pl)) with initHdr := some hdr } }) s

/-- RETRAIN_REQ received (R327). -/
def execRetrainReq (p : Nat) (f : RxFlit) (s : State) : Host.Outcome State Fault Refusal :=
  lctlRow p f 4 (fun hdr _ s => retrain p 4 (takeHeader p hdr s)) s

/-- QUARANTINE_NOTICE received: a lost link (R333, R327); DEDUCED (log 22): the port retrains at once as for a lock
lost. -/
def execQuarantineNotice (p : Nat) (f : RxFlit) (s : State) : Host.Outcome State Fault Refusal :=
  lctlRow p f 5 (fun hdr _ s => retrain p 1 (takeHeader p hdr s)) s

/-- The session of a port ends, the port enters a state, and PORT_DOWN is logged with its cause (R328, R329). -/
def portDown (p cause : Nat) (s : State) : State :=
  let before := reachable s
  routeChanges before (logEvent 0x0802 (0x7000 + p) cause (setPortState p 1 (endSession p s)))

/-- PARK received: the session ends and the port enters DETECT (R329). -/
def execPark (p : Nat) (f : RxFlit) (s : State) : Host.Outcome State Fault Refusal :=
  lctlRow p f 6 (fun hdr _ s =>
    let s := takeHeader p hdr s
    if (port s p).state = 3 then portDown p 3 s else s) s

/-- REPLAY_REQ_RESEND: E has not come (R320). -/
def execReplayReqResend (p : Nat) (s : State) : Host.Outcome State Fault Refusal :=
  if (port s p).state = 3 ∧ (port s p).sess.replayOut = true then
    .next (lctl p 1 (fld (port s p).sess.expect 8 12) s)
  else idle s

/-- ACK_TIMEOUT_REPLAY: a replay from the oldest held flit (R322). -/
def execAckTimeoutReplay (p : Nat) (s : State) : Host.Outcome State Fault Refusal :=
  match (port s p).sess.held.head? with
  | some f => if (port s p).state = 3 then .next (pump p (replayFrom p f.seq s)) else idle s
  | none => idle s

/-- ACK_IDLE: an IDLE flit carries the acknowledgement (R321). -/
def execAckIdle (p : Nat) (s : State) : Host.Outcome State Fault Refusal :=
  if (port s p).state = 3 ∧ 0 < (port s p).sess.unacked then .next (emitCtl p 0 (zeros 240) s) else idle s

/-- This side's CREDIT_INIT (Table 11.8). -/
def sendCreditInit (p : Nat) (s : State) : State :=
  lctl p 3 ((bufferFlits.zipIdx.map fun (c, i) => fld c (64 + 16 * i) 16).foldl (· + ·) 0) s

/-- IDLE_INSERTION (R308). -/
def execIdleInsertion (p : Nat) (s : State) : Host.Outcome State Fault Refusal :=
  if (port s p).state = 3 then .next (emitCtl p 0 (zeros 240) s) else idle s

/-- More than 16 uncorrectable codewords have come within 1 ms. -/
def manyLosses (p : Nat) (s : State) : Bool :=
  decide (16 < ((port s p).phy.losses.filter fun t => decide (now s - t < 1000000)).length)

/-- LANE_LOCK_LOSS: a lane's lock, or more than 16 uncorrectable codewords within 1 ms, which the port's count shows (R327). -/
def execLaneLockLoss (p : Nat) (codewords : Bool) (s : State) : Host.Outcome State Fault Refusal :=
  if (port s p).state = 3 ∧ (if codewords then manyLosses p s else (port s p).cable) = true then
    .next (retrain p (if codewords then 3 else 1) s)
  else idle s

/-! ### Training and sessions (R314, R315) -/

/-- TRAINING_ATTEMPT: a port of the active set in DETECT with its cable present begins training; a port outside the set
is held in electrical idle (R59). -/
def execTrainingAttempt (p : Nat) (s : State) : Host.Outcome State Fault Refusal :=
  if (port s p).state = 1 ∧ (port s p).cable = true ∧ bitB s.pace.portSet p = true then
    .next (setPortState p 2 (setPort s p fun pt =>
      { pt with tried := true, phy := pt.phy.restart, decided := none, sess := { pt.sess with partnerInit := false, initHdr := none } }))
  else idle s

/-- The TRAIN body this side sends (Table 11.5). -/
def trainBody (p : Nat) (ss : Session) : Bytes :=
  natLE 240 (fld 1 0 8 + fld p 8 5 + fld (b2n ss.valid) 16 1 + (if ss.valid then fld ss.expect 17 12 else 0)
    + fld ss.own 32 32 + fld serialNumber 64 64)

/-- The previous session may resume (R315). -/
def mayResume (ss : Session) (b : TrainBody) : Bool :=
  ss.valid && b.resumeValid && b.serial == ss.serial && b.port == ss.port && b.session == ss.partner &&
    (b.resumeSeq == ss.nextTx || ss.held.any fun f => f.seq == b.resumeSeq)

/-- HELLO on a port that has become ACTIVE (R347, Table 12.7). -/
def sendHello (p : Nat) (s : State) : State :=
  let id := s.pod.nextReq
  let e := s.pod.eff
  let pl := natLE 4 e.id ++ natLE 1 e.device ++ natLE 1 e.head ++ natLE 2 0 ++ natLE 8 serialNumber
  let bs := message 0x06 0 e.device 0 id 0 0 0 16 (some (fld 1 0 16 + fld s.pod.mseq 16 16)) pl
  sendOn p 0 (some id) none bs { s with pod := { s.pod with
    nextReq := id + 1
    mseq := (s.pod.mseq + 1) % 2 ^ 16
    reqs := s.pod.reqs ++ [{ id := id, tag := id % 2 ^ 16, type := 6, dst := 64 + p, vc := 0, unit := 0xB000,
                             bytes := bs, why := .mailbox }] } }

/-- The session resumed with a partner that next expects a sequence number: the held flits before it are acknowledged, and
freed as an acknowledgement frees them (R315, R321). -/
def Session.resume (ss : Session) (seq : Nat) : Session :=
  let left := ss.held.dropWhile fun f => f.seq != seq
  { ss with held := left, acked := min 256 (ss.acked + (ss.held.length - left.length)) }

/-- Step 7 of Table 11.4: TRAIN flits exchanged, and the session resumed, or a new one opened after the old one ends (R315). The
partner's CREDIT_INIT that has come already stays. -/
def decideSession (p : Nat) (b : TrainBody) (s : State) : State :=
  let ss := (port s p).sess
  let resume := mayResume ss b
  let s := emitCtl p 3 (trainBody p ss) s
  let s := if resume then setPort s p fun pt => { pt with sess := pt.sess.resume b.resumeSeq }
    else
      let s := if ss.valid then endSession p s else s
      let own := (Config.sessionDraw s.fresh).toNat
      let s := setPort { s with fresh := s.fresh + 1 } p fun pt => { pt with
        sess := { rx := pt.sess.rx, own := own, partner := b.session, serial := b.serial, port := b.port, valid := true
                  partnerInit := ss.partnerInit, initHdr := ss.initHdr
                  credits := if ss.partnerInit then ss.credits else pt.sess.credits } }
      emitCtl p 3 (trainBody p { (port s p).sess with valid := false }) s
  setPort s p fun pt => { pt with decided := some resume }

/-- Step 7, where it is yet to be done. -/
def decided (p : Nat) (b : TrainBody) (s : State) : State := if (port s p).decided.isSome then s else decideSession p b s

/-- CREDIT_INIT_RESEND: step 8 of Table 11.4, from the first CREDIT_INIT until the partner's arrives (R325). It follows step 7:
`partner` is the body of the partner's TRAIN flit, where this step brings it. -/
def execCreditInitResend (p : Nat) (partner : Option TrainBody) (s : State) : Host.Outcome State Fault Refusal :=
  let pt := port s p
  if (pt.state = 2 ∨ pt.state = 4) ∧ pt.sess.partnerInit = false then
    match partner with
    | some b => if b.version = 1 then .next (sendCreditInit p (decided p b s)) else idle s
    | none => if pt.decided.isSome then .next (sendCreditInit p s) else idle s
  else idle s

/-- Steps 7 and 8 of Table 11.4: the session decided, and on a resume a replay from RESUME_SEQ; credits set; the port ACTIVE,
PORT_UP logged, HELLO sent (R315, R347). -/
def openPort (p : Nat) (b : TrainBody) (credits : List Nat) (w : Wiring) (s : State) : State :=
  let before := reachable s
  let s := decided p b s
  let ss := (port s p).sess
  let resume := (port s p).decided == some true
  let credits := if ss.partnerInit then ss.credits else credits
  let s := sendCreditInit p s
  let s := match ss.initHdr with
    | some hdr => if creditBad (port s p).sess hdr then violate p 1 0 0 s else takeHeader p hdr s
    | none => s
  let s := setPort s p fun pt => { pt with
    sess := pt.sess.init credits, resumed := resume, decided := none, attempts := 0, failLog := false, partPort := b.port
    phy := { pt.phy with reversed := w.reversed, inverted := w.inverted } }
  let s := setPortState p 3 s
  let s := logEvent 0x0801 (0x7000 + p) (fld b.port 0 5 + fld (b2n resume) 5 1 + fld b.serial 64 64) s
  let s := match (port s p).sess.held.head? with
    | some f => if resume then replayFrom p f.seq s else s
    | none => s
  routeChanges before (sendHello p (pump p s))

/-- A training attempt fails at a step (R314). -/
def trainingFailed (p step : Nat) (s : State) : State :=
  let n := (port s p).attempts + 1
  let log := decide (10 ≤ n) && !(port s p).failLog
  let s := setPort s p fun pt => { pt with attempts := n, failLog := pt.failLog || log }
  let s := setPortState p 1 s
  if log then logEvent 0x0804 (0x7000 + p) (fld step 0 4) s else s

/-- PORT_UP: training completes. A TRAIN body of another version fails step 7 (Table 11.5). -/
def execPortUp (p : Nat) (partner : TrainBody) (credits : List Nat) (w : Wiring) (s : State) :
    Host.Outcome State Fault Refusal :=
  if (port s p).state ≠ 2 then idle s
  else if partner.version ≠ 1 then .next (trainingFailed p 7 s)
  else .next (openPort p partner credits w s)

/-- PORT_TRAINING_FAILED. -/
def execPortTrainingFailed (p step : Nat) (s : State) : Host.Outcome State Fault Refusal :=
  if (port s p).state = 2 then .next (trainingFailed p step s) else idle s

/-- RETRAINING_END: the session resumes or is replaced, or retraining failed and the port is down (R327, R328). -/
def execRetrainingEnd (p : Nat) (partner : Option TrainBody) (credits : List Nat) (w : Wiring) (s : State) :
    Host.Outcome State Fault Refusal :=
  if (port s p).state ≠ 4 then idle s
  else match partner with
    | some b => if b.version = 1 then .next (openPort p b credits w s) else .next (portDown p 2 s)
    | none => .next (portDown p 2 s)

/-- A port whose cable has gone (R328): a session ends with PORT_DOWN; training stops; a hold goes on (R334). -/
def uncable (p : Nat) (s : State) : State :=
  let st := (port s p).state
  let s := setPort s p fun pt => { pt with cable := false }
  if st = 3 ∨ st = 4 then portDown p 1 s
  else if st = 2 then setPortState p 1 s
  else s

/-- CABLE_REMOVED on connector J(10 + j): ports 4j to 4j + 3 (R29, R328). -/
def execCableRemoved (j : Nat) (s : State) : Host.Outcome State Fault Refusal :=
  if 8 ≤ j then idle s else .next ((List.range 4).foldl (fun s i => uncable (4 * j + i) s) s)

/-- CABLE_INSERTED (R314, R335). -/
def execCableInserted (j : Nat) (s : State) : Host.Outcome State Fault Refusal :=
  if 8 ≤ j then idle s
  else .next ((List.range 4).foldl (fun s i => setPort s (4 * j + i) fun pt => { pt with cable := true }) s)

/-- A port that leaves the active set may park: ACTIVE and drained of messages and held flits, or without a session and
not in quarantine (R329). -/
def mayPark (s : State) (p : Nat) : Bool :=
  let pt := port s p
  bitB s.pace.leaving p && pt.state != 5 && pt.state != 4
    && (pt.state != 3 || (pt.sess.held.isEmpty && pt.sess.tx.isEmpty))

/-- The port parks: an ACTIVE one sends PARK three times and ends its session (R329). -/
def parkPort (p : Nat) (s : State) : State :=
  if (port s p).state = 3 then
    let before := reachable s
    let s := lctl p 6 0 (lctl p 6 0 (lctl p 6 0 s))
    let s := setPortState p 6 (endSession p s)
    routeChanges before { s with pace := { s.pace with leaving := s.pace.leaving - 2 ^ p } }
  else
    let s := setPortState p 6 s
    { s with pace := { s.pace with leaving := s.pace.leaving - 2 ^ p } }

/-! ### Quarantine's end (R333, R334) -/

/-- QUARANTINE_HOLD_EXPIRY: the rate count clears; the port enters DETECT, or PARKED when outside the active set. -/
def execQuarantineHoldExpiry (p : Nat) (s : State) : Host.Outcome State Fault Refusal :=
  if (port s p).state ≠ 5 then idle s
  else
    let stays := bitB s.pace.portSet p
    .next (setPortState p (if stays then 1 else 6) (setPort s p fun pt => { pt with buckets := [] }))

/-- HOLD_TIME_RETURN: ten minutes without quarantine (R334). -/
def execHoldTimeReturn (p : Nat) (s : State) : Host.Outcome State Fault Refusal :=
  if (port s p).state = 5 then idle s else .next (setPort s p fun pt => { pt with holdLog := 0 })

/-- RATE_COUNT_BUCKET: a new bucket of 1 ms; the 1,001st oldest drops out (R333). SYM_ERR is taken anew over the last 100
(Table 11.11). -/
def execRateCountBucket (p : Nat) (s : State) : Host.Outcome State Fault Refusal :=
  if 32 ≤ p then idle s
  else .next (setPort s p fun pt => { pt with
    phy := pt.phy.bucket
    symErr := pt.phy.bucket.symErr
    buckets := if pt.buckets.all (· == 0) then [] else (0 :: pt.buckets).take 1000 })

end Sys2Proof.Machine
end

