-- ==== Sys2Proof/Machine/Messages.lean ====
section
/-! DEFINITION. Jorelink messages (chapter 12): the checks of a received message (R336, R337), windows (R343), how each
type is served, forwarded (R349, R350) or answered, COLLECTIVE (R346), SIGNAL (R345), responses (R338, R339),
MAILBOX, HELLO and event forwarding (R347, R353, R354), timeouts and BUSY retries (R341, R342). -/

namespace Sys2Proof.Machine

/-- A received message with its header's fields (Table 12.1), its extension unit and its payload. -/
structure Msg where
  rx     : RxMsg
  type   : Nat
  units  : Nat
  dst    : Nat
  src    : Nat
  hops   : Nat
  tag    : Nat
  op     : Nat
  status : Nat
  addr   : Nat
  len    : Nat
  hdr    : Nat
  ext    : Nat
  payload : Bytes
  deriving DecidableEq, Repr

/-- Extension units of a type (Table 12.2). -/
def extUnits (type status : Nat) : Nat :=
  if (3 ≤ type ∧ type ≤ 7) ∨ (type = 0x81 ∧ status = 1) then 1 else 0

/-- The type carries a payload of LEN bytes. -/
def hasPayload (type : Nat) : Bool := [2, 3, 6, 7, 0x81].contains type

/-- A received message read. -/
def parseMsg (m : RxMsg) : Msg :=
  let h := field m.bytes 0 16
  let e := extUnits (bits h 7 0) (bits h 63 56)
  { rx := m, type := bits h 7 0, units := bits h 16 8, dst := bits h 22 17, src := bits h 28 23, hops := bits h 30 29
    tag := bits h 47 32, op := bits h 51 48, status := bits h 63 56, addr := bits h 111 64, len := bits h 127 112
    hdr := h, ext := if e = 1 then field m.bytes 16 16 else 0
    payload := slice m.bytes (16 * (1 + e)) (if hasPayload (bits h 7 0) then bits h 127 112 else 0) }

/-- The channels of a type (Table 12.2): 0 CTL, 1 REQ, 2 RSP, 3 BULK. -/
def channelOk (type vc : Nat) : Bool :=
  match type with
  | 1 | 2 | 3 | 5 | 7 => vc == 1 || vc == 3
  | 4 => vc == 3
  | 6 => vc == 0
  | 0x80 => vc != 1
  | 0x81 => vc == 2 || vc == 3
  | _ => false

/-- A range of 1 to 4,096 bytes within one aligned 4 KiB block. -/
def inBlock (a n : Nat) : Bool := decide (1 ≤ n) && decide (a % 4096 + n ≤ 4096)

/-- Whole lines within one aligned 4 KiB block. -/
def linesInBlock (a n : Nat) : Bool := inBlock a n && n % 128 == 0 && a % 128 == 0

/-- LEN, ADDR and OP as Table 12.2 has them for the type. -/
def shapeOk (m : Msg) : Bool :=
  match m.type with
  | 1 => m.op == 0 && inBlock m.addr m.len
  | 2 => m.op == 0 && inBlock m.addr m.len
  | 3 => linesInBlock m.addr m.len
  | 4 => m.op == 0 && m.len == 0 && bits m.ext 53 0 % 128 == 0 && bits m.ext 95 64 % 128 == 0
      && decide (bits m.ext 95 64 ≤ 2 ^ 26)
  | 5 => (m.op == 0 || m.op == 4) && m.len == 8 && m.addr % 8 == 0
  | 6 => m.op == 0 && decide (m.len ≤ 4096)
  | 7 => if m.op = 0 then inBlock m.addr m.len else (addWidth m.op).isSome && linesInBlock m.addr m.len
  | 0x80 => m.op == 0 && m.len == 0 && m.addr == 0
  | 0x81 => m.op == 0 && decide (m.len ≤ 4096) && m.addr == 0
  | _ => false

/-- Bits of the extension unit that the type names. -/
def extNamed (m : Msg) : Bool :=
  match m.type with
  | 3 | 5 => bits m.ext 127 64 == 0
  | 4 => bits m.ext 63 54 == 0 && bits m.ext 127 96 == 0
  | 6 => bits m.ext 127 32 == 0
  | 7 => bits m.ext 127 70 == 0
  | _ => true

/-- The members of a COLLECTIVE by rank: the root, then the others ascending (R346). -/
def collRanks (m : Msg) : List Nat :=
  let root := bits m.ext 69 64
  root :: (List.range 64).filter fun d => bitB m.ext d && d != root

/-- A COLLECTIVE's mask is well formed: it has the root and only pod members (R346), and this module where the message is for
it. -/
def collOk (s : State) (m : Msg) : Bool :=
  m.type != 7 || (bitB m.ext (bits m.ext 69 64) && (m.dst != s.pod.eff.device || (collRanks m).contains s.pod.eff.device)
    && (List.range 64).all fun d => !bitB m.ext d || bitB s.pod.eff.members d)

/-- The message breaks R336, Table 12.2 or R337. -/
def msgBad (s : State) (m : Msg) : Bool :=
  let request := decide (m.type < 0x80)
  !channelOk m.type m.rx.vc || !shapeOk m || bitB m.hdr 31 || bits m.hdr 55 52 != 0 || (request && m.status != 0)
    || !extNamed m || m.units != 1 + extUnits m.type m.status + (m.payload.length + 15) / 16 || !collOk s m

/-- The oldest complete message of a port's channel. -/
def nextMsg (s : State) (p vc : Nat) : Option Msg := ((port s p).sess.rx.find? fun m => m.vc == vc).map parseMsg

/-- The message taken out of the receive buffer, its flits' credit freed (R325). -/
def popMsg (p : Nat) (m : Msg) (s : State) : State :=
  setPort s p fun pt => { pt with sess :=
    ({ pt.sess with rx := pt.sess.rx.erase m.rx } : Session).take m.rx.flits }

/-- The module has heard from a device (R353): every message of a validated partner says so of its source (DEDUCED, log 196). -/
def hear (d : Nat) (s : State) : State := { s with pod := { s.pod with heard := s.pod.heard ||| 2 ^ d } }

/-- A violation of the message layer: dropped and counted, and NACKed on an ACTIVE port (R331). -/
def msgViolation (p code : Nat) (m : Msg) (s : State) : State := violate p code m.rx.seq m.rx.unit s

/-- A request answered without data. -/
def replyStatus (m : Msg) (status : Nat) (s : State) : State := replyTo m.type m.src m.rx.vc m.tag status s

/-! ### Forwarding (R349, R350) -/

/-- 16-byte units in a forwarding store. -/
def storeUsed (s : State) (g : Nat) : Nat :=
  (s.ports.map fun (_, pt) => (pt.sess.tx.filter fun u => u.fwd == some g).length).foldl (· + ·) 0
    + (s.pod.reqs.map fun r => if r.fwd == some g && (r.refused || !r.sent) then r.bytes.length / 16 else 0).foldl (· + ·) 0

/-- A request that this module forwards kept behind one of the same source that its destination refused (R342). -/
def keepBehind (p : Nat) (m : Msg) (bs : Bytes) (s : State) : State :=
  let r : Request := { id := s.pod.nextReq, tag := m.tag, type := m.type, dst := m.dst, vc := m.rx.vc, unit := carriedUnit bs, bytes := bs
                       why := .carried, sent := false, fwd := some (p / 4) }
  { s with pod := { s.pod with nextReq := s.pod.nextReq + 1, reqs := s.pod.reqs ++ [r] } }

/-- A message for another device: forwarded with HOPS raised, or answered UNREACHABLE, or refused BUSY. -/
def forward (p : Nat) (m : Msg) (s : State) : State :=
  if 2 ≤ m.hops ∨ (routePort s m.dst (m.addr / 128)).isNone then
    if m.type < 0x80 then replyStatus m 5 s else s
  else if 32768 < storeUsed s (p / 4) + m.units then
    if (port s p).state = 3 then lctl p 2 (fld m.rx.seq 8 12 + fld m.rx.unit 20 4 + fld 0x10 24 8) s else s
  else
    let bs := natLE 16 (m.hdr + 2 ^ 29) ++ m.rx.bytes.drop 16
    if m.type < 0x80 && heldBehind s m.dst (carriedUnit bs) then keepBehind p m bs s
    else sendTo m.dst (m.addr / 128) m.rx.vc none (some (p / 4)) bs s

/-! ### Windows (R343) -/

/-- One window holds the range, grants the device and the right. -/
def windowPasses (s : State) (src a n : Nat) (right : Win → Bool) : Bool :=
  s.pod.eff.windows.any fun w =>
    w.len != 0 && decide (w.base ≤ a) && decide (a + n ≤ w.base + w.len) && bitB w.devices src && right w

/-- The window check of a request. A COPY whose source is this module's memory needs a window that grants READ over
the source as well (Table 12.4; DEDUCED, log 32). -/
def windowOk (s : State) (m : Msg) : Bool :=
  match m.type with
  | 1 => windowPasses s m.src m.addr m.len (·.read)
  | 2 => windowPasses s m.src m.addr m.len (·.write)
  | 3 => windowPasses s m.src m.addr m.len (·.add)
  | 4 => windowPasses s m.src m.addr (bits m.ext 95 64) (·.write) &&
      (bits m.ext 53 48 != s.pod.eff.device || windowPasses s m.src (bits m.ext 47 0) (bits m.ext 95 64) (·.read))
  | 5 => windowPasses s m.src m.addr 8 (·.add)
  | 7 => windowPasses s m.src m.addr m.len (if m.op = 0 then (·.write) else (·.add))
  | _ => true

/-! ### Receiving -/

/-- The partner of a port is a validated pod member (R347). -/
def validPartner (s : State) (p : Nat) : Bool := (port s p).member.isSome && !(port s p).conflict

/-- The source of a message of a port whose partner is validated has been heard from (R353). -/
def hearOn (p : Nat) (m : Msg) (s : State) : State := if validPartner s p then hear m.src s else s

/-- A request of a type taken from a channel: checked, refused, forwarded, or served by `run` (R337, R347, R349, R355,
R343). -/
def requestRow (p vc type : Nat) (run : Msg → State → State) (s : State) : Host.Outcome State Fault Refusal :=
  match nextMsg s p vc with
  | none => idle s
  | some m =>
    if m.type ≠ type then idle s
    else
      let s := popMsg p m s
      if msgBad s m then .next (msgViolation p 3 m s)
      else if !validPartner s p then
        .next (if m.type = 1 then
            sendOn p (pairedVc vc) none none (message 0x81 m.src s.pod.eff.device 0 m.tag 0 3 0 0 none []) s
          else respondOn p m.src vc m.tag 3 s)
      else
        let s := hear m.src s
        if s.power.phase ≠ .up then .next (replyStatus m 4 s)
        else if m.dst ≠ s.pod.eff.device then .next (forward p m s)
        else if !windowOk s m then .next (msgViolation p 5 m s)
        else .next (run m s)

/-- Wire status of a home's answer (Table 12.3). -/
def wireStatus : Access → Nat
  | .ok => 0
  | .lent _ => 2
  | .hole => 3

/-- Some line of a range is discarded at a retired shank, a failed tier or an offline side stack. -/
def anyLost (s : State) (a n : Nat) : Bool :=
  (lineRange a n).any fun l => accessOf s l == .ok && placeLost s (locate s l)

/-- Status of an update of a range: its first refusal, else POISON when a line of it was discarded. -/
def updateStatus (lost : Bool) (acc : Access) : Nat := if acc = .ok then (if lost then 1 else 0) else wireStatus acc

/-- Lines of a READ with the poison of each sector of the range (Table 12.2). -/
structure ReadOut where
  data   : Bytes := []
  poison : Nat := 0
  status : Nat := 0
  deriving DecidableEq, Repr

/-- A range read for a partner. -/
def serveRead (p a n : Nat) (s : State) : State × ReadOut :=
  (lineRange a n).foldl (fun (acc : State × ReadOut) line =>
    if acc.2.status ≠ 0 ∧ acc.2.status ≠ 1 then acc
    else
      let k := sectorMask line a n
      let r := homeRead (.port p) (max a line) k acc.1
      if r.2.1 = .ok then
        let lo := if line < a then a - line else 0
        let hi := min 128 (a + n - line)
        let bad := r.2.2.poison &&& k
        let mark := (List.range 4).foldl (fun m i =>
          if bitB bad i then m + 2 ^ (line / 32 + i - a / 32) else m) 0
        (r.1, { data := acc.2.data ++ slice r.2.2.data lo (hi - lo), poison := acc.2.poison + mark
                status := if bad = 0 then acc.2.status else 1 })
      else (r.1, { acc.2 with status := wireStatus r.2.1 })) (s, {})

/-- READ served (R344). -/
def serveReadMsg (p : Nat) (m : Msg) (s : State) : State :=
  let r := serveRead p m.addr m.len s
  if r.2.status = 0 ∨ r.2.status = 1 then
    sendTo m.src 0 (pairedVc m.rx.vc) none none
      (message 0x81 m.src s.pod.eff.device 0 m.tag 0 r.2.status 0 m.len
        (if r.2.status = 1 then some r.2.poison else none) r.2.data) r.1
  else replyStatus m r.2.status r.1

/-- READ. -/
def execRead (p vc : Nat) (s : State) : Host.Outcome State Fault Refusal :=
  heldRow s fun s =>
  requestRow p vc 1 (serveReadMsg p) s

/-- Bytes written for a partner or a unit, with the status. -/
def serveWrite (req : Requester) (a : Nat) (bs : Bytes) (s : State) : State × Nat :=
  let r := writeRange req a (bs.map some) false s
  (r.1, updateStatus (anyLost s a bs.length) r.2)

/-- WRITE. -/
def execWrite (p vc : Nat) (s : State) : Host.Outcome State Fault Refusal :=
  requestRow p vc 2 (fun m s => let r := serveWrite (.port p) m.addr m.payload s; replyStatus m r.2 r.1) s

/-- Lines added likewise. -/
def serveAdd (req : Requester) (a op mask : Nat) (bs : Bytes) (s : State) : State × Nat :=
  let r := (lineRange a bs.length).foldl (fun (acc : State × Access) line =>
    let r := homeAdd req line op mask (slice bs (line - a) 128) acc.1
    (r.1, if acc.2 = .ok then r.2 else acc.2)) (s, .ok)
  (r.1, updateStatus (anyLost s a bs.length) r.2)

/-- ADD: an OP of Table 9.5 that is refused ends BAD_OP. -/
def execAdd (p vc : Nat) (s : State) : Host.Outcome State Fault Refusal :=
  heldRow s fun s =>
  requestRow p vc 3 (fun m s =>
    if (addWidth m.op).isNone then replyStatus m 6 s
    else let r := serveAdd (.port p) m.addr m.op (bits m.ext 63 0) m.payload s; replyStatus m r.2 r.1) s

/-- One line of a COPY: the source read, another module's by a READ of the hub, then the destination written. -/
def copyLine (p : Nat) (m : Msg) (rd : Remote) (i : Nat) (s : State) : State × Nat :=
  let src := bits m.ext 53 0 + 128 * i
  let r : State × Bytes × Nat :=
    if bits src 53 48 = s.pod.eff.device then
      let r := serveRead p (bits src 47 0) 128 s
      (r.1, r.2.data, r.2.status)
    else
      let l := remoteLine rd src
      let q := exchange 1 (bits src 53 48) 3 0xB000 0 (bits src 47 0) 128 none [] l.status s
      (q.1, slice l.data 0 128, q.2)
  if r.2.2 = 0 then serveWrite (.port p) (m.addr + 128 * i) r.2.1 r.1 else (r.1, r.2.2)

/-- COPY carried out by its destination (R345): it ends at the first read that fails; a discarded write is reported at
its end. Overlapping ranges leave the destination undefined. No status of this module alone leaves it (R338). -/
def serveCopy (p : Nat) (rd : Remote) (m : Msg) (s : State) : State :=
  let n := bits m.ext 95 64
  let src := bits m.ext 47 0
  let overlap := bits m.ext 53 48 == s.pod.eff.device && decide (src < m.addr + n) && decide (m.addr < src + n)
  let r := (List.range (n / 128)).foldl (fun (acc : State × Nat) i =>
    if acc.2 = 0 then copyLine p m rd i acc.1 else acc) (s, 0)
  let s1 := if overlap && decide (0 < n) then
      let w := writeRange (.port p) m.addr ((freeBytes s.fresh n).map some) false r.1
      { w.1 with fresh := s.fresh + n }
    else r.1
  replyStatus m (wireOf r.2) s1

/-- COPY. -/
def execCopy (p vc : Nat) (rd : Remote) (s : State) : Host.Outcome State Fault Refusal :=
  heldRow s fun s =>
  requestRow p vc 4 (serveCopy p rd) s

/-- SIGNAL applied: a write, or an INT64 add, of 8 bytes (R345). -/
def serveSignal (p : Nat) (m : Msg) (s : State) : State :=
  let v := natLE 8 (bits m.ext 63 0)
  if m.op = 0 then let r := serveWrite (.port p) m.addr v s; replyStatus m r.2 r.1
  else
    let line := m.addr / 128 * 128
    let k := m.addr % 128 / 8
    let lost := anyLost s m.addr 8
    let r := homeAdd (.port p) line 4 (2 ^ k) (zeros (8 * k) ++ v ++ zeros (120 - 8 * k)) s
    replyStatus m (updateStatus lost r.2) r.1

/-- SIGNAL. -/
def execSignal (p vc : Nat) (s : State) : Host.Outcome State Fault Refusal :=
  heldRow s fun s =>
  requestRow p vc 5 (serveSignal p) s

/-- The unit that issues a message: a tile, or the hub (R277). -/
def unitOf (tile : Option Nat) : Nat := match tile with | some t => 0x1000 + t | none => 0xB000

/-- A message of this module that a SIGNAL of the same unit and device has still to wait for (R342, R345). -/
def stillBefore (r q : Request) : Bool :=
  q.dst == r.dst && q.unit == r.unit && decide (q.id < r.id) && (beforeSignal q.type || q.holding)

/-- A COLLECTIVE that a unit issued at this module and that its SIGNAL toward a member of the mask has still to wait for (R345). -/
def collBefore (r : Request) (c : Coll) : Bool :=
  c.parent.isNone && c.unit == r.unit && bitB c.mask r.dst && decide (c.id < r.id)

/-- A held SIGNAL leaves once none it waits for is outstanding; it is never sent when one of them failed (R345). -/
def releaseSignal (id : Nat) (s : State) : State :=
  match s.pod.reqs.find? fun r => r.id == id with
  | none => s
  | some r =>
    if !r.signal || r.sent || s.pod.reqs.any (stillBefore r) || s.pod.colls.any (collBefore r) then s
    else if r.fails ≠ 0 then endRequest r.id r.fails s
    else if (routePort s r.dst (field r.bytes 8 6 / 128)).isNone then endRequest r.id 5 s
    else
      let reqs := s.pod.reqs.map fun (q : Request) => if q.id == r.id then { q with sent := true } else q
      sendTo r.dst (field r.bytes 8 6 / 128) r.vc (some r.id) none r.bytes { s with pod := { s.pod with reqs := reqs } }

/-- A SIGNAL issued: it is held, and leaves at once when nothing stands before it. -/
def issueSignal (tile : Option Nat) (dst op addr value : Nat) (s : State) : State :=
  let id := s.pod.nextReq
  let unit := unitOf tile
  let k := unit * 64 + dst
  let bs := message 5 dst s.pod.eff.device 0 id op 0 addr 8 (some value) []
  let r : Request := { id := id, tag := id % 2 ^ 16, type := 5, dst := dst, vc := if tile.isSome then 1 else 3, unit := unit
                       bytes := bs, why := .signal, sent := false, signal := true, fails := Tab.get 0 s.pod.bad k }
  releaseSignal id { s with pod := { s.pod with nextReq := id + 1, bad := Tab.set 0 s.pod.bad k 0, reqs := s.pod.reqs ++ [r] } }

/-- SIGNAL_SEND (R345, log 170): a SIGNAL to another module issued, or a held one released. -/
def execSignalSend (k : SignalStep) (s : State) : Host.Outcome State Fault Refusal :=
  match k with
  | .issue tile dst op addr value =>
    if dst = s.pod.eff.device ∨ addr % 8 ≠ 0 ∨ (op ≠ 0 ∧ op ≠ 4) then idle s else .next (issueSignal tile dst op addr value s)
  | .release req => .next (releaseSignal req s)

/-- A COLLECTIVE applied at this member and sent on to its child ranks (R346). -/
def spreadColl (req : Requester) (parent : Option (Nat × Nat × Nat)) (unit vc : Nat) (m : Msg) (s : State) : State :=
  let r := if m.op = 0 then serveWrite req m.addr m.payload s
    else serveAdd req m.addr m.op (2 ^ 64 - 1) m.payload s
  let s := r.1
  let ranks := collRanks m
  let k := (ranks.findIdx? (· == s.pod.eff.device)).getD 0
  let kids := ([2 * k + 1, 2 * k + 2].filterMap fun i => ranks[i]?)
  let id := s.pod.nextReq
  let s := { s with pod := { s.pod with
    nextReq := id + 1
    colls := s.pod.colls ++ [⟨id, parent, kids.length, r.2, unit, m.ext % 2 ^ 64⟩] } }
  let s := kids.foldl (fun s d =>
    if (routePort s d (m.addr / 128)).isSome then
      sendRequest 7 d vc unit m.op m.addr m.len (some m.ext) m.payload (.child id) s
    else collChild id 5 s) s
  collFinish id s

/-- A COLLECTIVE of a unit of this module, as its members will receive it. -/
def rootMsg (own vc op addr mask : Nat) (data : Bytes) : Msg :=
  { rx := ⟨vc, 0, 0, [], []⟩, type := 7, units := 0, dst := own, src := own, hops := 0, tag := 0, op := op, status := 0
    addr := addr, len := data.length, hdr := 0, ext := mask + own * 2 ^ 64, payload := data }

/-- A COLLECTIVE of a unit of this module: its root checks its window first, as every member does (R346). One that the window
refuses ends with the status that a NACK gives (Table 12.3; DEDUCED, log 197). -/
def issueColl (tile : Option Nat) (m : Msg) (s : State) : State :=
  if windowOk s m then
    spreadColl (match tile with | some t => .output t | none => .module) none (unitOf tile) m.rx.vc m s
  else tileSees (unitOf tile) 7 { s with out := s.out ++ [.requestEnd (unitOf tile) 7] }

/-- COLLECTIVE (R346, log 170): received from the parent, or issued by a unit of this module, its root. -/
def execCollective (k : CollStep) (s : State) : Host.Outcome State Fault Refusal :=
  heldRow s fun s =>
  match k with
  | .received p vc => requestRow p vc 7 (fun m => spreadColl (.port p) (some (m.rx.vc, m.src, m.tag)) 0xB000 3 m) s
  | .issue tile op addr mask data =>
    let vc := if tile.isSome then 1 else 3
    let m := rootMsg s.pod.eff.device vc op addr mask data
    if !shapeOk m || !collOk s m then idle s
    else .next (issueColl tile m s)

/-! ### Responses (R337-R339) -/

/-- The outstanding request that a response ends: the one with its tag (R337). -/
def answered (s : State) (m : Msg) : Option Request :=
  s.pod.reqs.find? fun r => r.tag == m.tag && r.sent && r.why != .carried

/-- A response of a type taken from a channel: checked, forwarded, stray, in a channel that is not its request's (R337), or
taken by `run`. -/
def responseRow (p vc type : Nat) (run : Msg → Request → State → State) (s : State) : Host.Outcome State Fault Refusal :=
  match nextMsg s p vc with
  | none => idle s
  | some m =>
    if m.type ≠ type then idle s
    else
      let s := popMsg p m s
      if msgBad s m then .next (msgViolation p 3 m s)
      else if m.dst ≠ s.pod.eff.device then .next (forward p m (hearOn p m s))
      else match answered s m with
        | some r =>
          if m.rx.vc ≠ pairedVc r.vc then .next (msgViolation p 3 m s)
          else .next (run m r (fabricReply p r.vc r.unit ((m.payload.length + 63) / 64) (hearOn p m s)))
        | none => .next { s with pod := { s.pod with stray := s.pod.stray + 1 } }

/-- RESP. -/
def execResp (p vc : Nat) (s : State) : Host.Outcome State Fault Refusal :=
  responseRow p vc 0x80 (fun m r s => endRequest r.id m.status s) s

/-- A READ's data given to its requester (R339): a host read completes; poison completes with EP. -/
def takeData (m : Msg) (r : Request) (s : State) : State :=
  match r.why with
  | .hostRead _ =>
    if m.status = 0 ∨ m.status = 1 then
      let s := { s with out := s.out ++ [.completion (hostReadStatus m.status) m.payload]
                        pod := { s.pod with reqs := s.pod.reqs.filter fun q => !(q.id == r.id) } }
      sendReleased s.pod.reqs.length s
    else endRequest r.id m.status s
  | _ => endRequest r.id m.status s

/-- DATA. -/
def execData (p vc : Nat) (s : State) : Host.Outcome State Fault Refusal := responseRow p vc 0x81 takeData s

/-- MESSAGE_UNKNOWN_TYPE: violation UNKNOWN_MESSAGE (R337). -/
def execMessageUnknownType (p vc : Nat) (s : State) : Host.Outcome State Fault Refusal :=
  match nextMsg s p vc with
  | none => idle s
  | some m =>
    if (1 ≤ m.type ∧ m.type ≤ 7) ∨ m.type = 0x80 ∨ m.type = 0x81 then idle s
    else .next (msgViolation p 3 m (popMsg p m s))

/-! ### MAILBOX (R354) -/

/-- Services of Table 12.7. -/
def knownService (n : Nat) : Bool := decide (1 ≤ n) && decide (n ≤ 7)

/-- MAILBOX: queued and answered OK, or answered BAD_OP, or refused BUSY. HELLO is taken whatever its DST. -/
def execMailbox (p vc : Nat) (s : State) : Host.Outcome State Fault Refusal :=
  match nextMsg s p vc with
  | none => idle s
  | some m =>
    if m.type ≠ 6 then idle s
    else
      let s := popMsg p m s
      let service := bits m.ext 15 0
      let enqueue (s : State) : State := { s with pod := { s.pod with
        mbox := s.pod.mbox ++ [⟨p, m.src, service, bits m.ext 31 16, m.payload⟩] } }
      if msgBad s m then .next (msgViolation p 3 m s)
      else if service = 1 then .next (respondOn p m.src vc m.tag 0 (enqueue s))
      else if !validPartner s p then .next (respondOn p m.src vc m.tag 3 s)
      else if m.dst ≠ s.pod.eff.device then .next (forward p m (hearOn p m s))
      else if !knownService service then .next (respond m.src vc m.tag 6 (hearOn p m s))
      else if 64 ≤ (s.pod.mbox.filter fun q => q.service != 1).length then
        .next (if (port s p).state = 3 then lctl p 2 (fld m.rx.seq 8 12 + fld m.rx.unit 20 4 + fld 0x10 24 8) s else s)
      else .next (respond m.src vc m.tag 0 (enqueue (hearOn p m s)))

/-- The oldest queued message of a service, when it is that service's turn: HELLO at once, the others in arrival order
once the module is READY (Table 12.8). -/
def nextMail (s : State) (service : Nat) : Option MboxMsg :=
  if service = 1 then s.pod.mbox.find? fun m => m.service == 1
  else if s.power.phase = .up then
    match s.pod.mbox.find? fun m => m.service != 1 with
    | some m => if m.service = service then some m else none
    | none => none
  else none

/-- The message taken out of the queue. -/
def popMail (m : MboxMsg) (s : State) : State := { s with pod := { s.pod with mbox := s.pod.mbox.erase m } }

/-- A queued message of a service taken and worked. -/
def mailRow (service : Nat) (run : MboxMsg → State → State) (s : State) : Host.Outcome State Fault Refusal :=
  match nextMail s service with
  | none => idle s
  | some m => .next (run m (popMail m s))

/-- The ports that serve as direct routes to a device. -/
def memberPorts (s : State) (d : Nat) : Nat :=
  (List.range 32).foldl (fun n p => if (port s p).member = some d ∧ (port s p).conflict = false then n + 2 ^ p else n) 0

/-- The automatic routes as the ports now stand (R348). -/
def rebuildRoutes (s : State) : State :=
  { s with pod := { s.pod with routes := s.pod.routes.map fun (d, r) =>
      (d, if r.auto then { r with ports := memberPorts s d, next := d, valid := memberPorts s d != 0 } else r) } }

/-- HELLO: the partner validated and the automatic routes rebuilt, or a conflict (R347, R348). -/
def takeHello (m : MboxMsg) (s : State) : State :=
  let before := reachable s
  let p := m.port
  let id := field m.payload 0 4
  let d := field m.payload 4 1
  let serial := field m.payload 8 8
  let e := s.pod.eff
  let claimed := s.ports.any fun (q, pt) => q != p && pt.member == some d && pt.sess.serial != serial
  if id = e.id ∧ d < 64 ∧ bitB e.members d ∧ d ≠ e.device ∧ claimed = false then
    let s := setPort s p fun pt => { pt with member := some d, conflict := false }
    let s := { s with pod := { s.pod with
      heard := s.pod.heard ||| 2 ^ d
      routes := Tab.upd {} s.pod.routes d fun r => { r with auto := true } } }
    routeChanges before (rebuildRoutes s)
  else
    let s := rebuildRoutes (setPort s p fun pt => { pt with member := none, conflict := true })
    routeChanges before (logEvent 0x0903 (0x7000 + p) (fld id 0 32 + fld d 32 6 + fld serial 64 64) s)

/-- HELLO. -/
def execHello (s : State) : Host.Outcome State Fault Refusal := mailRow 1 takeHello s

/-- A record as it came in EVENT_FWD (Table 18.2). -/
def parseRecord (bs : Bytes) : EvtRec :=
  { time := field bs 0 8, code := field bs 8 2, src := field bs 10 2, sev := bits (field bs 12 1) 3 0
    cont := bitB (field bs 12 1) 4, irq := bitB (field bs 12 1) 5, seq := field bs 13 3, data := field bs 16 16 }

/-- POD_EVENT and the member's record, two consecutive records (R478); suppressed together (R479). -/
def logPodEvent (d : Nat) (r : EvtRec) (s : State) : State :=
  if s.power.timebaseOn && s.ev.full 0x0905 (s.timebase / 1000000) then
    { s with ev := { (s.ev.add 9 0 1 1) with supp := Tab.upd 0 s.ev.supp 0x0905 (· + 1) } }
  else
    let s := logRecord { time := now s, code := 0x0905, src := 0x8000 + d, sev := r.sev, cont := false, irq := r.irq,
                         seq := 0, data := fld d 0 6 + fld r.seq 32 24 } s
    { s with ev := s.ev.enter { r with cont := true, irq := false } (beforeStage1End s) none }

/-- EVENT_FWD: the head logs the member's event (R353). A head never forwards a POD_EVENT. -/
def execEventFwd (s : State) : Host.Outcome State Fault Refusal :=
  mailRow 6 (fun m s =>
    let s := hear m.src s
    if s.pod.eff.head = s.pod.eff.device then logPodEvent m.src (parseRecord m.payload) s else s) s

/-! ### Time -/

/-- REQUEST_TIMEOUT: no response 100 ms after the header entered a flit (R341). -/
def execRequestTimeout (req : Nat) (s : State) : Host.Outcome State Fault Refusal :=
  match s.pod.reqs.find? fun r => r.id == req with
  | some r => if r.sent ∧ r.why ≠ .carried then .next (endRequest req 8 s) else idle s
  | none => idle s

/-- BUSY_RETRY: the refused message is sent again, or, refused 100 times again, ends with every message it holds back
(R342). -/
def execBusyRetry (req : Nat) (s : State) : Host.Outcome State Fault Refusal :=
  match s.pod.reqs.find? fun r => r.id == req with
  | none => idle s
  | some r =>
    if !r.refused then idle s
    else if 100 < r.busy then
      let behind := s.pod.reqs.filter fun q => q.dst == r.dst && q.unit == r.unit && !q.sent && decide (r.id < q.id)
      .next (endRequest r.id 10 (endRequests (behind.map (·.id)) 10 s))
    else if (routePort s r.dst (field r.bytes 8 6 / 128)).isNone ∧ r.dst < 64 then .next (dropMessage r.vc (some r.id) r.fwd r.bytes s)
    else
      let reqs := s.pod.reqs.map fun (q : Request) => if q.id == r.id then { q with refused := false } else q
      let s := { s with pod := { s.pod with reqs := reqs } }
      .next (if 64 ≤ r.dst then sendOn (r.dst - 64) r.vc (some r.id) none r.bytes s
        else sendTo r.dst (field r.bytes 8 6 / 128) r.vc (some r.id) r.fwd r.bytes s)

/-- POD_MEMBER_MISSING, once until the member can be reached again (R355). -/
def execPodMemberMissing (d : Nat) (s : State) : Host.Outcome State Fault Refusal :=
  if 64 ≤ d ∨ bitB s.pod.eff.members d = false ∨ d = s.pod.eff.device ∨ (reachable s).contains d
      ∨ bitB s.pod.missing d ∨ s.power.phase ≠ .up then idle s
  else
    .next (logEvent 0x0906 (0x8000 + d) 0 { s with pod := { s.pod with missing := s.pod.missing ||| 2 ^ d } })

end Sys2Proof.Machine
end

