-- ==== Sys2Proof/Machine/Objects.lean ====
section
/-! DEFINITION. What the Cobbler computes about its objects: the configuration record and its fingerprint (R293, R401),
stale Lasts (R295), address ranges of a command (R202, Table 7.1) and reads of a pod global range. -/

namespace Sys2Proof.Machine

/-! ### Configuration record -/

/-- The configuration record (R401), 326 bytes. -/
def configRecord (s : State) : Bytes :=
  ((List.range 256).map fun t => BitVec.ofNat 8 (Tab.get {} s.tiles.stat t).width)
    ++ ((List.range 64).map fun i => BitVec.ofNat 8 ((List.range 4).foldl (fun n k =>
        n + (shankOf s (4 * i + k)).mode * 4 ^ k) 0))
    ++ natLE 2 (mask32 12 fun i => (sideOf s i).state == 0 && !(sideOf s i).ledger)
    ++ natLE 4 s.pace.portSet

/-- The configuration fingerprint (R293). -/
def fingerprint (s : State) : Nat := field (sha512 (configRecord s)) 0 8

/-- The fingerprint has changed: with a Last installed, LAST_STALE is logged and every registered Last that no longer
matches becomes stale (R295). -/
def noteStale (s : State) : State :=
  match s.obj.installed with
  | none => s
  | some id =>
    let fp := fingerprint s
    let lasts := s.obj.lasts.map fun (k, l) =>
      (k, l.map fun (l : LastInfo) => if l.fp = fp then l else { l with stale := true })
    let tag := match Tab.get none s.obj.lasts id with | some l => l.tag | none => 0
    logEvent 0x0701 0 (fld tag 0 16 + fld fp 64 64) { s with obj := { s.obj with lasts := lasts } }

/-- A change of the module's configuration, with what it does to Lasts. -/
def reconfigure (f : State → State) (s : State) : State :=
  let s' := f s
  if configRecord s' = configRecord s then s' else noteStale s'

/-! ### Ranges -/

/-- Two ranges share a byte. -/
def overlaps (a n b m : Nat) : Bool := decide (a < b + m) && decide (b < a + n)

/-- A range lies wholly in this module's stack memory. -/
def inStack (s : State) (a n : Nat) : Bool := decide (a + n ≤ columnBytes * stackW s)

/-- A range lies wholly in side stacks that are present. -/
def inSides (s : State) (a n : Nat) : Bool :=
  decide (sideBase ≤ a) && decide (a + n ≤ sideBase + 12 * 2 ^ 37)
    && (List.range 12).all fun i => !(sideOf s i).ledger || !overlaps a n (sideBase + i * 2 ^ 37) (2 ^ 37)

/-- A range lies wholly in this module's stack or side-stack memory. -/
def inMemory (s : State) (a n : Nat) : Bool := inStack s a n || inSides s a n

/-- Device and device address of a pod global address (R202). -/
def podDevice (a : Nat) : Nat := bits a 53 48
def podOffset (a : Nat) : Nat := bits a 47 0

/-- The address names this module. -/
def isLocal (s : State) (a : Nat) : Bool := podDevice a == s.pod.eff.device

/-- A pod global range that lies wholly in this module's memory. -/
def localRange (s : State) (a n : Nat) : Bool := isLocal s a && inMemory s (podOffset a) n

/-- A device range lies in one of the memory regions of Table 7.1, whatever stacks the module has. -/
def inMap (a n : Nat) : Bool :=
  decide (a + n ≤ columnBytes * 256) || (decide (sideBase ≤ a) && decide (a + n ≤ sideBase + 12 * 2 ^ 37))

/-- A pod global range that is this module's memory, or memory of another member by Table 7.1 (which of it is there the far
end judges). -/
def podRange (s : State) (a n : Nat) : Bool :=
  (if isLocal s a then inMemory s (podOffset a) n
    else bitB s.pod.eff.members (podDevice a) && inMap (podOffset a) n)

/-- A range overlaps a region that is lent or claimed by a LEND in progress. -/
def overLent (s : State) (a n : Nat) : Bool :=
  s.obj.lends.any fun (_, l) => match l with | some r => overlaps a n r.base r.len | none => false

/-- A range overlaps a pin. -/
def overPin (s : State) (a n : Nat) : Bool :=
  s.obj.pins.any fun (_, p) => match p with | some (b, m) => overlaps a n b m | none => false

/-- A range overlaps one that a discard in progress claims. -/
def overDiscard (s : State) (a n : Nat) : Bool := s.obj.discards.any fun d => overlaps a n d.base d.len

/-! ### Reads and writes of a pod global range -/

/-- A pod global range as the Cobbler reads it: bytes, whether some of it is poison, and the reason with which the read
failed (0 for none). -/
structure PodRead where
  data   : Bytes := []
  poison : Bool := false
  reason : Nat := 0
  deriving DecidableEq, Repr

/-- The reason of Table 14.5 for a refused local access. -/
def accessReason : Access → Nat
  | .ok => 0
  | .hole => 0x0106
  | .lent _ => 0x030C

/-- A requester as the unit of a request to another module (Table 18.3). -/
def remoteUnit (req : Requester) : Nat := if req = .module then 0xB000 else reqUnit req

/-- A range cut at 4 KiB boundaries, as READ messages ask for it. -/
def readBlocks : Nat → Nat → Nat → List (Nat × Nat)
  | 0, _, _ => []
  | k + 1, a, n =>
    if n = 0 then []
    else
      let m := min n (4096 - a % 4096)
      (a, m) :: readBlocks k (a + m) (n - m)

/-- The status with which a READ ends: that of its first line which is not read, else POISON or OK. -/
def blockStatus (rd : Remote) (a n : Nat) : Nat :=
  let ls := (lineRange a n).map fun l => (remoteLine rd l).status
  match ls.find? fun st => decide (1 < st) with
  | some st => st
  | none => if ls.contains 1 then 1 else 0

/-- A range read: locally at its homes, remotely by READ messages, up to the first that fails (R202, R344). -/
def podRead (req : Requester) (a n : Nat) (rd : Remote) (s : State) : State × PodRead :=
  if isLocal s a then
    let r := readRange req (podOffset a) n s
    (r.1, ⟨r.2.data, r.2.poison, accessReason r.2.access⟩)
  else
    (readBlocks (n + 1) a n).foldl (fun (acc : State × PodRead) (x, m) =>
      if acc.2.reason ≠ 0 then acc
      else
        let r := exchange 1 (podDevice x) (reqVc req) (remoteUnit req) 0 (podOffset x) m none [] (blockStatus rd x m) acc.1
        if 1 < r.2 then (r.1, { acc.2 with reason := statusReason r.2 })
        else (r.1, (lineRange x m).foldl (fun (k : PodRead) line =>
          let l := remoteLine rd line
          let lo := if line < x then x - line else 0
          let hi := min 128 (x + m - line)
          { k with data := k.data ++ slice l.data lo (hi - lo)
                   poison := k.poison || (l.poison &&& sectorMask line x m) != 0 }) acc.2)) (s, {})

/-- What the Cobbler's reads of some ranges leave, whatever it makes of the bytes: a range that is no memory is not read. -/
def readAhead (rs : List (Nat × Nat)) (rd : Remote) (s : State) : State :=
  rs.foldl (fun s (a, n) => if podRange s a n then (podRead .module a n rd s).1 else s) s

/-- A command whose check reads memory: the reads happen, then the check runs on what they found (R237, R386); nothing while a
read waits. -/
def readingCommand (o : Origin) (code : Nat) (reads : Bytes → State → List (Nat × Nat)) (rd : Remote)
    (check : Bytes → State → List Fail) (run : Bytes → State → State) (s : State) : State :=
  match accepted s o code with
  | none => s
  | some a => heldBack (fun s => command o code check run (readAhead (reads a.payload s) rd s)) s

/-- The first index 0, 1, … below `n` that a test holds for. -/
def firstFree (n : Nat) (used : Nat → Bool) : Option Nat := (List.range n).find? fun i => !used i

/-- Number of entries present in a table of objects. -/
def Tab.live {α : Type} (t : Tab (Option α)) : Nat := (t.filter fun (_, v) => v.isSome).length

/-- An object by its number. -/
def obj {α : Type} (t : Tab (Option α)) (k : Nat) : Option α := Tab.get none t k

/-- A table of objects with one put in or taken out. -/
def setObj {α : Type} [DecidableEq α] (t : Tab (Option α)) (k : Nat) (v : Option α) : Tab (Option α) := Tab.set none t k v

end Sys2Proof.Machine
end

