-- ==== Sys2Proof/Machine/Mailbox.lean ====
section
/-! DEFINITION. The mailbox scan (R381-R388), the SUMMARY page (R400), its directory, and STAGE_REPORT (R408). -/

namespace Sys2Proof.Machine

/-! ### Acceptance -/

/-- SUMMARY and STAGE_REPORT run before READY (R385). -/
def earlyCommand (code : Nat) : Bool := code == 0x0001 || code == 0x0002

/-- How a posted command is received: 0 accepted, else the status and reason of its immediate answer. -/
structure Receipt where
  status : Nat
  reason : Nat
  deriving DecidableEq, Repr

/-- Why a command with code and payload is answered at once (R385, R388). -/
def receive (s : State) (code len : Nat) (pl : Bytes) : Option Receipt :=
  if ready s = false ∧ earlyCommand code = false then some ⟨4, 0x0301⟩
  else match commandLengthOf code pl with
    | none => some ⟨2, 0x0101⟩
    | some n => if len < n ∨ 4032 < len then some ⟨2, 0x0102⟩ else none

/-- The reply of an immediate answer (R387). -/
def Receipt.reply (r : Receipt) : Bytes := if r.status = 2 then failReply ⟨r.reason, none, none⟩ else []

/-- A slot's post refused without acceptance (R383). -/
def refusePost (n : Nat) (c : Slot) (reason : Nat) (s : State) : State :=
  let c' := c.answered 2 reason (failReply ⟨reason, none, none⟩) (now s)
  let s := { s with mail := { s.mail with slots := Tab.set {} s.mail.slots n c' } }
  let s := traceRec 0x08 0xB000 (mailboxTrace n true c.cmd c.seq 2 reason) s
  if c.irq then raise (64 + n) s else s

/-- A command put among the accepted ones (step 4 of Table 14.2), answered at once where `receive` says so. -/
def enlist (a : Accepted) (len : Nat) (s : State) : State :=
  let n := match a.origin with | .slot n => n | .relay _ _ => 0
  let s := { (tally 9 0 6 1 s) with mail := { s.mail with accepted := s.mail.accepted ++ [a] } }
  let s := traceRec 0x08 0xB000 (mailboxTrace n false a.cmd a.seq 0 0) s
  match receive s a.cmd len a.payload with
  | some r => answer a.origin r.status r.reason r.reply s
  | none => s

/-- One slot scanned (R382, R383). A slot whose earlier command still runs unanswered after an FLR waits (log 35). -/
def scanSlot (s : State) (n : Nat) : State :=
  let c := Tab.get {} s.mail.slots n
  if c.commit ≠ 1 ∨ (s.mail.accepted.any fun a => a.origin == .slot n) then s
  else if c.cseq ≠ c.seq % 2 ^ 16 then refusePost n c 0x010D s
  else if Tab.get none s.mail.lastSeq n = some c.seq then refusePost n c 0x0309 s
  else
    let a : Accepted := { origin := .slot n, cmd := c.cmd, seq := c.seq, irq := c.irq
                          payload := getBytes c.payload 0 (min c.len 4032), started := false, accepted := now s }
    let c' := { c with commit := 2, tAccept := now s }
    enlist a c.len { s with mail := { s.mail with
      slots := Tab.set {} s.mail.slots n c'
      lastSeq := Tab.set none s.mail.lastSeq n (some c.seq) } }

/-- The Cobbler runs: power is up, and firmware has started. -/
def cobblerUp (s : State) : Bool := s.power.imageUp && (match s.power.phase with | .bringup _ => true | .up => true | _ => false)

/-- MAILBOX_SCAN: slots 0 to 63 in order. -/
def execMailboxScan (s : State) : Host.Outcome State Fault Refusal :=
  if cobblerUp s then .next ((List.range 64).foldl scanSlot s) else idle s

/-! ### SUMMARY -/

/-- Bytes of a bitmap. -/
def bitmap (n : Nat) (f : Nat → Bool) : Bytes :=
  (List.range (n / 8)).map fun i => BitVec.ofNat 8 (mask32 8 fun k => f (8 * i + k))

/-- The directory (R400), 10,880 bytes. -/
def directory (s : State) : Bytes :=
  let o := s.obj
  let on {α : Type} (t : Tab (Option α)) (f : α → Bool) (k : Nat) : Bool := ((obj t k).map f).getD false
  let any {α : Type} (t : Tab (Option α)) (k : Nat) : Bool := (obj t k).isSome
  bitmap 4096 (any o.models) ++ bitmap 8192 (any o.tasks) ++ bitmap 8192 (on o.tasks (·.enabled))
    ++ bitmap 32 (any o.classes) ++ bitmap 32 (on o.classes (·.enabled))
    ++ bitmap 256 (any o.streams) ++ bitmap 256 (on o.streams (·.enabled))
    ++ bitmap 64 (any o.intakes) ++ bitmap 64 (on o.intakes (·.enabled))
    ++ bitmap 64 (any o.compls) ++ bitmap 64 (on o.compls (·.enabled))
    ++ bitmap 64 (on o.lends (·.lent)) ++ bitmap 64 (any o.pins) ++ bitmap 8 (any o.lasts) ++ zeros 7
    ++ bitmap 65536 (any o.seqs)

/-- Objects of a table that a test holds for. -/
def countObj {α : Type} (t : Tab (Option α)) (f : α → Bool) : Nat :=
  (t.filter fun (_, v) => (v.map f).getD false).length

/-- Awl runs queued or running. -/
def runCount (s : State) : Nat := s.awls.queue.length + b2n s.awls.cur.isSome

/-- Sum of every ARRAY_WIDTH. -/
def totalWidth (s : State) : Nat := (s.tiles.stat.map fun (_, t) => t.width).foldl (· + ·) 0

/-- Task of the submission in progress. -/
def runningTask (s : State) : Nat :=
  match s.sched.running.find? fun r => r.cls.isNone with
  | some r => r.task
  | none => 0xFFFFFFFF

/-- Table 14.11, bytes 0 to 99: identity, snapshot, clock, pace, state and what is out of service. -/
def summaryModule (s : State) : Bytes :=
  let u := List.range 256
  identBlock s ++ natLE 8 s.tele.snap ++ natLE 8 (now s) ++ natLE 8 (paceCtl s)
    ++ natLE 1 (stateByte s) ++ natLE 1 s.ev.why
    ++ natLE 2 (u.filter fun t => (Tab.get {} s.tiles.stat t).width == 0).length
    ++ natLE 1 (u.filter fun t => (shankOf s t).mode == 2 || s.bring.retired.contains t).length
    ++ natLE 1 (u.filter fun t => (shankOf s t).mode == 1 && !s.bring.retired.contains t).length
    ++ natLE 1 (s.ports.filter fun (_, p) => p.state == 5).length ++ zeros 1

/-- Table 14.11: the fingerprint, the widths, the firmware and the temperatures, flow and shutdown. -/
def summaryCondition (s : State) : Bytes :=
  natLE 8 (fingerprint s) ++ natLE 4 (totalWidth s) ++ natLE 2 (stackW s) ++ zeros 2
    ++ natLE 4 (fld s.fw.step 0 3 + fld (b2n s.fw.interrupted) 3 1) ++ natLE 4 s.fw.stagedVer ++ zeros 8
    ++ natLE 1 (degC (tempBase s)) ++ natLE 1 (degC (tempTier s)) ++ natLE 1 (degC (tempSide s))
    ++ natLE 1 (degC s.coolant.inlet) ++ natLE 1 (degC s.coolant.outlet) ++ natLE 2 (flowField s)
    ++ natLE 1 s.coolant.pump ++ natLE 1 s.coolant.valve ++ natLE 1 (thermalFlags s) ++ natLE 1 s.shut.cause ++ zeros 3
    ++ natLE 4 s.thermal.tts ++ zeros 46

/-- Table 14.11: counts of the objects and of the submissions. -/
def summaryObjects (s : State) : Bytes :=
  let o := s.obj
  natLE 2 (Tab.live o.models) ++ natLE 2 (Tab.live o.tasks) ++ natLE 2 (countObj o.tasks (·.enabled))
    ++ natLE 1 (countObj o.classes (·.enabled)) ++ natLE 1 (Tab.live o.pools) ++ natLE 4 (Tab.live o.seqs)
    ++ natLE 2 (countObj o.streams (·.enabled)) ++ natLE 1 (countObj o.intakes (·.enabled))
    ++ natLE 1 (countObj o.compls (·.enabled)) ++ natLE 1 (countObj o.lends (·.lent)) ++ natLE 1 (Tab.live o.pins)
    ++ natLE 1 (Tab.live o.lasts) ++ natLE 1 (o.installed.getD 0xFF)
    ++ natLE 4 (submissions s) ++ natLE 2 s.sched.ready.length ++ natLE 1 s.sched.windows.length
    ++ natLE 1 (runCount s) ++ natLE 4 (runningTask s) ++ zeros 32

/-- Table 14.11: the pod and the stage reports. -/
def summaryPod (s : State) : Bytes :=
  natLE 4 s.pod.eff.id ++ natLE 1 s.pod.eff.device ++ natLE 1 s.pod.eff.head ++ zeros 2 ++ natLE 8 s.pod.eff.members
    ++ natLE 8 ((reachable s).foldl (fun n d => n + 2 ^ d) 0) ++ natLE 8 s.pod.heard
    ++ natLE 1 (b2n (s.pod.stored != s.pod.eff)) ++ zeros 31
    ++ ((List.range 5).map (stageReport s)).flatten ++ zeros 64

/-- Table 14.11: the status word of every tile, shank, side stack, tier and port. -/
def summaryUnits (s : State) : Bytes :=
  ((List.range 256).map fun t => natLE 2 (tileStat s t)).flatten ++ ((List.range 256).map fun t => natLE 4 (shankStat s t)).flatten
    ++ ((List.range 12).map fun i => natLE 4 (sideStat s i)).flatten
    ++ ((List.range 8).map fun i => natLE 4 (tierStat s i)).flatten
    ++ ((List.range 32).map fun p => natLE 16 (portStat s p)).flatten

/-- Table 14.11: last SEQ of each mailbox slot, the newest events and the configuration record. -/
def summaryTail (s : State) : Bytes :=
  ((List.range 64).map fun n => natLE 4 ((Tab.get none s.mail.lastSeq n).getD 0)).flatten
    ++ ((List.range 16).map fun i => match s.ev.recent[i]? with | some r => r.bytes | none => zeros 32).flatten
    ++ configRecord s ++ zeros 170

/-- The SUMMARY page (Table 14.11), 4,096 bytes. -/
def summaryPage (s : State) : Bytes :=
  summaryModule s ++ summaryCondition s ++ summaryObjects s ++ summaryPod s ++ summaryUnits s ++ summaryTail s

/-- A new snapshot: SNAP moves on to the next even value (R400). -/
def snapshot (s : State) : State :=
  let s := { s with tele := { s.tele with snap := (s.tele.snap + 2) % 2 ^ 64 } }
  { s with tele := { s.tele with page := summaryPage s } }

/-- SUMMARY_SNAPSHOT, from stage 1 onward. -/
def execSummarySnapshot (s : State) : Host.Outcome State Fault Refusal :=
  match s.power.phase with
  | .bringup 0 => idle s
  | .bringup _ | .up => .next (snapshot s)
  | _ => idle s

/-- A pod global range cut at 4 KiB boundaries, as WRITE messages carry it. -/
def podPieces : Nat → Nat → Bytes → List (Nat × Bytes)
  | 0, _, _ => []
  | k + 1, a, bs =>
    if bs.isEmpty then []
    else
      let n := 4096 - a % 4096
      (a, bs.take n) :: podPieces k (a + n) (bs.drop n)

/-- Pieces sent to a module as WRITE messages of a unit, and the reason of the first that does not end OK (R339). -/
def writePieces (dst vc unit : Nat) (ps : List (Nat × Bytes)) (rd : Remote) (s : State) : State × Nat :=
  ps.foldl (fun (acc : State × Nat) (x, b) =>
    let r := exchange 2 dst vc unit 0 x b.length none b (blockStatus rd (dst * 2 ^ 48 + x) b.length) acc.1
    (r.1, if acc.2 = 0 then endReason r.2 else acc.2)) (s, 0)

/-- A range written for a work entry: at its homes, or by WRITE messages whose ends its row brings. -/
def podWrite (a : Nat) (bs : Bytes) (rd : Remote) (s : State) : State × Nat :=
  if isLocal s a then
    let r := writeRange .module (podOffset a) (bs.map some) false s
    (r.1, accessReason r.2)
  else writePieces (podDevice a) 3 0xB000 (podPieces (bs.length + 1) (podOffset a) bs) rd s

/-- A command whose last act is a write of bytes to a pod global address: OK with its reply, or FAILED when the write is
refused. To another module the bytes go as WRITE messages, and the command answers once they have ended (R339). -/
def answerStored (o : Origin) (reply : Bytes) (a : Nat) (bs : Bytes) (s : State) : State :=
  if isLocal s a then
    let r := writeRange .module (podOffset a) (bs.map some) false s
    if r.2 = .ok then answerOk o reply r.1 else fail o ⟨accessReason r.2, none, none⟩ r.1
  else if (routePorts s (podDevice a)).isEmpty then fail o ⟨0x0601, none, none⟩ s
  else
    (podPieces (bs.length + 1) (podOffset a) bs).foldl (fun s (x, b) =>
      sendRequest 2 (podDevice a) 3 0xB000 0 x b.length none b (.store o reply) s) (begin' o s)

/-- The reason for which an address cannot be the target of a command's write; `bit` is the field's place. -/
def destFail (s : State) (a n bit : Nat) : List Fail := failIf (!podRange s a n) 0x0106 bit

/-- Check of SUMMARY. -/
def checkSummary (pl : Bytes) (s : State) : List Fail :=
  let a := field pl 0 8
  reservedFail (pl.take 9) [(0, 54), (64, 1)]
    ++ (if a = 0 then [] else destFail s a (if bitB (field pl 8 1) 0 then 4096 + 10880 else 4096) 0)

/-- SUMMARY run: a new snapshot, copied with its directory where asked. -/
def runSummary (o : Origin) (pl : Bytes) (s : State) : State :=
  let a := field pl 0 8
  let s := snapshot s
  let reply := natLE 8 s.tele.snap
  if a = 0 then answerOk o reply s
  else answerStored o reply a (s.tele.page ++ if bitB (field pl 8 1) 0 then directory s else []) s

/-- SUMMARY. -/
def execSummary (o : Origin) (s : State) : Host.Outcome State Fault Refusal :=
  .next (command o 0x0001 checkSummary (runSummary o) s)

/-- STAGE_REPORT. -/
def execStageReport (o : Origin) (s : State) : Host.Outcome State Fault Refusal :=
  .next (command o 0x0002
    (fun pl _ => failIf (4 < field pl 0 1 && field pl 0 1 != 0xFF) 0x0104 (some 0))
    (fun pl s => answerOk o (if field pl 0 1 = 0xFF then ((List.range 5).map (stageReport s)).flatten
      else stageReport s (field pl 0 1)) s) s)

end Sys2Proof.Machine
end

