-- ==== Sys2Proof/Machine/L1.lean ====
section
/-! DEFINITION. The L1 of a tile (R250-R252): write-back and invalidation at fences, at mode changes and at the end of
a tile program. -/

namespace Sys2Proof.Machine

/-- The dirty bytes of a held line, as a masked line write. -/
def L1Line.masked (l : L1Line) : List (Option Byte) :=
  (List.range 128).map fun i => if bitB l.dirty i then some (l.data.getD i 0) else none

/-- The tile's results of the operation in progress are poison (R99). -/
def tileBad (s : State) (t : Nat) : Bool := match s.sched.op with | some op => op.residue.contains t | none => false

/-- Bytes of a line written to another module as WRITE messages that nothing waits for; one that no route takes has ended
UNREACHABLE, which a later SIGNAL of the tile reports (R345, R349). Their ends reach the tile (R339). -/
def postPieces (dst unit : Nat) (ps : List (Nat × Bytes)) (s : State) : State :=
  ps.foldl (fun s (x, b) =>
    if (routePort s dst (x / 128)).isSome then sendRequest 2 dst 1 unit 0 x b.length none b .posted s
    else tileSees unit 5 (noteFailure (unsent s.pod.nextReq 2 dst unit) 5 s)) s

/-- A tile has written sectors of a line in the operation in progress (R99). -/
def noteWrote (t line sectors : Nat) (s : State) : State :=
  setTile t (fun k => { k with wrote := if k.wrote.contains (line, sectors) then k.wrote else k.wrote ++ [(line, sectors)] }) s

/-- A dirty line written back at its home, or as WRITE messages to another module; whether its home refused it. `rd` brings
the ends of these WRITEs to the command that waits for them. Results of a tile with a residue mismatch are poison: stamped
at a local home, and not sent to another module (R99, log 34). -/
def l1WriteBack (t : Nat) (l : L1Line) (rd : Option Remote) (s : State) : State × Bool :=
  if l.dirty = 0 then (s, false)
  else
    let s := noteWrote t l.addr (maskedSectors l.masked) s
    if isLocal s l.addr then
      let r := homeWrite (.tile t) (podOffset l.addr) l.masked (if tileBad s t then maskedSectors l.masked else 0)
        (tally 1 t 6 1 s)
      (r.1, r.2 != .ok)
    else if tileBad s t then (s, false)
    else
      let ps := (byteRuns l.masked).map fun (o, bs) => (podOffset l.addr + o, bs)
      let s := tally 1 t 7 1 s
      match rd with
      | some rd => let r := writePieces (podDevice l.addr) 1 (0x1000 + t) ps rd s; (r.1, r.2 != 0)
      | none => (postPieces (podDevice l.addr) (0x1000 + t) ps s, false)

/-- A home's acknowledgement of a line that a fence has written back, on CTL (Table 10.2). -/
def fenceAck (t : Nat) (l : L1Line) (s : State) : State :=
  if l.dirty ≠ 0 && isLocal s l.addr then meshSend (locate s (podOffset l.addr)).home (.tile t) 0 1 s else s

/-- The write-back of a line finds its tile and the line's home within their limits (R260). -/
def mayWriteBack (s : State) (t : Nat) (l : L1Line) : Bool :=
  l.dirty == 0 || (if isLocal s l.addr then mayHold s (.tile t) (locate s (podOffset l.addr)) else mayIssue s (.tile t))

/-- A tile's L1 written back and invalidated; whether a home refused a line (R252). Dirty lines beyond a limit stay until their
requests may leave (R260). -/
def fenceTile (t : Nat) (rd : Option Remote) (s : State) : State × Bool :=
  let r := (tileOf s t).l1.foldl (fun (acc : State × Bool × List L1Line) l =>
    if mayWriteBack acc.1 t l then
      let k := l1WriteBack t l rd acc.1
      (fenceAck t l k.1, acc.2.1 || k.2, acc.2.2)
    else (acc.1, acc.2.1, acc.2.2 ++ [l])) (s, false, [])
  (setTile t (fun k => { k with l1 := r.2.2 }) r.1, r.2.1)

/-- A tile's fence has yet to end: dirty lines are left, or writes and add-to-lines are not acknowledged (R252). -/
def fencing (s : State) (t : Nat) : Bool := !(tileOf s t).l1.isEmpty || unacked s t

/-- The fence of every tile has ended (R82, R252). -/
def allFenced (s : State) : Bool :=
  (s.tiles.tile.all fun (_, k) => k.l1.isEmpty) && !((outstanding s).any fun q => (reqTile q.1).isSome && !q.2)
    && !s.pod.reqs.any fun r => r.unit / 0x1000 == 1 && r.type != 1

/-- A tile's L1 written back and invalidated. -/
def flushL1 (t : Nat) (s : State) : State := (fenceTile t none s).1

/-- Every tile's L1 written back and invalidated (Tables 2.7 and 10.5, step 1). -/
def flushAllL1 (s : State) : State := (s.tiles.tile.map (·.1)).foldl (fun s t => flushL1 t s) s

end Sys2Proof.Machine
end

