-- ==== Sys2Proof/Machine/Complete.lean ====
section
/-! DEFINITION. What every kind of work shares: the completion records and their areas (R392, R396, R397), the order
within an intake area (R395), and the runtime measurements (R470). -/

namespace Sys2Proof.Machine

/-! ### Completion records -/

/-- What a completion record reports (Table 14.9). -/
structure Rec where
  kind   : Nat
  status : Nat
  reason : Nat := 0
  obj    : Nat := 0
  opTag  : Nat := 0
  tag    : Nat := 0
  detail : Nat := 0
  deriving DecidableEq, Repr

/-- The record with its phase bit 0. -/
def Rec.bytes (r : Rec) (time : Nat) : Bytes :=
  natLE 32 (fld r.kind 0 4 + fld r.status 4 4 + fld r.reason 8 16 + fld r.obj 32 16
    + fld r.opTag 48 16 + fld r.tag 64 32 + fld r.detail 96 32 + fld time 128 64)

/-- Entries of an area. -/
def Compl.size (c : Compl) : Nat := 2 ^ c.log2

/-- Records written, or reserved and not yet written, that the host has not consumed. -/
def Compl.inUse (c : Compl) : Nat := (c.written + c.reserved + 2 ^ 32 - c.host) % 2 ^ 32

/-- A completion area's record. -/
def complOf (s : State) (a : Nat) : Option Compl := obj s.obj.compls a

/-- The state with a completion area changed. -/
def setCompl (a : Nat) (f : Compl → Compl) (s : State) : State :=
  { s with obj := { s.obj with compls := setObj s.obj.compls a ((complOf s a).map f) } }

/-- An area can reserve one more record (R397). -/
def areaHasRoom (s : State) (a : Nat) : Bool :=
  match complOf s a with | some c => c.enabled && decide (c.inUse < c.size) | none => false

/-- One record reserved. -/
def reserve (a : Nat) (s : State) : State := setCompl a (fun c => { c with reserved := c.reserved + 1 }) s

/-- Bytes written to an area in host or device memory. -/
def areaWrite (device : Bool) (addr : Nat) (bs : Bytes) (s : State) : State :=
  if device then storeBytes (podOffset addr) bs s else hostWrite addr bs false false s

/-- A record written with the phase of its count, then the module count (R396); the area's vector is raised, and the
record traced. `held` says that a record had been reserved for it. -/
def writeRaw (a : Nat) (bs : Bytes) (held : Bool) (s : State) : State :=
  match complOf s a with
  | none => s
  | some c =>
    let bs := natLE 32 (leNat bs + fld (c.written / c.size + 1) 31 1)
    let s := areaWrite c.device (c.base + 64 + 32 * (c.written % c.size)) bs s
    let n := (c.written + 1) % 2 ^ 32
    let s := setCompl a (fun c => { c with written := n, reserved := c.reserved - b2n held }) s
    let s := areaWrite c.device (c.base + 8) (natLE 4 n) s
    let s := traceRec 0x0D 0 (field bs 0 16) (tally 9 0 5 1 s)
    if c.vector = 0 then s else raise c.vector s

/-- One record written to an area. -/
def writeRecord (a : Nat) (r : Rec) (held : Bool) (s : State) : State := writeRaw a (r.bytes (now s)) held s

/-- Records that wait for space in an area, oldest first. -/
def waitingRecords (s : State) (a : Nat) : List Waiter := ((complOf s a).map (·.order)).getD []

/-- A record joins those that wait in an area. -/
def enqueueRecord (a : Nat) (w : Waiter) (s : State) : State := setCompl a (fun c => { c with order := c.order ++ [w] }) s

/-- The oldest waiting record of an area written (R396, R397): a work entry's leaves with it. `held` says that a reserved
record serves it. -/
def writeOldest (a : Nat) (held : Bool) (s : State) : State :=
  match waitingRecords s a with
  | [] => s
  | w :: _ =>
    let s := setCompl a (fun c => { c with order := c.order.drop 1 }) s
    match w with
    | .sub id =>
      writeRaw a (((s.sched.subs.find? fun u => u.id == id).bind (·.fin)).getD []) held
        { s with sched := { s.sched with subs := s.sched.subs.filter fun u => !(u.id == id) } }
    | .cls i =>
      let c := obj s.obj.classes i
      writeRaw a ((c.map fun c => c.held.headD []).getD []) held
        { s with obj := { s.obj with classes := setObj s.obj.classes i (c.map fun c => { c with held := c.held.drop 1 }) } }

/-- Waiting records of an area written as far as it has room. -/
def flushArea (a : Nat) : Nat → State → State
  | 0, s => s
  | n + 1, s => if areaHasRoom s a then flushArea a n (writeOldest a false s) else s

/-- A work entry completed: its record written to its area and the entry taken out; a record that has no place, or that
completes behind one that waits, waits too (R397). A place reserved for it then serves the oldest (R396). -/
def finishSub (id : Nat) (r : Sub → Rec) (s : State) : State :=
  match s.sched.subs.find? fun u => u.id == id with
  | none => s
  | some u =>
    if (u.reserved || areaHasRoom s u.compl) && (waitingRecords s u.compl).isEmpty then
      writeRecord u.compl (r u) u.reserved
        { s with sched := { s.sched with subs := s.sched.subs.filter fun u => !(u.id == id) } }
    else
      let bs := (r u).bytes (now s)
      let s := enqueueRecord u.compl (.sub id) { s with sched := { s.sched with
        subs := s.sched.subs.map fun u => if u.id == id then { u with fin := some bs, reserved := false } else u } }
      if u.reserved then writeOldest u.compl true s else s

/-- A work entry's record. -/
def subOf (s : State) (id : Nat) : Option Sub := s.sched.subs.find? fun u => u.id == id

/-- The state with a work entry changed. -/
def setSub (id : Nat) (f : Sub → Sub) (s : State) : State :=
  { s with sched := { s.sched with subs := s.sched.subs.map fun u => if u.id == id then f u else u } }

/-- The work entry starts: its completion record is reserved (R397). -/
def startSub (id : Nat) (s : State) : State :=
  match subOf s id with
  | none => s
  | some u => setSub id (fun u => { u with started := true, reserved := true }) (reserve u.compl s)

/-- A stream transfer out of device memory. -/
def streamOut (s : State) (u : Sub) : Bool :=
  u.kind == 2 && ((obj s.obj.streams u.obj).map (·.out)).getD false

/-- An earlier entry of the same area on which a later one depends (R395). -/
def dependsOn (s : State) (u v : Sub) : Bool :=
  decide (v.id < u.id) && u.area.isSome && v.area == u.area
    && (if u.kind = 1 then v.kind == 2 else streamOut s u && (v.kind == 1 || v.kind == 3))

/-- Every entry that an entry depends on has completed. -/
def depsDone (s : State) (u : Sub) : Bool := !(s.sched.subs.any fun v => dependsOn s u v)

/-- The entry may start: nothing before it is open, and its area has room for its record. -/
def mayStart (s : State) (u : Sub) : Bool := depsDone s u && areaHasRoom s u.compl

/-! ### Runtime measurements -/

/-- A code image measured under its kind: 1 tile program, 2 awl program, 3 Last image (R470). A pair met before with the list
full changes nothing. -/
def measure (kind tag : Nat) (bs : Bytes) (s : State) : State :=
  let d := sha512 bs
  if s.fw.more.contains (kind, d) then s else
  match s.fw.list.find? fun m => m.kind == kind && m.digest == d with
  | some _ =>
    { s with fw := { s.fw with list := s.fw.list.map fun m =>
        if m.kind == kind && m.digest == d then { m with count := min 0xFFFFFFFF (m.count + 1) } else m } }
  | none =>
    let old := if s.fw.reg.isEmpty then zeros 64 else s.fw.reg
    let reg := sha512 (old ++ natLE 1 kind ++ d)
    if s.fw.list.length < 1024 then
      let m : Meas := { kind := kind, digest := d, tag := tag, count := 1, first := now s }
      { s with fw := { s.fw with reg := reg, list := s.fw.list ++ [m] } }
    else
      let full := s.fw.fullLog
      let s := { s with fw := { s.fw with reg := reg, overflow := s.fw.overflow + 1, fullLog := true, more := s.fw.more ++ [(kind, d)] } }
      if full then s else logEvent 0x0B08 0 0 s

end Sys2Proof.Machine
end

