-- ==== Sys2Proof/Machine/Elementary.lean ====
section
/-! DEFINITION. The correctly rounded functions of R129: exp, reciprocal, rsqrt, GELU, SiLU and tanh on FP32.
Reciprocal and rsqrt are rounded from an exact quotient or root with a sticky bit. The others are enclosed between two
fixed-point numbers of growing precision until both ends round alike; where the greatest precision here does not settle
it, the result is the free value `Config.elementary` (log 9). -/

namespace Sys2Proof.Machine

/-- Integer square root, rounded down: one binary digit at a time from digit `n - 1`. -/
def isqrt (x : Nat) : Nat → Nat → Nat
  | 0, r => r
  | n + 1, r => let r' := r + 2 ^ n; isqrt x n (if r' * r' ≤ x then r' else r)

/-- A non-negative real between two multiples of 2^-P. -/
structure Iv where
  lo : Nat
  hi : Nat
  deriving DecidableEq, Repr

/-- Division rounded up. -/
def cdiv (a b : Nat) : Nat := (a + b - 1) / b

def Iv.mul (p : Nat) (a b : Iv) : Iv := ⟨a.lo * b.lo / 2 ^ p, cdiv (a.hi * b.hi) (2 ^ p)⟩
def Iv.add (a b : Iv) : Iv := ⟨a.lo + b.lo, a.hi + b.hi⟩
def Iv.divNat (a : Iv) (n : Nat) : Iv := ⟨a.lo / n, cdiv a.hi n⟩
def Iv.div (p : Nat) (a b : Iv) : Iv := ⟨a.lo * 2 ^ p / b.hi, cdiv (a.hi * 2 ^ p) b.lo⟩
def Iv.one (p : Nat) : Iv := ⟨2 ^ p, 2 ^ p⟩

/-- m x 2^e as an enclosure. -/
def Iv.of (p m : Nat) (e : Int) : Iv :=
  let k := e + p
  if 0 ≤ k then ⟨m * 2 ^ k.toNat, m * 2 ^ k.toNat⟩ else ⟨m / 2 ^ (-k).toNat, cdiv m (2 ^ (-k).toNat)⟩

/-- Sum of t x y^n / (n (n+1) ...) until the terms vanish: the Taylor series of exp from a term on, for y at most 1/2;
the tail is at most the last term. -/
def expSeries (p : Nat) (y : Iv) : Nat → Nat → Iv → Iv → Iv
  | 0, _, t, acc => ⟨acc.lo, acc.hi + t.hi⟩
  | fuel + 1, n, t, acc =>
    let t' := (t.mul p y).divNat n
    if t'.hi ≤ 1 then ⟨acc.lo, acc.hi + 2⟩
    else expSeries p y fuel (n + 1) t' (acc.add t')

/-- Repeated squaring. -/
def sqr (p : Nat) : Nat → Iv → Iv
  | 0, a => a
  | n + 1, a => sqr p n (a.mul p a)

/-- exp of a non-negative m x 2^e below 2^9: y = x / 2^10, then ten squarings. -/
def expIv (p m : Nat) (e : Int) : Iv :=
  let y := Iv.of p m (e - 10)
  sqr p 10 (expSeries p y (p + 20) 1 (Iv.one p) (Iv.one p))

/-- arctan (1 / n) by its alternating series. -/
def atanInv (p n : Nat) : Nat → Nat → Nat → Int → Int → Int × Int
  | 0, _, _, lo, hi => (lo - 2, hi + 2)
  | fuel + 1, k, pw, lo, hi =>
    let t : Int := (pw / (2 * k + 1) : Nat)
    if pw = 0 then (lo - (2 * k + 2 : Nat), hi + (2 * k + 2 : Nat))
    else if k % 2 = 0 then atanInv p n fuel (k + 1) (pw / (n * n)) (lo + t) (hi + t)
    else atanInv p n fuel (k + 1) (pw / (n * n)) (lo - t) (hi - t)

/-- pi by Machin's formula. -/
def piIv (p : Nat) : Iv :=
  let a := atanInv p 5 (p + 10) 0 (2 ^ p / 5) 0 0
  let b := atanInv p 239 (p + 10) 0 (2 ^ p / 239) 0 0
  ⟨(16 * a.1 - 4 * b.2).toNat, (16 * a.2 - 4 * b.1).toNat⟩

/-- Square root of an enclosure. -/
def Iv.sqrt (p : Nat) (a : Iv) : Iv :=
  let lo := isqrt (a.lo * 2 ^ p) (p + 8) 0
  ⟨lo, isqrt (a.hi * 2 ^ p) (p + 8) 0 + 1⟩

/-- The series x (1 + x^2/3 + x^4/15 + ...) of the normal distribution, for x below 16. -/
def phiSeries (p : Nat) (x2 : Iv) : Nat → Nat → Iv → Iv → Iv
  | 0, _, t, acc => ⟨acc.lo, acc.hi + 2 * t.hi⟩
  | fuel + 1, n, t, acc =>
    let t' := (t.mul p x2).divNat (2 * n + 1)
    if t'.hi ≤ 1 ∧ 256 < n then ⟨acc.lo, acc.hi + 4⟩
    else phiSeries p x2 fuel (n + 1) t' (acc.add t')

/-- Half the distance of Phi from 1/2: phi(x) times the series, for a magnitude m x 2^e below 16. -/
def phiIv (p m : Nat) (e : Int) : Iv :=
  let x := Iv.of p m e
  let x2 := x.mul p x
  let s := phiSeries p x2 (2 * p + 600) 1 x x
  let ex := expIv p (m * m) (2 * e - 1)
  let d := (Iv.sqrt p ((piIv p).add (piIv p))).mul p ex
  Iv.div p s d

/-- Both ends of an enclosure rounded to FP32 when they agree. -/
def Iv.round (p : Nat) (neg : Bool) (a : Iv) : Option Nat :=
  let f (v : Nat) := fp32.encode rne (.fin neg v (-(p : Int)))
  if f a.lo = f a.hi then some (f a.lo) else none

/-- The functions of R129. -/
inductive Elem where
  | exp | recip | rsqrt | gelu | silu | tanh
  deriving DecidableEq, Repr

/-- The number by which the free value knows a function. -/
def Elem.num : Elem → Nat
  | .exp => 0
  | .recip => 1
  | .rsqrt => 2
  | .gelu => 3
  | .silu => 4
  | .tanh => 5

/-- The enclosure of a function at a finite non-zero argument of ordinary size, with the result's sign. -/
def Elem.enclose (f : Elem) (p : Nat) (neg : Bool) (m : Nat) (e : Int) : Bool × Iv :=
  let x := Iv.of p m e
  let ex := expIv p m e
  match f with
  | .exp => (false, if neg then Iv.div p (Iv.one p) ex else ex)
  | .tanh =>
    let e2 := expIv p m (e + 1)
    (neg, Iv.div p ⟨e2.lo - 2 ^ p, e2.hi - 2 ^ p⟩ (e2.add (Iv.one p)))
  | .silu =>
    let d := ex.add (Iv.one p)
    (neg, if neg then Iv.div p x d else (Iv.div p ex d).mul p x)
  | .gelu =>
    let h := phiIv p m e
    let half := 2 ^ (p - 1)
    (neg, x.mul p (if neg then ⟨half - h.hi, half - h.lo⟩ else ⟨half + h.lo, half + h.hi⟩))
  | _ => (neg, x)

/-- The enclosures in rising precision. -/
def Elem.settle (f : Elem) (neg : Bool) (m : Nat) (e : Int) : List Nat → Option Nat
  | [] => none
  | p :: ps => let r := f.enclose p neg m e
    match r.2.round p r.1 with
    | some v => some v
    | none => f.settle neg m e ps

/-- The magnitude of m x 2^e is at least n. -/
def atLeast (m : Nat) (e : Int) (n : Nat) : Bool := !(Num.fin false m e).lt (.fin false n 0)

/-- A function of R129 on an FP32 encoding. -/
def Elem.apply (f : Elem) (v : Nat) : Nat :=
  match fp32.value v with
  | .nan => fp32.nanCode
  | .inf neg =>
    match f with
    | .exp => if neg then 0 else fp32.infCode
    | .recip => fp32.sign neg 0
    | .rsqrt => if neg then fp32.nanCode else 0
    | .gelu | .silu => if neg then fp32.sign true 0 else fp32.infCode
    | .tanh => fp32.sign neg 0x3F800000
  | .fin neg m e =>
    if m = 0 then
      match f with
      | .exp => 0x3F800000
      | .recip | .rsqrt => fp32.sign neg fp32.infCode
      | _ => v
    else match f with
      | .recip =>
        let q := 2 ^ 80 / m
        fp32.encode rne (.fin neg (2 * q + if 2 ^ 80 % m = 0 then 0 else 1) (-81 - e))
      | .rsqrt =>
        if neg then fp32.nanCode
        else
          let odd := e % 2 != 0
          let m' := if odd then 2 * m else m
          let e' := if odd then e - 1 else e
          let q := 2 ^ 160 / m'
          let r := isqrt q 81 0
          let exact := 2 ^ 160 % m' == 0 && r * r == q
          fp32.encode rne (.fin false (2 * r + if exact then 0 else 1) (-81 - e' / 2))
      | _ =>
        let big := atLeast m e (match f with | .exp => 110 | .silu => 120 | .gelu => 15 | _ => 20)
        if big then
          match f with
          | .exp => if neg then 0 else fp32.infCode
          | .tanh => fp32.sign neg 0x3F800000
          | _ => if neg then fp32.sign true 0 else v
        else match f.settle neg m e [256, 512, 1024] with
          | some r => r
          | none => (Config.elementary f.num v).toNat

end Sys2Proof.Machine
end

