-- ==== Sys2Proof/Machine/Isa.lean ====
section
/-! DEFINITION. What tile programs and awl programs share (Tables 3.5 and 8.3): the fields of an instruction word (R94,
R227), integer and vector operations (R130, R228), conversions (R131), and the course of control. -/

namespace Sys2Proof.Machine

/-! ### Words -/

/-- Fields of an instruction word (R94, R227). The immediate is taken as signed: DESIGN CHOICE (log 158), the spec gives its
16 bits and not how they extend. -/
def opMajor (w : Nat) : Nat := bits w 31 26
def opRd (w : Nat) : Nat := bits w 25 21
def opRs1 (w : Nat) : Nat := bits w 20 16
def opRs2 (w : Nat) : Nat := bits w 15 11
def opImm (w : Nat) : Int := toSigned 16 w

/-- A scalar register; x0 reads 0. -/
def regX (x : Tab Nat) (r : Nat) : Nat := if r = 0 then 0 else Tab.get 0 x r

/-- A scalar register written; a write of x0 is lost. -/
def setX (x : Tab Nat) (w r v : Nat) : Tab Nat := if r = 0 then x else Tab.set 0 x r (v % 2 ^ w)

/-- A vector register. -/
def regV (v : Tab Nat) (r : Nat) : Nat := Tab.get 0 v r

/-- A vector register written. -/
def setV (v : Tab Nat) (r x : Nat) : Tab Nat := Tab.set 0 v r (x % 2 ^ 512)

/-- The 16 lanes of a vector register, and back. -/
def lanes (v : Nat) : List Nat := (List.range 16).map fun i => bits v (32 * i + 31) (32 * i)
def ofLanes (l : List Nat) : Nat := l.zipIdx.foldl (fun n (x, i) => n + fld x (32 * i) 32) 0

/-! ### Operations -/

/-- A comparison of two scalars of width `w`; a compare instruction writes `Config.truth` of it (log 39). -/
def intCond (w : Nat) (op : IntOp) (a b : Nat) : Bool :=
  match op with
  | .lt => decide (toSigned w a < toSigned w b)
  | .ltu => decide (a < b)
  | _ => a == b

/-- An integer operation on scalars of width `w`. A shift by `w` or more leaves a value the spec does not state:
`free`. -/
def intOp (w : Nat) (op : IntOp) (a b free : Nat) : Nat :=
  match op with
  | .add => (a + b) % 2 ^ w
  | .sub => (a + 2 ^ w - b) % 2 ^ w
  | .and => a &&& b
  | .or => a ||| b
  | .xor => a ^^^ b
  | .shl => if b < w then a * 2 ^ b % 2 ^ w else free % 2 ^ w
  | .shr => if b < w then a / 2 ^ b else free % 2 ^ w
  | .sar => if b < w then ofSigned w (toSigned w a / ((2 ^ b : Nat) : Int)) else free % 2 ^ w
  | .mul => a * b % 2 ^ w
  | c => (Config.truth (intCond w c a b)).toNat % 2 ^ w

/-- The word that a vector compare writes in a lane. -/
def truthLane (b : Bool) : Nat := (Config.truth b).toNat % 2 ^ 32

/-- A number in a lane: FP32, or BF16 in the low half (log 40). -/
def laneVal (ln : Lane) (v : Nat) : Num :=
  match ln with
  | .bf16 => bf16.value (v % 2 ^ 16)
  | _ => fp32.value v

/-- A number rounded into a lane: BF16 by way of FP32 (R130). -/
def laneCode (ln : Lane) (x : Num) : Nat :=
  match ln with
  | .bf16 => bf16.encode rne x.to32
  | _ => fp32.encode rne x

/-- A floating-point function of one or more lanes, or an INT32 one. -/
def laneOp (ln : Lane) (f : Num → Num → Num) (g : Int → Int → Int) (a b : Nat) : Nat :=
  match ln with
  | .int32 => ofSigned 32 (g (toSigned 32 a) (toSigned 32 b))
  | _ => laneCode ln (f (laneVal ln a) (laneVal ln b))

/-- A comparison of lanes. -/
def laneLt (ln : Lane) (a b : Nat) : Bool :=
  match ln with | .int32 => decide (toSigned 32 a < toSigned 32 b) | _ => (laneVal ln a).lt (laneVal ln b)
def laneEq (ln : Lane) (a b : Nat) : Bool :=
  match ln with | .int32 => a == b | _ => (laneVal ln a).eq (laneVal ln b)

/-- exp, reciprocal or rsqrt of a lane (R129). -/
def laneElem (ln : Lane) (f : Elem) (a : Nat) : Nat :=
  match ln with
  | .bf16 => bf16.encode rne (fp32.value (f.apply (fp32.encode rne (bf16.value (a % 2 ^ 16)))))
  | _ => f.apply a

/-- Lanes added in ascending order, each sum rounded to the lane's format (R130, R228). That a BF16 reduction rounds every
partial sum to BF16, and not the last one alone, is a DESIGN CHOICE (log 159). -/
def laneSum (ln : Lane) (l : List Nat) : Nat :=
  match l with
  | [] => 0
  | a :: rest => rest.foldl (fun acc b => laneOp ln Num.add (· + ·) acc b) a

/-- What a vector operation writes. -/
inductive VecOut where
  | vec (v : Nat)
  | scalar (x : Nat)
  deriving DecidableEq, Repr

/-- A vector operation on operands vs1, vs2, the old vd (third operand of a fused multiply-add, mask of a select), and
the scalar rs1 (log 40). -/
def vecOp (op : VecOp) (ln : Lane) (a b d x : Nat) : VecOut :=
  let la := lanes a
  let lb := lanes b
  let ld := lanes d
  let map2 (f : Nat → Nat → Nat) : VecOut := .vec (ofLanes ((la.zip lb).map fun (p, q) => f p q))
  match op with
  | .add => map2 (laneOp ln Num.add (· + ·))
  | .sub => map2 (laneOp ln (fun p q => p.add q.neg) (· - ·))
  | .mul => map2 (laneOp ln Num.mul (· * ·))
  | .fma => .vec (ofLanes ((la.zip (lb.zip ld)).map fun (p, q, r) =>
      match ln with
      | .int32 => (p * q + r) % 2 ^ 32
      | _ => laneCode ln (((laneVal ln p).mul (laneVal ln q)).add (laneVal ln r))))
  | .min => map2 (laneOp ln Num.min min)
  | .max => map2 (laneOp ln Num.max max)
  | .cmpLt => map2 fun p q => truthLane (laneLt ln p q)
  | .cmpEq => map2 fun p q => truthLane (laneEq ln p q)
  | .select => .vec (ofLanes ((la.zip (lb.zip ld)).map fun (p, q, r) => if Config.selects (BitVec.ofNat 32 r) then p else q))
  | .reduce => .vec (ofLanes (ld.set 0 (laneSum ln la)))
  | .exp => .vec (ofLanes (la.map (laneElem ln .exp)))
  | .recip => .vec (ofLanes (la.map (laneElem ln .recip)))
  | .rsqrt => .vec (ofLanes (la.map (laneElem ln .rsqrt)))
  | .broadcast k => .vec (ofLanes (List.replicate 16 (nth la k)))
  | .insert k => .vec (ofLanes (ld.set k (x % 2 ^ 32)))
  | .extract k => .scalar (nth la k)

/-- The operation exists for the lane type, and names a lane that exists. -/
def vecOpExists (op : VecOp) (ln : Lane) : Bool :=
  match op, ln with
  | .exp, .int32 | .recip, .int32 | .rsqrt, .int32 => false
  | .broadcast k, _ | .insert k, _ | .extract k, _ => decide (k < 16)
  | _, _ => true

/-- Codes of Table 3.4: integer formats. -/
def fmtInt8 : Nat := 0xB
def fmtInt4 : Nat := 0xC
def fmtInt32 : Nat := 0xD

/-- Bits of an element of a format of Table 3.4; 0 for a reserved code. -/
def elemBits (code : Nat) : Nat :=
  if code = fmtInt8 then 8 else if code = fmtInt4 then 4 else if code = fmtInt32 then 32
  else match fmtOf code with | some f => f.width | none => 0

/-- An FP32 lane converted to a format (R131). -/
def toFmt (code : Nat) (k : Rnd) (v : Nat) : Nat :=
  if code = fmtInt8 then ofSigned 8 ((fp32.value v).toInt k 8)
  else if code = fmtInt4 then ofSigned 4 ((fp32.value v).toInt k 4)
  else if code = fmtInt32 then ofSigned 32 ((fp32.value v).toInt k 32)
  else match fmtOf code with | some f => f.encode k (fp32.value v) | none => 0

/-- An element of a format as an FP32 lane: exact, or rounded by the code for an INT32 (R131). An infinity with saturation
selected becomes the largest finite value, the FP32 row of Table 4.5: DESIGN CHOICE (log 157), since R131 also calls a
widening conversion exact. -/
def fromFmt (code : Nat) (k : Rnd) (v : Nat) : Nat :=
  if code = fmtInt8 then fp32.encode k (Num.ofInt (toSigned 8 v))
  else if code = fmtInt4 then fp32.encode k (Num.ofInt (toSigned 4 v))
  else if code = fmtInt32 then fp32.encode k (Num.ofInt (toSigned 32 v))
  else match fmtOf code with | some f => fp32.encode k (f.value (v % 2 ^ f.width)) | none => 0

/-! ### Control -/

/-- Hardware loops: first, last instruction, runs left; the innermost first. -/
abbrev Loops := List (Nat × Nat × Nat)

/-- The next instruction after `pc`, and the loops that stay open. -/
def nextPc (pc : Nat) : Loops → Nat × Loops
  | [] => (pc + 1, [])
  | (f, l, n) :: rest =>
    if pc = l then (if 1 < n then (f, (f, l, n - 1) :: rest) else nextPc pc rest)
    else (pc + 1, (f, l, n) :: rest)

/-- Where a control instruction leads. A branch compares rs1 with rs2; a jump by register goes to the index in rs1. -/
def control (width : Nat) (op : CtlOp) (a b pc : Nat) (loops : Loops) : Nat × Loops :=
  match op with
  | .branch c neg target => if intCond width c a b != neg then (target, loops) else nextPc pc loops
  | .jump target => (target, loops)
  | .jumpReg => (a, loops)
  | .loop count len =>
    if count = 0 ∨ len = 0 then (pc + 1 + len, loops) else (pc + 1, (pc + 1, pc + len, count) :: loops)

/-- A branch condition is a comparison. -/
def ctlExists : CtlOp → Bool
  | .branch c _ _ => c == .lt || c == .ltu || c == .eq
  | _ => true

end Sys2Proof.Machine
end

