-- ==== Sys2Proof/Machine/Tier.lean ====
section
/-! DEFINITION. The commands of the tiers and of the side-stack controllers: line accesses (R189-R192, R209, R210), row
remaps (R198), the guard (R173), refresh (R182-R185), bucket leak (R193) and patrol scrub (R195, R214). -/

namespace Sys2Proof.Machine

/-- Rows of a tier-column closed. -/
def closeRows (m t : Nat) (s : State) : State :=
  { s with stack := { s.stack with rows := s.stack.rows.filter fun (k, _) => !(k / 16 == columnKey m t) } }

/-! ### Transfers across a shank -/

/-- A mismatch counted for a transfer (R173): at the second try in a row a lane fault is detected, whose group is not known
(Table 6.6, step 1). -/
def noteTry (req : Requester) (t : Nat) (write : Bool) (line : Nat) (s : State) : State :=
  let k := shankOf s t
  let me := some (req, write, line)
  let n := (if k.trying == me then k.tries else 0) + 1
  setShank t (fun k => { k with tries := n, trying := me, doubt := k.doubt || n == 2 }) (tally 3 t 5 1 s)

/-- A line read at a tier for a requester, as it arrives after the crossing. -/
def stackRead (req : Requester) (t l a sectors : Nat) (errs again : List CellError) (cross : List LaneError) (s : State) : State :=
  let r := readLine (.stack t l) a sectors errs again s
  { r.1 with out := r.1.out ++ [.lineData req (crossed r.2.data cross) r.2.poison r.2.dead] }

/-- A line written at a tier for a requester, as it arrived there (R169): a plain write. -/
def stackWrite (req : Requester) (t l a : Nat) (data : List (Option Byte)) (errs : List CellError) (cross : List LaneError)
    (s : State) : State :=
  let s := writeLine (.stack t l) a (crossedWrite data cross) 0 errs (notePlain a s)
  { s with out := s.out ++ [.lineAck req] }

/-- An access held at a shank until it may cross (R174, R198). -/
def holdAtShank (t : Nat) (h : HeldAccess) (s : State) : State := setShank t (fun k => { k with held := k.held ++ [h] }) s

/-- A held access of a shank reissued, or held on: it crosses as its command said, and a mismatch is its first. -/
def reissue (t : Nat) (h : HeldAccess) (s : State) : State :=
  let line := h.addr / 128 * 128
  match locate s h.addr with
  | .stack t' l =>
    if placeWaits s (.stack t' l) then holdAtShank t h s
    else match h.acc with
      | .read sectors =>
        if (shankOf s t').mismatch (readLine (.stack t' l) line sectors h.errs h.again s).2.data h.cross then
          noteTry h.req t' false line s
        else stackRead h.req t' l line sectors h.errs h.again h.cross s
      | .write data =>
        if h.posted then passWrite (.stack t' l) line data h.stamps h.errs s
        else if (shankOf s t').mismatch (data.map fun b => b.getD 0) h.cross then noteTry h.req t' true line s
        else stackWrite h.req t' l line data h.errs h.cross s
      | .add _ _ _ => s
  | _ => s

/-- Every access that a shank holds reissued in order, those that must wait on kept (Table 6.6, step 5). -/
def reissueShank (t : Nat) (s : State) : State :=
  (shankOf s t).held.foldl (fun s h => reissue t h s) (setShank t (fun k => { k with held := [] }) s)

/-- What completes a transfer with poison at its third mismatch (R173). -/
inductive Poisoned where
  | read
  | fill
  | write (data : List (Option Byte)) (cross : List LaneError)
  deriving DecidableEq, Repr

/-- A transfer completed with poison (R173): its requester receives poison; so do the requests of a miss entry (R259); a write
is stored as it arrived, every sector that it covers stamped, and acknowledged. -/
def givePoison (req : Requester) (t l line : Nat) (how : Poisoned) (s : State) : State :=
  match how with
  | .read => { s with out := s.out ++ [.lineData req (zeros 128) 15 0] }
  | .fill => completeEntry t l poisonLine s
  | .write data cross =>
    let s := writeLine (.stack t l) line (crossedWrite data cross) (maskedSectors data) [] (notePlain line s)
    { s with out := s.out ++ [.lineAck req] }

/-- The guard differs on a try of a transfer (R173): at the third, while no lane reports a fault, the transfer completes with
poison, and the shank serves what it held. -/
def guardTry (req : Requester) (t l : Nat) (line : Nat) (how : Poisoned) (s : State) : State :=
  let k := shankOf s t
  let write := match how with | .write _ _ => true | _ => false
  if k.trying == some (req, write, line) && decide (2 ≤ k.tries) then
    let s := setShank t (fun k => { k with tries := 0, trying := none, doubt := false }) (tally 3 t 5 1 s)
    let s := logEvent 0x0304 (0x3000 + t) (fld (linePlace l).1 0 4 + fld (b2n write) 4 1 + fld line 16 48)
      (givePoison req t l line how s)
    reissueShank t s
  else noteTry req t write line s

/-- A transfer meets a shank that holds it; the next try of one whose guard differed twice is let through. -/
def heldAtShank (s : State) (req : Requester) (t l : Nat) (write : Bool) (line : Nat) : Bool :=
  let k := shankOf s t
  let p := linePlace l
  placeWaits s (.stack t l) && !(k.doubt && k.fault.isNone && k.trying == some (req, write, line)
    && k.copying != some (p.1, p.2.1, p.2.2.1))

/-- A transfer that has gone through ends the doubt that its own mismatches raised. -/
def endDoubt (req : Requester) (t : Nat) (write : Bool) (line : Nat) (was s : State) : State :=
  let k := shankOf was t
  if k.doubt && k.trying == some (req, write, line) then reissueShank t (setShank t (fun k => { k with doubt := false }) s) else s

/-- STACK_LINE_READ: `cross` holds the errors of the crossing. Under a guard an error retries the transfer (R173); without one
the data arrives as it arrived (R169). -/
def execStackLineRead (req : Requester) (a sectors : Nat) (errs again : List CellError) (cross : List LaneError) (s : State) :
    Host.Outcome State Fault Refusal :=
  match locate s a with
  | .stack t l =>
    let line := a / 128 * 128
    if mayIssue s req = false then idle s
    else if placeLost s (.stack t l) then .next (stackRead req t l line sectors errs again [] s)
    else if heldAtShank s req t l false line then .next (holdAtShank t { req, addr := a, acc := .read sectors, errs, again, cross } s)
    else if (shankOf s t).mismatch (readLine (.stack t l) line sectors errs again s).2.data cross then
      .next (guardTry req t l line .read s)
    else .next (endDoubt req t false line s (stackRead req t l line sectors errs again cross s))
  | .side _ _ => idle s
  | .hole => .next (sliceRefuse req a .hole s)

/-- STACK_LINE_WRITE: the same, the data crossing to the tier; bytes that the write does not name cross as zeros. -/
def execStackLineWrite (req : Requester) (a : Nat) (data : List (Option Byte)) (errs : List CellError) (cross : List LaneError)
    (s : State) : Host.Outcome State Fault Refusal :=
  match locate s a with
  | .stack t l =>
    let line := a / 128 * 128
    if mayIssue s req = false then idle s
    else if placeLost s (.stack t l) then .next (stackWrite req t l line data errs [] s)
    else if heldAtShank s req t l true line then .next (holdAtShank t { req, addr := a, acc := .write data, errs, again := [], cross } s)
    else if (shankOf s t).mismatch (data.map fun b => b.getD 0) cross then .next (guardTry req t l line (.write data cross) s)
    else .next (endDoubt req t true line s (stackWrite req t l line data errs cross s))
  | .side _ _ => idle s
  | .hole => .next (sliceRefuse req a .hole s)

/-- L2_FILL: the fill of a miss entry arrives (R259), as the crossing brings it (R169), and not while the transfer waits at its
shank; under a guard an error makes it a try that failed (R173). -/
def execL2Fill (slice index : Nat) (errs again : List CellError) (cross : List LaneError) (s : State) :
    Host.Outcome State Fault Refusal :=
  let a := (lineOf s slice index).getD 0
  let p : Place := .stack slice index
  if hasEntry s slice index = false ∨ (placeLost s p = false ∧ heldAtShank s .module slice index false a) then idle s
  else if placeLost s p then .next (completeEntry slice index poisonLine s)
  else
    let r := readLine p a (presentLine s slice index).missing errs again s
    if (shankOf s slice).mismatch r.2.data cross then .next (guardTry .module slice index a .fill s)
    else .next (endDoubt .module slice false a s (completeEntry slice index { r.2 with data := crossed r.2.data cross } r.1))

/-- GUARD_MISMATCH: the guard differs on a try of a transfer of another command (R173): the fill of a miss entry is one of the
slice's. -/
def execGuardMismatch (req : Requester) (t : Nat) (write : Bool) (a : Nat) (data : List (Option Byte))
    (cross : List LaneError) (s : State) : Host.Outcome State Fault Refusal :=
  let line := a / 128 * 128
  match locate s a with
  | .stack t' l =>
    let fill := !write && hasEntry s t l
    let req := if fill then .module else req
    if t' ≠ t ∨ (shankOf s t).guard = false ∨ heldAtShank s req t l write line then idle s
    else .next (guardTry req t l line (if write then .write data cross else if fill then .fill else .read) s)
  | _ => idle s

/-! ### Side stacks -/

/-- Bytes that an access moves against the limit of R210. -/
def sideBytes : SideAccess → Nat
  | .read _ => 128
  | .write d => if partSector d then 256 else 128
  | .add _ _ _ => 256

/-- A line served at a side-stack controller (R209); poison or discarded when it is offline (R216). -/
def serveSideLine (i off : Nat) (h : HeldAccess) (s : State) : State :=
  let line := h.addr / 128 * 128
  match h.acc with
  | .read sectors =>
    let r := readLine (.side i off) line sectors h.errs h.again s
    giveLine h.req (.side i) line { r.2 with dead := 0 } r.1
  | .write data =>
    let s := writeLine (.side i off) line data h.stamps h.errs (if h.posted then s else notePlain line s)
    if h.posted then s else giveAck h.req (.side i) s
  | .add code mask data =>
    if (addWidth code).isNone then homeReply h.req (.side i) 1 { s with out := s.out ++ [.lineError h.req] }
    else giveAck h.req (.side i) (sideAdd i off line code mask data h.errs h.again s)

/-- The access waits at the controller: it retrains, it copies the row, or it has used up its allowance of the window (R210,
R213, R215). An offline stack holds nothing. -/
def sideHolds (s : State) (i off : Nat) (h : HeldAccess) : Bool :=
  let k := sideOf s i
  k.state != 1 && (placeWaits s (.side i off) || k.full (sideBytes h.acc))

/-- An access of a side stack served, or held until it can be. -/
def takeSide (i : Nat) (h : HeldAccess) (s : State) : State :=
  match locate s h.addr with
  | .side i' off =>
    if i' = i then
      if sideHolds s i off h then setSide i (fun k => { k with held := k.held ++ [h] }) s else serveSideLine i off h s
    else s
  | _ => s

/-- Every access that a side-stack controller holds, taken again in order. -/
def drainSide (i : Nat) (s : State) : State :=
  (sideOf s i).held.foldl (fun s h => takeSide i h s) (setSide i (fun k => { k with held := [] }) s)

/-- SIDE_STACK_ACCESS: a request to a controller (R209), which keeps at most 2,048 waiting; the next waits at its source
(R260). -/
def execSideStackAccess (req : Requester) (a : Nat) (acc : SideAccess) (errs again : List CellError) (s : State) :
    Host.Outcome State Fault Refusal :=
  match locate s a with
  | .side i _ =>
    if mayIssue s req = false ∨ 2048 ≤ (sideOf s i).held.length then idle s
    else
      .next (takeSide i { req, addr := a, acc, errs, again }
        (askHome req (.side i) (match acc with | .read _ => 1 | _ => 2) s))
  | .stack _ _ => idle s
  | .hole => .next (sliceRefuse req a .hole s)

/-- ADD_TO_LINE at a home slice, or at a side-stack controller (R209, R261). A refused code changes nothing and
returns an error completion (Table 9.5). -/
def execAddToLine (req : Requester) (a code mask : Nat) (data : Bytes) (s : State) : Host.Outcome State Fault Refusal :=
  if (addWidth code).isNone then .next { s with out := s.out ++ [.lineError req] }
  else match locate s a with
    | .side _ _ => execSideStackAccess req a (.add code mask data) [] [] s
    | _ => .next (l2Row req a (.add req code mask data) s)

/-- SIDE_BANDWIDTH_WINDOW: a new 1 us window, less what earlier commands moved beyond theirs (R210). -/
def execSideBandwidthWindow (i : Nat) (s : State) : Host.Outcome State Fault Refusal :=
  if 12 ≤ i then idle s else .next (drainSide i (setSide i (fun k => { k with moved := k.moved - k.limit * 8000 }) s))

/-! ### Rows remapped -/

/-- ROW_REMAPPED: the copy of a row completes, its entry is switched on, the event and the hint are written; the next row
that waits is copied, and accesses that waited for the row are served (R198, R213). -/
def execRowRemapped (side : Bool) (unit : Nat) (s : State) : Host.Outcome State Fault Refusal :=
  if side then
    match (sideOf s unit).copying with
    | none => idle s
    | some r =>
      let rest := (sideOf s unit).toCopy
      let n := (sideOf s unit).remaps.length + 1
      let s := setSide unit (fun k => { k with remaps := k.remaps ++ [r], copying := none }) s
      let s := logEvent 0x030B (0x6000 + unit) (fld r.1 48 8 + fld r.2.1 56 8 + fld r.2.2 64 32 + fld n 96 8)
        (tally 7 unit 9 1 s)
      .next (drainSide unit (copySideRow unit rest (addHint 7 unit r.1 r.2.1 r.2.2 (0x6000 + unit) s)))
  else
    match (shankOf s unit).copying with
    | none => idle s
    | some r =>
      let rest := (shankOf s unit).toCopy
      let n := (shankOf s unit).remaps.length + 1
      let s := setShank unit (fun k => { k with remaps := k.remaps ++ [r], copying := none }) s
      let s := logEvent 0x030B (0x3000 + unit) (fld r.1 48 8 + fld r.2.1 56 8 + fld r.2.2 64 32 + fld n 96 8) s
      .next (reissueShank unit (copyShankRow unit rest (addHint 4 unit r.1 r.2.1 r.2.2 (0x3000 + unit) s)))

/-! ### Refresh -/

/-- An awl program runs on a tier-column and is between yield points (R185): running, not waiting, not paused. -/
def awlHolds (s : State) (m t : Nat) : Bool :=
  let w := Tab.get {} s.awls.awl (columnKey m t)
  w.state == .running && w.wait == .none && !(w.paused && (s.thermal.hold || s.pace.emerg))

/-- Slots of a tier-column served back to back, rows closed first (R184, R231). -/
def serveRefresh (m t n : Nat) (s : State) : State :=
  let k := columnKey m t
  let s := closeRows m t (tally 3 t 6 n s)
  { s with stack := { s.stack with owed := Tab.set 0 s.stack.owed k 0, posts := Tab.set 0 s.stack.posts k 0 } }

/-- REFRESH_SLOT: due; served with what is owed when the banks are idle, else owed until the yield point (R182-R185).
Nothing falls due on a tier whose rail is out of regulation. -/
def execRefreshSlot (m t : Nat) (s : State) : Host.Outcome State Fault Refusal :=
  if m = 0 ∨ 8 < m ∨ 256 ≤ t ∨ s.power.coreRails = false ∨ (tierOf s (m - 1)).failed then idle s
  else
    let k := columnKey m t
    if awlHolds s m t then
      .next { s with stack := { s.stack with owed := Tab.upd 0 s.stack.owed k (· + 1) } }
    else .next (serveRefresh m t (Tab.get 0 s.stack.owed k + 1) s)

/-- REFRESH_POSTPONED: the interval ends unserved; the count rises to at most 4 and shows in POSTPONE_MAX. -/
def execRefreshPostponed (m t : Nat) (s : State) : Host.Outcome State Fault Refusal :=
  let k := columnKey m t
  if m = 0 ∨ 8 < m ∨ 256 ≤ t ∨ awlHolds s m t = false ∨ Tab.get 0 s.stack.owed k = 0 ∨ 4 ≤ Tab.get 0 s.stack.posts k then
    idle s
  else
    let n := Tab.get 0 s.stack.posts k + 1
    let s := tally 3 t 7 1 { s with stack := { s.stack with posts := Tab.set 0 s.stack.posts k n } }
    .next (setTier (m - 1) (fun d => { d with postMax := max d.postMax n }) s)

/-- REFRESH_PREEMPT: after the fourth postponement the awl is stopped, the owed slots run, and it resumes (Table
6.9). -/
def execRefreshPreempt (m t : Nat) (s : State) : Host.Outcome State Fault Refusal :=
  let k := columnKey m t
  if m = 0 ∨ 8 < m ∨ 256 ≤ t ∨ awlHolds s m t = false ∨ Tab.get 0 s.stack.posts k < 4 then idle s
  else
    let s := serveRefresh m t (max 5 (Tab.get 0 s.stack.owed k)) s
    let s := { s with awls := { s.awls with awl := Tab.upd {} s.awls.awl k fun w =>
                                  { w with preempt := min 255 (w.preempt + 1) } } }
    let tag := match s.awls.cur with | some r => field r.block 40 2 | none => 0
    .next (logEvent 0x0308 (0x5000 + k) (fld tag 0 16) s)

/-- A tier's band set, with REFRESH_BAND when it changes (R183, R186). -/
def setBand (i band : Nat) (forced : Bool) (s : State) : State :=
  let d := tierOf s i
  let s' := setTier i (fun d => { d with band := band, forced := forced }) s
  if d.band = band then s'
  else logEvent 0x0307 (0x4000 + i + 1) (fld band 0 2 + fld d.band 2 2 + fld (b2n forced) 4 1) s'

/-- Band of a tier temperature in thousandths of a degree (Table 6.8). -/
def bandOf (temp : Int) : Nat := if temp ≤ 85000 then 0 else if temp ≤ 95000 then 1 else 2

/-- REFRESH_BAND_DOWN: 1 s at or below a lower band's boundary less 5 degrees (R183). -/
def execRefreshBandDown (m : Nat) (s : State) : Host.Outcome State Fault Refusal :=
  let d := tierOf s (m - 1)
  let low := bandOf (Tab.get 0 s.thermal.temp (31 + m) + 5000)
  if m = 0 ∨ 8 < m ∨ d.forced ∨ d.band ≤ low then idle s else .next (setBand (m - 1) low false s)

/-! ### Buckets and scrub -/

/-- A bucket after one leak, and whether MEM_CE_OVERFLOW stays held back (R193). -/
def leak (bucket : Nat) (hold : Bool) : Nat × Bool := (bucket - 1, hold && decide (48 < bucket - 1))

/-- BUCKET_LEAK: at every multiple of LEAK_S seconds of the timebase every shank and side-stack bucket leaks by 1; none while
LEAK_S is 0 (R193, R196, R212). -/
def execBucketLeak (s : State) : Host.Outcome State Fault Refusal :=
  let every := s.stack.leakS * 10 ^ 9
  if s.stack.leakS = 0 ∨ now s / every ≤ s.stack.leakAt / every then idle s
  else
    let shank (k : Shank) : Shank := let r := leak k.bucket k.ceHold; { k with bucket := r.1, ceHold := r.2 }
    let side (k : Side) : Side := let r := leak k.bucket k.ceHold; { k with bucket := r.1, ceHold := r.2 }
    .next { s with stack := { s.stack with
      leakAt := now s
      shanks := Tab.setMany {} s.stack.shanks (s.stack.shanks.map (·.1)) fun k => shank (shankOf s k)
      sides := Tab.setMany {} s.stack.sides (s.stack.sides.map (·.1)) fun k => side (sideOf s k) } }

/-- PATROL_SCRUB_READ: the next sector is treated as any read (R195); on a side stack it counts against the limit
(R214). It waits for a row in use and does not cross the shank; a sector of a lost unit cannot be read. Neither form logs
DEAD_READ (R273). -/
def execPatrolScrubRead (side : Option Nat) (errs again : List CellError) (s : State) :
    Host.Outcome State Fault Refusal :=
  if s.stack.scrubEn = false then idle s
  else match side with
    | none =>
      let sec := s.stack.scrub
      let total := columnBytes * stackW s / 32
      let s1 := { s with stack := { s.stack with scrub := (sec + 1) % total } }
      match locate s (32 * sec) with
      | .stack t l =>
        let p := linePlace l
        if placeLost s (.stack t l) then .next (tally 3 t 9 1 s1)
        else if (shankOf s t).copying = some (p.1, p.2.1, p.2.2.1) then idle s
        else .next (readSector (Place.stack t l).checker (32 * sec) errs again (openRow t l (tally 3 t 9 1 s1))).1
      | _ => .next s1
    | some i =>
      let k := sideOf s i
      let sec := Tab.get 0 s.stack.scrubSide i
      if 12 ≤ i ∨ k.ledger ∨ k.state ≠ 0 ∨ k.limit * 8000 < k.moved + 32 ∨ k.copying = some (sidePlace (32 * sec)) then idle s
      else
        let s1 := { s with stack := { s.stack with scrubSide := Tab.set 0 s.stack.scrubSide i ((sec + 1) % 2 ^ 32) } }
        let a := sideBase + i * 2 ^ 37 + 32 * sec
        .next (readSector (Place.side i (32 * sec)).checker a errs again (sideMoves i (a / 128 * 128) 32 (tally 7 i 8 1 s1))).1

end Sys2Proof.Machine
end

