-- ==== Sys2Proof/Machine/Awl.lean ====
section
/-! DEFINITION. The awls (chapter 8): runs, instructions, yield points, the tier bus, barriers and faults. Function codes
are not in the spec, so the command names the operation and the word in program memory its registers (log 41). -/

namespace Sys2Proof.Machine

/-! ### Records -/

/-- An awl's record. -/
def awlOf (s : State) (a : Nat) : Awl := Tab.get {} s.awls.awl a

/-- The state with an awl's record changed. -/
def setAwl (a : Nat) (f : Awl → Awl) (s : State) : State :=
  { s with awls := { s.awls with awl := Tab.upd {} s.awls.awl a f } }

/-- Tier number 1-8 and shank of an awl. -/
def awlTier (a : Nat) : Nat := 1 + a / 256
def awlShank (a : Nat) : Nat := a % 256

/-- The run in progress, its awls and its tag. -/
def runAwls (s : State) : List Nat := match s.awls.cur with | some r => r.awls | none => []
def runTag (s : State) : Nat := match s.awls.cur with | some r => field r.block 40 2 | none => 0
def runProg (s : State) : Bytes := match s.awls.cur with | some r => r.prog | none => []

/-- Blocks of a lent region: first block and block count (R235). -/
def regionBlocks (s : State) (id : Nat) : Nat × Nat :=
  match obj s.obj.lends id with
  | some r => (r.base / (stackW s * 128), r.len / (stackW s * 128))
  | none => (0, 0)

/-- An awl's share of a region: first local index and lines (Table 8.8b). -/
def share (blocks : Nat × Nat) (m : Nat) : Nat × Nat :=
  let first := (blocks.1 + 8 - m) / 8
  (first, (blocks.1 + blocks.2 + 8 - m) / 8 - first)

/-- The share of an awl in the run in progress. -/
def awlShare (s : State) (a : Nat) : Nat × Nat :=
  match s.awls.cur with
  | some r => share (regionBlocks s (field r.block 0 1 % 64)) (awlTier a)
  | none => (0, 0)

/-- The awls pause at their next yield point (R247). -/
def awlsPaused (s : State) : Bool := s.thermal.hold || s.pace.emerg

/-- An awl executes its program: it has not ended, does not wait, is not paused, and its column is powered. -/
def awlRuns (s : State) (a : Nat) : Bool :=
  let w := awlOf s a
  w.state == .running && w.wait == .none && !(w.paused && awlsPaused s)

/-! ### Ends and faults -/

/-- The awl has ended. -/
def awlEnded (s : State) (a : Nat) : Bool := (awlOf s a).state != .running

/-- The other awls of the run on an awl's tier that have not ended. -/
def tierMates (s : State) (a : Nat) : List Nat := (runAwls s).filter fun b => b / 256 == a / 256 && b != a && !awlEnded s b

/-- The queue slots that an awl's message on the bus holds are free again. -/
def freeSlots (a : Nat) (s : State) : State :=
  match s.awls.bus.find? fun b => b.src == a with
  | none => s
  | some b =>
    (match b.dst with | some d => [d] | none => tierMates s a).foldl
      (fun s d => setAwl d (fun w => { w with resv := w.resv - 1 }) s) s

/-- An awl stopped at an instruction with a cause of Table 8.9; the first fault of a run is logged (R244). -/
def stopAwl (a cause pc : Nat) (s : State) : State :=
  let first := match s.awls.cur with | some r => !r.faultLogged | none => false
  let s := setAwl a (fun w => { w with state := .faulted, cause := cause, last := pc, loads := [], wait := .none }) (freeSlots a s)
  let s := { s with awls := { s.awls with bus := s.awls.bus.filter fun b => b.src != a
                                          cur := s.awls.cur.map fun r => { r with faultLogged := true } } }
  if first then logEvent 0x0502 (0x5000 + a) (fld (runTag s) 0 16 + fld cause 16 4 + fld pc 20 12) s else s

/-- An awl that waits for what can no longer come, and the cause (R244): at a barrier that a faulted awl does not
reach, or for a message when every other awl has ended. -/
def hopeless (s : State) : Option (Nat × Nat) :=
  let rs := runAwls s
  let faulted := rs.any fun b => (awlOf s b).state == .faulted
  rs.findSome? fun a =>
    let w := awlOf s a
    if w.state != .running then none
    else if w.wait == .bar && faulted then some (a, 7)
    else if w.wait == .recv && w.rxq.isEmpty && w.resv == 0 && (rs.all fun b => b == a || awlEnded s b) then some (a, 6)
    else none

/-- Hopeless waits ended one after another. -/
def settle : Nat → State → State
  | 0, s => s
  | n + 1, s => match hopeless s with
    | some (a, c) => settle n (stopAwl a c (awlOf s a).pc s)
    | none => s

/-- An awl faults at an instruction, with what follows for the others. -/
def awlFaultAt (a cause pc : Nat) (s : State) : State := settle (runAwls s).length (stopAwl a cause pc s)

/-- An awl faults at the instruction in hand. -/
def awlFault (a cause : Nat) (s : State) : State := awlFaultAt a cause (awlOf s a).pc s

/-- Awls of the run that a test names stop with a cause, after the last instruction that each has executed (R245, R246). -/
def stopAwls (f : Nat → Bool) (cause : Nat) (s : State) : State :=
  ((runAwls s).filter fun a => f a && !awlEnded s a).foldl
    (fun s a => if awlEnded s a then s else awlFaultAt a cause (awlOf s a).last s) s

/-! ### Yield points -/

/-- A yield point (R231): rows closed, owed refresh slots served; the awl then waits for `wait`, and pauses where R247
says so. Its accesses have returned. -/
def yieldNow (a : Nat) (wait : AwlWait) (s : State) : State :=
  let m := awlTier a
  let t := awlShank a
  let owed := Tab.get 0 s.stack.owed a
  let s := if owed = 0 then closeRows m t s else serveRefresh m t owed s
  setAwl a (fun w => { w with since := 0, inHold := false, yields := min 0xFFFFFF (w.yields + 1), wait := wait
                              paused := awlsPaused s }) s

/-- A yield point is due at an instruction boundary. -/
def yieldDue (s : State) (a : Nat) : Bool :=
  let w := awlOf s a
  decide (2048 ≤ w.since) || (Tab.get 0 s.stack.owed a != 0 && !w.inHold)

/-- The end of an instruction: counted, control passed on, and a due yield point taken, after the awl's accesses when
some are in flight. -/
def retire (a : Nat) (next : Nat × Loops) (s : State) : State :=
  let s := setAwl a (fun w => { w with
    last := w.pc, pc := next.1, loops := next.2, insns := min 0xFFFFFFFF (w.insns + 1), since := w.since + 1 }) s
  if yieldDue s a then
    if (awlOf s a).loads.isEmpty then yieldNow a .none s else setAwl a (fun w => { w with wait := .load }) s
  else s

/-- An instruction that only passes on. -/
def retireNext (a : Nat) (s : State) : State := retire a (nextPc (awlOf s a).pc (awlOf s a).loops) s

/-! ### Instructions -/

/-- The word at an awl's program counter. -/
def awlWord (s : State) (a : Nat) : Option Nat :=
  let pc := (awlOf s a).pc
  if 4 * pc + 4 ≤ (runProg s).length then some (field (runProg s) (4 * pc) 4) else none

/-- One instruction whose major opcode lies in a class: past the program it faults with PROG_ADDR (Table 8.9), with a reserved
function code with ILLEGAL (R227). -/
def awlStep (a lo hi : Nat) (s : State) (run : Nat → State → State) : Host.Outcome State Fault Refusal :=
  if awlRuns s a then
    match awlWord s a with
    | none => .next (awlFault a 2 s)
    | some w =>
      if lo ≤ opMajor w ∧ opMajor w ≤ hi then .next (if Config.reservedFunction w then awlFault a 1 s else run w s) else idle s
  else idle s

/-- A register still awaits load data: a scalar one, or a vector one. -/
def pendingX (w : Awl) (r : Nat) : Bool := r != 0 && w.loads.any fun l => l.word && l.reg == r
def pendingV (w : Awl) (r : Nat) : Bool := w.loads.any fun l => !l.word && (l.reg == r || l.reg + 1 == r)

/-- An instruction that names a register still awaiting data waits for it (R223). -/
def awlReady (a : Nat) (xs vs : List Nat) (run : State → State) (s : State) : State :=
  let w := awlOf s a
  if xs.any (pendingX w) || vs.any (pendingV w) then s else run s

/-- Vector register fields whose bits [4:3] are 0 (R227); any other value is illegal. -/
def legalV (rs : List Nat) : Bool := rs.all fun r => decide (r < 8)

/-- A scalar result. -/
def putX (a r v : Nat) (s : State) : State := setAwl a (fun w => { w with x := setX w.x 32 r v }) s

/-- A vector result. -/
def putV (a r v : Nat) (s : State) : State := setAwl a (fun w => { w with v := setV w.v r v }) s

/-- The free value of the next operation. -/
def freeNow (s : State) : Nat := (Config.freeWord s.fresh).toNat
def tick (s : State) : State := { s with fresh := s.fresh + 1 }

/-- AWL_SCALAR_INTEGER. -/
def execAwlScalarInteger (a : Nat) (op : IntOp) (form : Form) (s : State) : Host.Outcome State Fault Refusal :=
  awlStep a 0x00 0x07 s fun w s =>
    awlReady a ([opRs1 w, opRd w] ++ (if form = .register then [opRs2 w] else [])) [] (fun s =>
      let k := awlOf s a
      let b := if form = .register then regX k.x (opRs2 w) else ofSigned 32 (opImm w)
      retireNext a (tick (putX a (opRd w) (intOp 32 op (regX k.x (opRs1 w)) b (freeNow s)) s))) s

/-- AWL_CONTROL. -/
def execAwlControl (a : Nat) (op : CtlOp) (s : State) : Host.Outcome State Fault Refusal :=
  if ctlExists op then
    awlStep a 0x08 0x0B s fun w s =>
      awlReady a [opRs1 w, opRs2 w] [] (fun s =>
        let k := awlOf s a
        let n := control 32 op (regX k.x (opRs1 w)) (regX k.x (opRs2 w)) k.pc k.loops
        if (runProg s).length < 4 * n.1 + 4 then awlFault a 2 s else retire a n s) s
  else idle s

/-- A byte of an awl's scratch: as written, else the argument block's, else 0 (R226). -/
def scratchByte (s : State) (a i : Nat) : Byte :=
  match Tab.get none (awlOf s a).scratch i with
  | some b => b
  | none => match s.awls.cur with | some r => r.args.getD i 0 | none => 0

/-- Scratch bytes read and written. -/
def scratchRead (s : State) (a i n : Nat) : Bytes := (List.range n).map fun k => scratchByte s a (i + k)
def scratchWrite (a i : Nat) (bs : Bytes) (s : State) : State :=
  setAwl a (fun w => { w with scratch := bs.zipIdx.foldl (fun t (b, k) => Tab.set none t (i + k) (some b)) w.scratch }) s

/-- The scratch address of an instruction. -/
def scratchAddr (s : State) (a w : Nat) : Nat := ofSigned 32 ((regX (awlOf s a).x (opRs1 w) : Int) + opImm w)

/-- AWL_SCRATCH_SCALAR: 8, 16 or 32 bits. -/
def execAwlScratchScalar (a : Nat) (store : Bool) (size : Nat) (signed : Bool) (s : State) :
    Host.Outcome State Fault Refusal :=
  if size = 8 ∨ size = 16 ∨ size = 32 then
    awlStep a 0x0C 0x0D s fun w s =>
      awlReady a [opRs1 w, opRd w] [] (fun s =>
        let i := scratchAddr s a w
        let n := size / 8
        if 0x10000 < i + n then awlFault a 3 s
        else if store then retireNext a (scratchWrite a i (natLE n (regX (awlOf s a).x (opRd w))) s)
        else
          let v := leNat (scratchRead s a i n)
          retireNext a (putX a (opRd w) (if signed then ofSigned 32 (toSigned size v) else v) s)) s
  else idle s

/-- AWL_SCRATCH_VECTOR. -/
def execAwlScratchVector (a : Nat) (store : Bool) (s : State) : Host.Outcome State Fault Refusal :=
  awlStep a 0x0E 0x0F s fun w s =>
    if legalV [opRd w] = false then awlFault a 1 s
    else
      awlReady a [opRs1 w] [opRd w] (fun s =>
        let i := scratchAddr s a w
        if 0x10000 < i + 64 ∨ i % 64 ≠ 0 then awlFault a 3 s
        else if store then retireNext a (scratchWrite a i (natLE 64 (regV (awlOf s a).v (opRd w))) s)
        else retireNext a (putV a (opRd w) (leNat (scratchRead s a i 64)) s)) s

/-- Registers that a vector operation names: scalar and vector ones. -/
def vecFields (op : VecOp) (w : Nat) : List Nat × List Nat :=
  match op with
  | .insert _ => ([opRs1 w], [opRd w])
  | .extract _ => ([opRd w], [opRs1 w])
  | .broadcast _ | .exp | .recip | .rsqrt | .reduce => ([], [opRd w, opRs1 w])
  | _ => ([], [opRd w, opRs1 w, opRs2 w])

/-- AWL_VECTOR_ARITH: FP32 and INT32. -/
def execAwlVectorArith (a : Nat) (op : VecOp) (ln : Lane) (s : State) : Host.Outcome State Fault Refusal :=
  if vecOpExists op ln ∧ ln ≠ .bf16 then
    awlStep a 0x10 0x17 s fun w s =>
      let f := vecFields op w
      if legalV f.2 = false then awlFault a 1 s
      else
        awlReady a f.1 f.2 (fun s =>
          let k := awlOf s a
          match vecOp op ln (regV k.v (opRs1 w)) (regV k.v (opRs2 w)) (regV k.v (opRd w)) (regX k.x (opRs1 w)) with
          | .vec v => retireNext a (putV a (opRd w) v s)
          | .scalar x => retireNext a (putX a (opRd w) x s)) s
  else idle s

/-- Formats that an awl converts (Table 8.3). -/
def awlFormat (fmt : Nat) : Bool := fmt == 2 || fmt == 3 || fmt == 4 || fmt == 5 || fmt == fmtInt8

/-- An FP32 lane converted by an awl (R228, R115): as a tile does, but that INT8 without saturation keeps the low 8 bits of a
finite result. -/
def awlToFmt (fmt : Nat) (k : Rnd) (v : Nat) : Nat :=
  match fmt == fmtInt8 && !k.sat, fp32.value v with
  | true, .fin neg m e =>
    let q : Int := (roundTo k neg m e 0 : Nat)
    ofSigned 8 (if neg then -q else q)
  | _, _ => toFmt fmt k v

/-- Sixteen elements of a format put in the low or the next place of a register (log 40), or taken from it. -/
def packHalf (fmt : Nat) (high : Bool) (k : Rnd) (src old : Nat) : Nat :=
  let b := elemBits fmt
  let at' := if high then 16 * b else 0
  let v := (lanes src).zipIdx.foldl (fun n (x, i) => n + fld (awlToFmt fmt k x) (b * i) b) 0
  old - fld (old / 2 ^ at') at' (16 * b) + v * 2 ^ at'
def unpackHalf (fmt : Nat) (high : Bool) (k : Rnd) (src : Nat) : Nat :=
  let b := elemBits fmt
  let at' := if high then 16 * b else 0
  ofLanes ((List.range 16).map fun i => fromFmt fmt k (src / 2 ^ (at' + b * i) % 2 ^ b))

/-- AWL_VECTOR_CONVERT: to nearest even or toward zero, saturating or not (R228). -/
def execAwlVectorConvert (a : Nat) (op : AwlConv) (towardZero sat : Bool) (s : State) :
    Host.Outcome State Fault Refusal :=
  let fmt := match op with | .pack f _ => f | .unpack f _ => f
  if awlFormat fmt then
    awlStep a 0x18 0x19 s fun w s =>
      if legalV [opRd w, opRs1 w] = false then awlFault a 1 s
      else
        awlReady a [] [opRd w, opRs1 w] (fun s =>
          let k := awlOf s a
          let r : Rnd := { mode := if towardZero then 1 else 0, sat := sat }
          let v := match op with
            | .pack f h => packHalf f h r (regV k.v (opRs1 w)) (regV k.v (opRd w))
            | .unpack f h => unpackHalf f h r (regV k.v (opRs1 w))
          retireNext a (putV a (opRd w) v s)) s
  else idle s

/-! ### Lines -/

/-- The local index is in the awl's share (R229). -/
def inShare (s : State) (a i : Nat) : Bool :=
  let h := awlShare s a
  decide (h.1 ≤ i) && decide (i < h.1 + h.2)

/-- Shank-local index and device address of a local index. -/
def awlLine (a i : Nat) : Nat := 8 * i + (awlTier a - 1)
def awlAddr (s : State) (a i : Nat) : Nat := (lineOf s (awlShank a) (awlLine a i)).getD 0

/-- A word of a line lies at a byte offset of 0 to 124; another immediate names none and is taken as illegal (log 42). -/
def wordOff (w : Nat) : Option Nat := if 0 ≤ opImm w ∧ opImm w < 32 then some (4 * (opImm w).toNat) else none

/-- A load issued: it waits while four are in flight (R222). -/
def issueLoad (a : Nat) (l : AwlLoad) (s : State) : State :=
  if 4 ≤ (awlOf s a).loads.length then s
  else if inShare s a l.idx = false then awlFault a 4 s
  else retireNext a (setAwl a (fun w => { w with loads := w.loads ++ [l] }) s)

/-- The local index that an instruction names: rs1 plus an immediate. -/
def lineIndex (s : State) (a w : Nat) (imm : Int) : Nat := ofSigned 32 ((regX (awlOf s a).x (opRs1 w) : Int) + imm)

/-- LDL. -/
def execLdl (a : Nat) (s : State) : Host.Outcome State Fault Refusal :=
  awlStep a 0x1A 0x1A s fun w s =>
    let vd := opRd w
    if legalV [vd] = false ∨ vd % 2 ≠ 0 then awlFault a 1 s
    else awlReady a [opRs1 w] [vd, vd + 1] (fun s => issueLoad a ⟨(awlOf s a).pc, false, vd, lineIndex s a w (opImm w), 0⟩ s) s

/-- LDW. -/
def execLdw (a : Nat) (s : State) : Host.Outcome State Fault Refusal :=
  awlStep a 0x1A 0x1A s fun w s =>
    match wordOff w with
    | none => awlFault a 1 s
    | some off => awlReady a [opRs1 w, opRd w] [] (fun s => issueLoad a ⟨(awlOf s a).pc, true, opRd w, lineIndex s a w 0, off⟩ s) s

/-- Sectors of a line read in the tier for an awl: the line does not cross the shank. -/
def awlRead (a i sectors : Nat) (errs again : List CellError) (s : State) : State × LineRead :=
  let t := awlShank a
  let l := awlLine a i
  let p : Place := .stack t l
  let s := openRow t l (tally 3 t 10 1 s)
  let addr := awlAddr s a i
  (List.range 4).foldl (fun (acc : State × LineRead) k =>
    if bitB sectors k then
      let r := readSector p.checker (addr + 32 * k) (errsOf errs k) (errsOf again k) acc.1
      (r.1, { data := acc.2.data ++ r.2.data
              poison := acc.2.poison + if r.2.poison then 2 ^ k else 0
              dead := acc.2.dead + if r.2.dead then 2 ^ k else 0 })
    else (acc.1, { acc.2 with data := acc.2.data ++ zeros 32 })) (s, { data := [] })

/-- The row of an awl's line is being copied to its spare: an access to it waits (R198). -/
def awlRowWaits (s : State) (a i : Nat) : Bool :=
  let p := linePlace (awlLine a i)
  (shankOf s (awlShank a)).copying == some (p.1, p.2.1, p.2.2.1)

/-- AWL_LOAD_RETURN: the oldest load's data, or a fault with cause POISON (R229); a due yield point then follows. -/
def execAwlLoadReturn (a : Nat) (errs again : List CellError) (s : State) : Host.Outcome State Fault Refusal :=
  let w := awlOf s a
  match w.loads with
  | [] => idle s
  | l :: rest =>
    if w.state ≠ .running ∨ awlRowWaits s a l.idx then idle s
    else
      let r := awlRead a l.idx (if l.word then 2 ^ (l.off / 32) else 15) errs again s
      let s := if r.2.dead = 0 then r.1 else
        logLimited 0x0602 (0x5000 + a) (fld (awlAddr s a l.idx) 0 48 + fld (runTag s) 48 16) r.1
      if r.2.poison ≠ 0 then .next (awlFaultAt a 5 l.pc s)
      else
        let s := setAwl a (fun w => { w with
          loads := rest
          x := if l.word then setX w.x 32 l.reg (field r.2.data l.off 4) else w.x
          v := if l.word then w.v
            else setV (setV w.v l.reg (field r.2.data 0 64)) (l.reg + 1) (field r.2.data 64 64) }) s
        .next (if rest.isEmpty ∧ w.wait = .load then yieldNow a .none s else s)

/-- A store to a line of the share; it stays behind the loads of that line and waits while the line's row is copied. -/
def awlStore (a i : Nat) (data : List (Option Byte)) (errs : List CellError) (s : State) : State :=
  if (awlOf s a).loads.any fun l => l.idx == i then s
  else if inShare s a i = false then awlFault a 4 s
  else if awlRowWaits s a i then s
  else
    let t := awlShank a
    let p : Place := .stack t (awlLine a i)
    let s := openRow t (awlLine a i) (tally 3 t 10 1 s)
    let addr := awlAddr s a i
    let s := notePlain addr s
    retireNext a ((List.range 4).foldl (fun s k =>
      writeSector p.checker (addr + 32 * k) ((data.drop (32 * k)).take 32) false (errsOf errs k) s) s)

/-- STL. -/
def execStl (a : Nat) (s : State) : Host.Outcome State Fault Refusal :=
  awlStep a 0x1B 0x1B s fun w s =>
    let vd := opRd w
    if legalV [vd] = false ∨ vd % 2 ≠ 0 then awlFault a 1 s
    else
      awlReady a [opRs1 w] [vd, vd + 1] (fun s =>
        let k := awlOf s a
        awlStore a (lineIndex s a w (opImm w)) ((natLE 64 (regV k.v vd) ++ natLE 64 (regV k.v (vd + 1))).map some) [] s) s

/-- STW. -/
def execStw (a : Nat) (errs : List CellError) (s : State) : Host.Outcome State Fault Refusal :=
  awlStep a 0x1B 0x1B s fun w s =>
    match wordOff w with
    | none => awlFault a 1 s
    | some off =>
      awlReady a [opRs1 w, opRd w] [] (fun s =>
        let bs := (natLE 4 (regX (awlOf s a).x (opRd w))).map some
        awlStore a (lineIndex s a w 0) (List.replicate off none ++ bs ++ List.replicate (124 - off) none) errs s) s

/-- LINV (R225). -/
def execLinv (a : Nat) (s : State) : Host.Outcome State Fault Refusal :=
  awlStep a 0x1C 0x1C s fun w s =>
    awlReady a [opRs1 w, opRd w] [] (fun s =>
      retireNext a (putX a (opRd w) (awlAddr s a (regX (awlOf s a).x (opRs1 w)) / 128) s)) s

/-- The local index of a line number on an awl, all ones when another stores it (R225). -/
def lhomeOf (s : State) (a n : Nat) : Nat :=
  if columnBytes * stackW s ≤ n * 128 then 0xFFFFFFFF
  else
    let h := stackHome s (n * 128)
    if h.1 ≠ awlShank a ∨ h.2 % 8 ≠ awlTier a - 1 then 0xFFFFFFFF else h.2 / 8

/-- LHOME. -/
def execLhome (a : Nat) (s : State) : Host.Outcome State Fault Refusal :=
  awlStep a 0x1C 0x1C s fun w s =>
    awlReady a [opRs1 w, opRd w] [] (fun s =>
      retireNext a (putX a (opRd w) (lhomeOf s a (regX (awlOf s a).x (opRs1 w))) s)) s

/-! ### The tier bus -/

/-- The awl of a rank in the run. -/
def awlOfRank (s : State) (r : Nat) : Option Nat := (runAwls s)[r]?

/-- A receive queue has a free slot. -/
def hasSlot (s : State) (b : Nat) : Bool := decide ((awlOf s b).rxq.length + (awlOf s b).resv < 8)

/-- A message of an awl already waits for the bus. -/
def onBus (s : State) (a : Nat) : Bool := s.awls.bus.any fun b => b.src == a

/-- A message offered: slots reserved in the receivers' queues, then the bus awaited; or the awl waits for slots. -/
def offer (a : Nat) (dst : Option Nat) (dests : List Nat) (payload : Nat) (s : State) : State :=
  let w := awlOf s a
  let busy := s.awls.bus.any fun b => b.src / 256 == a / 256
  let ok := dests.all (hasSlot s)
  let s := if w.wait = .none ∧ (!ok || busy) then yieldNow a .send s else setAwl a (fun w => { w with wait := .send }) s
  if ok then
    let s := dests.foldl (fun s b => setAwl b (fun w => { w with resv := w.resv + 1 }) s) s
    { s with awls := { s.awls with bus := s.awls.bus ++ [⟨a, w.rank, dst, payload⟩] } }
  else s

/-- A tier-bus instruction, first met or met again while the awl waits for it; its accesses have returned. -/
def busStep (a : Nat) (wait : AwlWait) (s : State) (run : Nat → State → State) : Host.Outcome State Fault Refusal :=
  let w := awlOf s a
  if (awlRuns s a || (w.state == .running && w.wait == wait && !(w.paused && awlsPaused s))) && !onBus s a && w.loads.isEmpty
  then match awlWord s a with
    | none => .next (awlFault a 2 s)
    | some i => if opMajor i = 0x1D then .next (if Config.reservedFunction i then awlFault a 1 s else run i s) else idle s
  else idle s

/-- SEND: the payload in vd, the rank in rs1 (log 41). A rank outside the run or of an awl that has ended faults with
BUS (Table 8.9). -/
def execSend (a : Nat) (s : State) : Host.Outcome State Fault Refusal :=
  busStep a .send s fun w s =>
    if legalV [opRd w] = false then awlFault a 1 s
    else
      let k := awlOf s a
      match awlOfRank s (regX k.x (opRs1 w)) with
      | none => awlFault a 6 s
      | some b => if awlEnded s b then awlFault a 6 s else offer a (some b) [b] (regV k.v (opRd w)) s

/-- BCAST. -/
def execBcast (a : Nat) (s : State) : Host.Outcome State Fault Refusal :=
  busStep a .send s fun w s =>
    if legalV [opRd w] = false then awlFault a 1 s
    else offer a none (tierMates s a) (regV (awlOf s a).v (opRd w)) s

/-- The message that a tier's bus grants next: round robin in order of unit id after the last one served (R233). -/
def busPick (s : State) (m : Nat) : Option BusMsg :=
  let mine := s.awls.bus.filter fun b => awlTier b.src == m
  let turn := Tab.get 0 s.awls.turn m
  let least (l : List BusMsg) : Option BusMsg :=
    l.foldl (fun acc b => match acc with
      | none => some b
      | some c => if b.src < c.src then some b else some c) none
  match least (mine.filter fun b => decide (turn < b.src + 1)) with
  | some b => some b
  | none => least mine

/-- A message put in a receiver's queue, in its reserved slot. -/
def deliver (b : BusMsg) (dest : Nat) (s : State) : State :=
  setAwl dest (fun w => { w with rxq := w.rxq ++ [(b.rank, b.payload)], resv := w.resv - 1 }) s

/-- TIER_BUS_DELIVERY: the next message of a tier's bus lands, and its sender goes on. A receiver that has ended
meanwhile makes a SEND fault. -/
def execTierBusDelivery (m : Nat) (s : State) : Host.Outcome State Fault Refusal :=
  match busPick s m with
  | none => idle s
  | some b =>
    let s := { s with awls := { s.awls with
      bus := s.awls.bus.filter fun c => c.src != b.src
      turn := Tab.set 0 s.awls.turn m (b.src + 1) } }
    let sent (s : State) : State := retireNext b.src (setAwl b.src (fun w => { w with wait := .none }) s)
    match b.dst with
    | some d => if awlEnded s d then .next (awlFault b.src 6 s) else .next (sent (deliver b d s))
    | none => .next (sent ((tierMates s b.src).foldl (fun s d => deliver b d s) s))

/-- RECV: the oldest message's payload to vd (named in rs1's field) and its sender's rank to rd (log 41). -/
def execRecv (a : Nat) (s : State) : Host.Outcome State Fault Refusal :=
  busStep a .recv s fun w s =>
    let k := awlOf s a
    if legalV [opRs1 w] = false then awlFault a 1 s
    else match k.rxq with
      | (r, p) :: rest =>
        let s := setAwl a (fun k => { k with rxq := rest, wait := .none }) s
        retireNext a (putX a (opRd w) r (putV a (opRs1 w) p s))
      | [] =>
        let s := if k.wait = .none then yieldNow a .recv s else s
        settle (runAwls s).length s

/-- Awls of the run that have arrived at the barrier, or never will need to: those that wait at it and those halted. -/
def atBarrier (s : State) (a : Nat) : Bool :=
  let w := awlOf s a
  (w.state == .running && w.wait == .bar) || w.state == .halted

/-- BAR: the last to arrive does not wait long enough to yield. -/
def execBar (a : Nat) (s : State) : Host.Outcome State Fault Refusal :=
  let w := awlOf s a
  if awlRuns s a ∧ w.loads.isEmpty then
    match awlWord s a with
    | none => .next (awlFault a 2 s)
    | some i =>
      if opMajor i ≠ 0x1D then idle s
      else if Config.reservedFunction i then .next (awlFault a 1 s)
      else
        let last := (runAwls s).all fun b => b == a || atBarrier s b
        let s := if last then setAwl a (fun w => { w with wait := .bar }) s else yieldNow a .bar s
        .next (settle (runAwls s).length s)
  else idle s

/-- AWL_BARRIER_RELEASE: every awl of the run has arrived. -/
def execAwlBarrierRelease (s : State) : Host.Outcome State Fault Refusal :=
  let waiting := (runAwls s).filter fun a => (awlOf s a).state == .running && (awlOf s a).wait == .bar
  if waiting.isEmpty ∨ (runAwls s).all (atBarrier s) = false then idle s
  else .next (waiting.foldl (fun s a => retireNext a (setAwl a (fun w => { w with wait := .none }) s)) s)

/-! ### Control of the awl -/

/-- AWL_IDENT: unit id, tier, shank, tier pace, timebase low or high half. -/
def execAwlIdent (a which : Nat) (s : State) : Host.Outcome State Fault Refusal :=
  if 5 < which then idle s
  else
    awlStep a 0x1E 0x1E s fun w s =>
      awlReady a [opRd w] [] (fun s =>
        let v := match which with
          | 0 => a
          | 1 => awlTier a
          | 2 => awlShank a
          | 3 => (Tab.get {} s.pace.mons (15 + awlTier a)).pace
          | 4 => now s
          | _ => now s / 2 ^ 32
        retireNext a (putX a (opRd w) v s)) s

/-- YIELD. -/
def execYieldPoint (a : Nat) (s : State) : Host.Outcome State Fault Refusal :=
  awlStep a 0x1E 0x1E s fun _ s =>
    if (awlOf s a).loads.isEmpty then
      let n := nextPc (awlOf s a).pc (awlOf s a).loops
      yieldNow a .none (setAwl a (fun w => { w with
        last := w.pc, pc := n.1, loops := n.2, insns := min 0xFFFFFFFF (w.insns + 1) }) s)
    else s

/-- HOLD. -/
def execHold (a : Nat) (s : State) : Host.Outcome State Fault Refusal :=
  awlStep a 0x1E 0x1E s fun _ s => retireNext a (setAwl a (fun w => { w with inHold := true }) s)

/-- RELEASE. -/
def execRelease (a : Nat) (s : State) : Host.Outcome State Fault Refusal :=
  awlStep a 0x1E 0x1E s fun _ s => retireNext a (setAwl a (fun w => { w with inHold := false }) s)

/-- AWL_HALT: a yield point, and the end of the program. -/
def execAwlHalt (a : Nat) (s : State) : Host.Outcome State Fault Refusal :=
  awlStep a 0x3F 0x3F s fun _ s =>
    if (awlOf s a).loads.isEmpty then
      let s := yieldNow a .none s
      let s := setAwl a (fun w => { w with state := .halted, last := w.pc, insns := min 0xFFFFFFFF (w.insns + 1) }) s
      settle (runAwls s).length s
    else s

/-- Major opcodes that Table 8.3 reserves. -/
def awlReserved (m : Nat) : Bool := decide (0x1F ≤ m) && m != 0x3F

/-- AWL_ILLEGAL_INSTRUCTION: a reserved major opcode, or a reserved function code (R227). -/
def execAwlIllegalInstruction (a : Nat) (s : State) : Host.Outcome State Fault Refusal :=
  awlStep a 0x00 0x3E s fun w s =>
    if awlReserved (opMajor w) then awlFault a 1 s else s

/-! ### Runs -/

/-- An awl is available (R245). -/
def awlAvailable (s : State) (a : Nat) : Bool :=
  !(tierOf s (awlTier a - 1)).failed && (shankOf s (awlShank a)).mode != 2 && !s.bring.retired.contains (awlShank a)

/-- The awls of a run (R241), rising. -/
def awlsOf (s : State) (block : Bytes) : List Nat :=
  let tiers := field block 1 1
  let blocks := regionBlocks s (field block 0 1 % 64)
  (List.range 2048).filter fun a => bitB tiers (a / 256) && awlAvailable s a
    && !(bitB (field block 2 1) 0 && (share blocks (awlTier a)).2 == 0)

/-- An awl at entry (Table 8.8b). -/
def entryAwl (block : Bytes) (blocks : Nat × Nat) (awls : List Nat) (a : Nat) : Awl :=
  let h := share blocks (awlTier a)
  let mates := awls.filter fun b => b / 256 == a / 256
  let regs := [a, awlTier a, awlShank a, h.1, h.2, (awls.idxOf? a).getD 0, awls.length, (mates.idxOf? a).getD 0, mates.length,
    field block 36 4, field block 6 2]
  { x := regs.zipIdx.foldl (fun t (v, i) => Tab.set 0 t (i + 1) v) []
    state := .running, rank := (awls.idxOf? a).getD 0 }

/-- AWL_RUN trace record. -/
def awlRunTrace (tag n : Nat) (ended : Bool) (s : State) : State :=
  traceRec 0x09 0 (fld tag 0 16 + fld (b2n ended) 16 1 + fld n 32 16) s

/-- A run's record. -/
def runRec (block : Bytes) (status reason detail : Nat) (u : Sub) : Rec :=
  { kind := 3, status := status, reason := reason, opTag := field block 40 2, tag := u.tag, detail := detail }

/-- AWL_RUN_START: the run at the head of the queue is loaded and its awls start (Table 8.8a steps 1 to 3). A source
that cannot be read, or reads as poison, ends the run with an error (log 43). -/
def execAwlRunStart (rd : Remote) (s : State) : Host.Outcome State Fault Refusal :=
  heldRow s fun s =>
  match s.awls.queue with
  | [] => idle s
  | q :: rest =>
    match subOf s q.sub with
    | none => idle s
    | some u =>
      if s.awls.cur.isSome ∨ awlsPaused s ∨ ready s = false ∨ mayStart s u = false then idle s
      else
        let b := q.block
        let s := startSub q.sub { s with awls := { s.awls with queue := rest } }
        let awls := awlsOf s b
        if awls.isEmpty then .next (finishSub q.sub (runRec b 1 0 0) s)
        else
          let p := podRead .module (field b 8 8) (field b 4 2) rd s
          let g := podRead .module (field b 16 8) (field b 6 2) rd p.1
          let why := if p.2.reason ≠ 0 then p.2.reason else if g.2.reason ≠ 0 then g.2.reason
            else if p.2.poison || g.2.poison then 0x0110 else 0
          if why ≠ 0 then .next (finishSub q.sub (runRec b 3 why 0) g.1)
          else
            let s := awlRunTrace (field b 40 2) awls.length false (measure 2 (field b 40 2) p.2.data g.1)
            let blocks := regionBlocks s (field b 0 1 % 64)
            let units := awls.map fun a => (a, entryAwl b blocks awls a)
            let s := ((awls.map awlShank).eraseDups).foldl (fun s t => controlUnit (.slice t) s) s
            .next { s with awls := { s.awls with
              cur := some { sub := q.sub, block := b, prog := p.2.data, args := g.2.data, awls := awls,
                            left := 1000 * field b 32 4, faultLogged := false }
              awl := units, bus := [] } }

/-- An awl's result record (Table 8.10). -/
def awlResult (w : Awl) : Bytes :=
  let st := match w.state with | .halted => 1 | .faulted => 2 | _ => 3
  natLE 16 (fld st 0 3 + fld (if st = 2 then w.cause else 0) 4 4 + fld w.last 8 12 + fld (regX w.x 10) 32 32
    + fld w.insns 64 32 + fld w.preempt 96 8 + fld w.yields 104 24)

/-- The results of a run's awls written one after another; the first reason of a refused write. -/
def writeResults (r : CurRun) (rd : Remote) (s : State) : State × Nat :=
  r.awls.foldl (fun (acc : State × Nat) a =>
    let k := podWrite (field r.block 24 8 + 16 * a) (awlResult (awlOf s a)) rd acc.1
    (k.1, if acc.2 = 0 then k.2 else acc.2)) (s, 0)

/-- AWL_RUN_END: every awl has ended; results and completion are written. A refused result write makes the run end with
an error (log 43). -/
def execAwlRunEnd (rd : Remote) (s : State) : Host.Outcome State Fault Refusal :=
  heldRow s fun s =>
  match s.awls.cur with
  | none => idle s
  | some r =>
    if r.awls.all (awlEnded s) = false then idle s
    else
      let w := writeResults r rd s
      let bad := (r.awls.filter fun a => (awlOf s a).state != .halted).length
      let s := awlRunTrace (runTag s) r.awls.length true w.1
      let s := { s with awls := { s.awls with cur := none, awl := [], bus := [] } }
      .next (finishSub r.sub (if w.2 ≠ 0 then runRec r.block 3 w.2 0 else if bad = 0 then runRec r.block 1 0 0
        else runRec r.block 6 0 bad) s)

/-- The run in progress has used up its budget (R243). -/
def budgetSpent (s : State) : Bool := match s.awls.cur with | some r => r.left == 0 | none => false

/-- One tick of the timebase counted against the budget, unless every awl still running is paused (R243, log 43). -/
def budgetTick (s : State) : State :=
  if (runAwls s).all fun a => awlEnded s a || ((awlOf s a).paused && awlsPaused s) then s
  else { s with awls := { s.awls with cur := s.awls.cur.map fun r => { r with left := r.left - 1 } } }

/-- AWL_BUDGET_EXPIRY: the budget is spent, and every awl still running stops (R243). -/
def execAwlBudgetExpiry (s : State) : Host.Outcome State Fault Refusal :=
  let rs := (runAwls s).filter fun a => !awlEnded s a
  if rs.isEmpty ∨ budgetSpent s = false then idle s
  else
    let s := rs.foldl (fun s a => setAwl a (fun w => { w with state := .budget, wait := .none, loads := [] }) s) s
    .next { s with awls := { s.awls with bus := [] } }

end Sys2Proof.Machine
end

