-- ==== Sys2Proof/Machine/Faults.lean ====
section
/-! DEFINITION. Lost hardware while the module runs: lane faults and the shank modes (R173-R179), tier failures (R181),
side-stack retrains and offline stacks (R215, R216). Each follows the order of R485. -/

namespace Sys2Proof.Machine

/-- LANE_FAULT: the shank starts to reconfigure (Table 6.6, step 1), or the group of a fault that its guard has shown is
identified (step 3). -/
def execLaneFault (t g : Nat) (s : State) : Host.Outcome State Fault Refusal :=
  let k := shankOf s t
  if 256 ≤ t ∨ 17 ≤ g ∨ k.valid = false ∨ k.mode = 2 ∨ bitB k.failed g ∨ k.fault.isSome then idle s
  else .next (setShank t (fun k => { k with fault := some g, doubt := false }) s)

/-- A shank's event on the failure of a group (Table 6.7). -/
def shankEvent (t g healthy : Nat) (s : State) : State :=
  if healthy = 16 then logEvent 0x0301 (0x3000 + t) (fld g 0 5) s
  else if 8 ≤ healthy then logEvent 0x0302 (0x3000 + t) (fld g 0 5 + fld healthy 8 5) s
  else logEvent 0x0303 (0x3000 + t) (fld healthy 8 5) s

/-- What a shank's retirement takes with it (R177): its slice's lines and its awls. -/
def shankLost (t : Nat) (s : State) : State :=
  stopAwls (fun a => awlShank a == t) 9 (dropLines (fun slice _ => slice == t) s)

/-- The row of Table 6.7 by healthy groups; RUNTIME notes a change of row (log 44). -/
def modeRow (healthy : Nat) : Nat := if healthy = 17 then 0 else if healthy = 16 then 1 else if 8 ≤ healthy then 2 else 3

/-- SHANK_RECONFIGURED: the failed group is left out, and the shank takes its new mode (Table 6.6, steps 3 to 5; R175,
R176, R179), and its held transfers cross. Where the guard showed a fault and no lane reports one, no group is left out. -/
def execShankReconfigured (t : Nat) (s : State) : Host.Outcome State Fault Refusal :=
  match (shankOf s t).fault with
  | none =>
    if (shankOf s t).doubt then .next (reissueShank t (setShank t (fun k => { k with doubt := false }) s)) else idle s
  | some g =>
    let was := (shankOf s t).mode
    let s := reconfigure (fun s => setShank t (fun k =>
      let k' : Shank := { k with failed := k.failed + 2 ^ g, fault := none, tries := 0, trying := none }
      { k' with runtime := k.runtime || modeRow k'.healthy != modeRow k.healthy }) s) s
    let k := shankOf s t
    let lost := k.mode != was
    let s := if lost then setDegraded s else s
    let s := if k.mode = 2 ∧ was ≠ 2 then shankLost t s else s
    let s := shankEvent t g k.healthy s
    let s := if lost then degradedReport 1 s else s
    .next (reissueShank t (addHint 3 t g 0 0 (0x3000 + t) s))

/-- TIER_RAIL_FAILURE: the rail has been out of regulation for more than 1 ms (R181). -/
def execTierRailFailure (m mv : Nat) (s : State) : Host.Outcome State Fault Refusal :=
  if m = 0 ∨ 8 < m ∨ s.power.coreRails = false ∨ (tierOf s (m - 1)).failed then idle s
  else
    let s := setTier (m - 1) (fun d => { d with failed := true }) s
    let s := setDegraded { s with pace := { s.pace with vtier := Tab.set 0 s.pace.vtier (m - 1) mv } }
    let s := dropLines (fun _ v => v.index % 8 == m - 1) s
    let s := stopAwls (fun a => awlTier a == m) 8 s
    let s := degradedReport 2 (logEvent 0x0306 (0x4000 + m) (fld mv 0 12) s)
    .next (addHint 5 0 m 0 0 (0x4000 + m) s)

/-- A side stack goes offline, and what it held completes: reads with poison, writes and adds discarded (R216). -/
def sideOffline (i : Nat) (s : State) : State :=
  let s := reconfigure (setSide i fun k => { k with state := 1, runtime := true, fails := [] }) s
  let s := degradedReport 3 (logEvent 0x0403 (0x6000 + i) 0 (setDegraded s))
  drainSide i (addHint 6 i 0 0 0 (0x6000 + i) s)

/-- Failed link checks of a line's transfer. -/
def Side.failsOf (k : Side) (line : Nat) : Nat := ((k.fails.find? fun f => f.1 == line).map (·.2)).getD 0

/-- SIDE_LINK_CHECK_FAIL: the fourth failure of one transfer, which its line names, starts a retrain; within 1 s of the start of
the previous one it counts as a failed retrain (R215). -/
def execSideLinkCheckFail (i line : Nat) (s : State) : Host.Outcome State Fault Refusal :=
  let k := sideOf s i
  let others := k.fails.filter fun f => f.1 != line
  if 12 ≤ i ∨ k.state ≠ 0 ∨ k.ledger ∨ k.valid = false then idle s
  else if k.failsOf line < 3 then .next (setSide i (fun k => { k with fails := (line, k.failsOf line + 1) :: others }) s)
  else if (match k.retrain with | some t => decide (now s - t < 10 ^ 9) | none => false) then
    .next (sideOffline i (logEvent 0x0402 (0x6000 + i) 1 s))
  else
    .next (reconfigure (setSide i fun k => { k with state := 2, runtime := true, fails := others, retrain := some (now s) }) s)

/-- SIDE_STACK_RETRAIN: the retrain ends, well or not (Table 7.4, steps 4 and 5). -/
def execSideStackRetrain (i : Nat) (ok : Bool) (s : State) : Host.Outcome State Fault Refusal :=
  if (sideOf s i).state ≠ 2 then idle s
  else
    let s := tally 7 i 5 1 s
    if ok then
      .next (drainSide i (logEvent 0x0402 (0x6000 + i) 0 (reconfigure (setSide i fun k => { k with state := 0 }) s)))
    else .next (sideOffline i s)

end Sys2Proof.Machine
end

