-- ==== Sys2Proof/Machine/Desc.lean ====
section
/-! DEFINITION. Operation descriptors (R76-R81), their check, the storage of operands (R78-R80), and the split of an
operation (R83, R84). -/

namespace Sys2Proof.Machine

/-! ### Fields -/

/-- Fields of a descriptor (Table 3.3). -/
def dOp (d : Bytes) : Nat := dget d 0 8
def dFmtA (d : Bytes) : Nat := dget d 8 4
def dFmtB (d : Bytes) : Nat := dget d 12 4
def dFmtC (d : Bytes) : Nat := dget d 16 4
def dRound (d : Bytes) : Nat := dget d 20 3
def dSat (d : Bytes) : Bool := dget d 23 1 == 1
def dAGather (d : Bytes) : Bool := dget d 24 1 == 1
def dCGather (d : Bytes) : Bool := dget d 25 1 == 1
def dBiasEn (d : Bytes) : Bool := dget d 26 1 == 1
def dHomed (d : Bytes) : Bool := dget d 27 1 == 1
def dEpi (d : Bytes) : Nat := dget d 28 4
def dModel (d : Bytes) : Nat := dget d 32 12
def dTag (d : Bytes) : Nat := dget d 48 16
def dM (d : Bytes) : Nat := dget d 64 24
def dN (d : Bytes) : Nat := dget d 88 20
def dK (d : Bytes) : Nat := dget d 108 20
def dABase (d : Bytes) : Nat := dget d 128 54
def dBBase (d : Bytes) : Nat := dget d 192 54
def dCBase (d : Bytes) : Nat := dget d 256 54
def dBias (d : Bytes) : Nat := dget d 320 54
def dAStride (d : Bytes) : Nat := dget d 384 32
def dCStride (d : Bytes) : Nat := dget d 416 32
def dAScale (d : Bytes) : Nat := dget d 448 54
def dBScale (d : Bytes) : Nat := dget d 512 54
def dCScale (d : Bytes) : Nat := dget d 576 54
def dOutScale (d : Bytes) : Nat := if dget d 640 32 = 0 then 0x3F800000 else dget d 640 32
def dSeed (d : Bytes) : Nat := dget d 672 32
def dInH (d : Bytes) : Nat := dget d 704 16
def dInW (d : Bytes) : Nat := dget d 720 16
def dInC (d : Bytes) : Nat := dget d 736 20
def dKH (d : Bytes) : Nat := dget d 768 8
def dKW (d : Bytes) : Nat := dget d 776 8
def dStrideH (d : Bytes) : Nat := dget d 784 4
def dStrideW (d : Bytes) : Nat := dget d 788 4
def dDilH (d : Bytes) : Nat := dget d 792 4
def dDilW (d : Bytes) : Nat := dget d 796 4
def dPadT (d : Bytes) : Nat := dget d 800 8
def dPadB (d : Bytes) : Nat := dget d 808 8
def dPadL (d : Bytes) : Nat := dget d 816 8
def dPadR (d : Bytes) : Nat := dget d 824 8
def dBatch (d : Bytes) : Nat := dget d 832 16
def dExtArg (d : Bytes) : Nat := dget d 864 32
def dExtBase (d : Bytes) : Nat := dget d 896 54
def dRed (d : Bytes) : Nat := dget d 960 54

/-- Fields that every opcode uses; those of MATMUL and CONV2D; of MATMUL alone; of CONV2D alone; of ATTENTION (R152); of
TILE_PROGRAM (R93). A NOP names no model (log 49). -/
def usedAlways : List (Nat × Nat) := [(0, 8), (48, 16)]
def usedBoth : List (Nat × Nat) :=
  [(8, 4), (12, 4), (16, 4), (20, 3), (23, 1), (25, 1), (26, 1), (27, 1), (28, 4), (32, 12), (64, 24), (88, 20), (108, 20),
   (128, 54), (192, 54), (256, 54), (320, 54), (416, 32), (448, 54), (512, 54), (576, 54), (640, 32), (672, 32), (960, 54)]
def usedConv : List (Nat × Nat) :=
  [(24, 1), (704, 16), (720, 16), (736, 20), (768, 8), (776, 8), (784, 4), (788, 4), (792, 4), (796, 4), (800, 8), (808, 8),
   (816, 8), (824, 8), (832, 16)]
def usedAttention : List (Nat × Nat) :=
  [(16, 4), (20, 3), (23, 1), (32, 12), (64, 24), (88, 20), (108, 20), (672, 32), (896, 54)]
def usedProgram : List (Nat × Nat) := [(32, 12), (864, 32), (896, 54)]

/-- The fields that an opcode uses; none for an unknown opcode. -/
def usedFields (op : Nat) : Option (List (Nat × Nat)) :=
  match op with
  | 0 => some usedAlways
  | 1 => some (usedAlways ++ usedBoth ++ [(24, 1), (384, 32)])
  | 2 => some (usedAlways ++ usedBoth ++ usedConv)
  | 3 => some (usedAlways ++ usedAttention)
  | 4 => some (usedAlways ++ usedProgram)
  | _ => none

/-! ### Formats -/

/-- A format valid as A or B, or as C (Table 3.4). -/
def validAB (f : Nat) : Bool := decide (2 ≤ f) && decide (f ≤ 0xC)
def validC (f : Nat) : Bool := (decide (1 ≤ f) && decide (f ≤ 0xB)) || f == fmtInt32

/-- An integer format; an MX format. -/
def isInt (f : Nat) : Bool := f == fmtInt8 || f == fmtInt4 || f == fmtInt32
def isMx (f : Nat) : Bool := decide (6 ≤ f) && decide (f ≤ 0xA)

/-- Segment width of a format's rate class (Table 3.2). -/
def segOf (f : Nat) : Nat := if f = 0xA ∨ f = fmtInt4 then 128 else if f = 2 ∨ f = 3 then 32 else 64

/-- Segment width of an operation (R74): the class with the lower rate. -/
def dSeg (d : Bytes) : Nat := min (segOf (dFmtA d)) (segOf (dFmtB d))

/-- Stored bytes of a stationary vector of E elements (R79). -/
def vecBytes (f e : Nat) : Nat := e * elemBits f / 8

/-- Output height and width of a CONV2D, 0 when the kernel does not fit (R91). -/
def convOut (size padA padB dil k stride : Nat) : Nat :=
  let room := size + padA + padB
  let span := dil * (k - 1) + 1
  if room < span ∨ stride = 0 then 0 else (room - span) / stride + 1
def dOutH (d : Bytes) : Nat := convOut (dInH d) (dPadT d) (dPadB d) (dDilH d) (dKH d) (dStrideH d)
def dOutW (d : Bytes) : Nat := convOut (dInW d) (dPadL d) (dPadR d) (dDilW d) (dKW d) (dStrideW d)

/-! ### The check (R81) -/

/-- BAD_DESCRIPTOR at a field. -/
def badAt (c : Bool) (bit : Nat) : List Fail := failIf c 0x0108 bit

/-- Checks of MATMUL and CONV2D (R78, R81, R128). -/
def checkMatrix (d : Bytes) : List Fail :=
  let a := dFmtA d
  let b := dFmtB d
  let c := dFmtC d
  badAt (!validAB a) 8 ++ badAt (!validAB b) 12 ++ badAt (!validC c) 16 ++ badAt (decide (5 < dRound d)) 20
    ++ badAt (decide (4 < dEpi d)) 28
    ++ badAt (validAB a && validAB b && isInt a != isInt b) 12
    ++ badAt (validAB a && validC c && isInt a != isInt c) 16
    ++ badAt (isInt a && dBiasEn d) 26 ++ badAt (isInt a && decide (1 < dEpi d)) 28
    ++ badAt (dM d == 0) 64 ++ badAt (dN d == 0) 88 ++ badAt (dK d == 0) 108

/-- Checks of CONV2D (R91). -/
def checkConv (d : Bytes) : List Fail :=
  badAt (dAGather d) 24 ++ badAt (dKH d == 0) 768 ++ badAt (dKW d == 0) 776 ++ badAt (dStrideH d == 0) 784
    ++ badAt (dStrideW d == 0) 788 ++ badAt (dDilH d == 0) 792 ++ badAt (dDilW d == 0) 796
    ++ badAt (dOutH d == 0) 704 ++ badAt (dOutW d == 0) 720
    ++ badAt (dM d != dBatch d * dOutH d * dOutW d) 64 ++ badAt (dK d != dKH d * dKW d * dInC d) 108

/-- Failures of one descriptor; its index names the element (R387). A reserved bit or an unused field that is not 0 is
RESERVED_SET, every other fault BAD_DESCRIPTOR (DEDUCED, log 49). -/
def checkDesc (d : Bytes) : List Fail :=
  match usedFields (dOp d) with
  | none => badAt true 0
  | some used =>
    reservedFail d used
      ++ (match dOp d with
        | 1 => checkMatrix d
        | 2 => checkMatrix d ++ checkConv d
        | 3 => badAt (dFmtC d == 0 || decide (3 < dFmtC d)) 16 ++ badAt (decide (5 < dRound d)) 20
            ++ badAt (dM d == 0) 64 ++ badAt (dN d == 0) 88 ++ badAt (dK d == 0) 108
        | _ => [])

/-! ### The split -/

/-- Total width of a run. -/
def runWidth (r : List (Nat × Nat)) : Nat := (r.map (·.2)).foldl (· + ·) 0

/-- Runs of width at least `n` closed from tiles in ascending order, up to `s` of them; what is left over (R83). -/
def closeRuns (n : Nat) : Nat → List (Nat × Nat) → List (Nat × Nat) → List (List (Nat × Nat)) × List (Nat × Nat)
  | _, [], _ => ([], [])
  | s, t :: ts, opened =>
    if s = 0 then ([], t :: ts)
    else
      let r := opened ++ [t]
      if n ≤ runWidth r then
        let rest := closeRuns n (s - 1) ts []
        (r :: rest.1, rest.2)
      else closeRuns n s ts r

/-- Left-over tiles put one at a time on runs S-1, S-2, … , 0, S-1, … -/
def spread (runs : List (List (Nat × Nat))) (rest : List (Nat × Nat)) : List (List (Nat × Nat)) :=
  rest.zipIdx.foldl (fun rs (t, i) => rs.modify (runs.length - 1 - i % runs.length) (· ++ [t])) runs

/-- `form_runs`: the runs of a split with at most S of them. -/
def formRuns (tiles : List (Nat × Nat)) (s n : Nat) : List (List (Nat × Nat)) :=
  if s = 1 then [tiles]
  else
    let r := closeRuns n s tiles []
    spread r.1 r.2

/-- The loop of R83. -/
def planLoop (tiles : List (Nat × Nat)) (m n k e : Nat) (split : Bool) : Nat → Nat → Plan
  | 0, _ => ⟨1, 1, [tiles]⟩
  | fuel + 1, s =>
    let gm := min s ((m + 63) / 64)
    let gk := if split then min (s / gm) ((k + e - 1) / e) else 1
    let runs := formRuns tiles (gm * gk) n
    if runs.length = gm * gk ∨ runs.length = 0 then ⟨gm, gk, runs⟩ else planLoop tiles m n k e split fuel runs.length

/-- The split of an operation of M rows (R83); `split` allows K groups. -/
def makePlan (tiles : List (Nat × Nat)) (m n k e : Nat) (split : Bool) : Plan :=
  planLoop tiles m n k e split 257 (min tiles.length (max 1 (runWidth tiles / n)))

/-- Included tiles with their widths. -/
def included (s : State) : List (Nat × Nat) :=
  (List.range 256).filterMap fun t =>
    let w := (Tab.get {} s.tiles.stat t).width
    if w = 0 then none else some (t, w)

/-- One tile's share of an operation (R84): tile, rows [r0, r1), segments [s0, s1), columns [c0, c1), and its K group. -/
structure Share where
  tile : Nat
  r0   : Nat
  r1   : Nat
  s0   : Nat
  s1   : Nat
  c0   : Nat
  c1   : Nat
  kg   : Nat
  deriving DecidableEq, Repr

/-- Column shares of a run. -/
def runColumns (n wr : Nat) : Nat → List (Nat × Nat) → List (Nat × Nat × Nat)
  | _, [] => []
  | b, (t, w) :: rest => (t, n * b / wr, n * (b + w) / wr) :: runColumns n wr (b + w) rest

/-- Every tile's share. -/
def Plan.shares (p : Plan) (m n ks : Nat) : List Share :=
  (p.runs.zipIdx.map fun (r, j) =>
    let gm := j / p.gk
    let gk := j % p.gk
    (runColumns n (runWidth r) 0 r).map fun (t, c0, c1) =>
      { tile := t, r0 := m * gm / p.gm, r1 := m * (gm + 1) / p.gm, s0 := ks * gk / p.gk, s1 := ks * (gk + 1) / p.gk
        c0 := c0, c1 := c1, kg := gk : Share }).flatten

end Sys2Proof.Machine
end

