-- ==== Sys2Proof/Machine/Models.lean ====
section
/-! DEFINITION. Resident models and their matrices (R80, R101, R389), KV pools and frames (R141-R144, R148), sequences and
page tables (R145-R150), and the exchange of frames between modules (Table 12.7). -/

namespace Sys2Proof.Machine

/-- Bytes of a local pod global range as memory holds them, without any effect of a read. -/
def peek (s : State) (a n : Nat) : Bytes := (podRead .module a n [] s).2.data

/-- The pod global address of this module's device address. -/
def podAddr (s : State) (a : Nat) : Nat := s.pod.eff.device * 2 ^ 48 + a

/-- The first of `n` addresses from `a` at a stride that a test holds for. -/
def scanFrom : Nat → Nat → Nat → (Nat → Bool) → Option Nat
  | 0, _, _, _ => none
  | n + 1, a, st, p => if p a then some a else scanFrom n (a + st) st p

/-! ### Shapes -/

/-- Lines of a block of width D (R141). -/
def blockLines (fmt d : Nat) : Nat :=
  if fmt = 2 then (32 * d + 127) / 128 else if fmt = 0xA then (8 * d + 127) / 128 + (d + 255) / 256 else (16 * d + 127) / 128

/-- Lines F of a frame (Table 5.3). -/
def Shape.lines (h : Shape) : Nat :=
  if h.latent then h.l * blockLines h.fmt h.dk else h.l * h.h * (blockLines h.fmt h.dk + blockLines h.fmt h.dv)

/-- The shape that bits [127:64] of a MODEL_LOAD payload declare (Table 14.4). -/
def shapeOf (id : Nat) : Shape :=
  let lat := bits id 7 0 == 1
  { latent := lat, fmt := bits id 15 8, l := bits id 23 16 + 1, h := if lat then 1 else bits id 31 24 + 1
    g := bits id 39 32 + 1, dk := 32 * bits id 47 40, dv := 32 * bits id 55 48 }

/-- The shape identity of a shape. -/
def Shape.identity (h : Shape) : Nat :=
  fld (b2n h.latent) 0 8 + fld h.fmt 8 8 + fld (h.l - 1) 16 8 + fld (if h.latent then 0 else h.h - 1) 24 8
    + fld (h.g - 1) 32 8 + fld (h.dk / 32) 40 8 + fld (h.dv / 32) 48 8

/-- BAD_SHAPE at a field. -/
def shapeAt (c : Bool) (bit : Nat) : List Fail := failIf c 0x0109 bit

/-- A shape outside Table 5.1, or one whose frame exceeds 65,536 lines (R141). -/
def checkShape (id : Nat) : List Fail :=
  let h := shapeOf id
  let lat := h.latent
  shapeAt (decide (1 < bits id 7 0)) 64 ++ shapeAt (!(h.fmt == 2 || h.fmt == 4 || h.fmt == 5 || h.fmt == 0xA)) 72
    ++ shapeAt (if lat then bits id 31 24 != 0 else decide (64 < h.h)) 88
    ++ shapeAt (decide ((if lat then 128 else 16) < h.g)) 96
    ++ shapeAt (decide (h.dk < 64) || decide ((if lat then 576 else 256) < h.dk)) 104
    ++ shapeAt (decide (h.dv < 64) || decide ((if lat then h.dk else 256) < h.dv)) 112
    ++ failIf (decide (65536 < h.lines)) 0x0109

/-! ### Homed matrices (R80) -/

/-- Tiles of a homed plan: included tiles whose shank is in the interleave (log 45). -/
def planTiles (s : State) : List (Nat × Nat) := (included s).filter fun t => !s.bring.retired.contains t.1

/-- The plan of a homed matrix, K groups allowed (log 46). -/
def homedPlan (s : State) (m n k fmt : Nat) : Plan := makePlan (planTiles s) m n k (segOf fmt) true

/-- Bytes that one column of one segment takes in a stream: the vector and its scales. -/
def streamUnit (fmt : Nat) : Nat := vecBytes fmt (segOf fmt) + if isMx fmt then segOf fmt / 32 else 0

/-- Lines of a share's stream. -/
def Share.lines (h : Share) (fmt : Nat) : Nat := ((h.s1 - h.s0) * (h.c1 - h.c0) * streamUnit fmt + 127) / 128

/-- Shares of a homed matrix. -/
def matShares (p : Plan) (m n k fmt : Nat) : List Share := p.shares m n ((k + segOf fmt - 1) / segOf fmt)

/-- A packed matrix's bytes: the same number of blocks for every slice. -/
def packedSize (s : State) (p : Plan) (m n k fmt : Nat) : Nat :=
  ((matShares p m n k fmt).map fun h => h.lines fmt).foldl max 0 * stackW s * 128

/-- Device address of a byte of a tile's stream in a region that starts at `dst`. -/
def streamAddr (s : State) (dst tile off : Nat) : Nat :=
  (lineOf s tile (dst / (stackW s * 128) + off / 128)).getD 0 + off % 128

/-- Bytes written into a tile's stream from an offset, line by line. -/
def streamStore (dst tile : Nat) : Nat → Nat → Bytes → State → State
  | 0, _, _, s => s
  | k + 1, off, bs, s =>
    if bs.isEmpty then s
    else
      let n := 128 - off % 128
      streamStore dst tile k (off + n) (bs.drop n) (storeBytes (streamAddr s dst tile off) (bs.take n) s)

/-- The reason with which a read that a command needs fails: its own, or that of poison; 0 for none (R338, R483). -/
def PodRead.fault (r : PodRead) : Nat := if r.reason ≠ 0 then r.reason else if r.poison then 0x0110 else 0

/-- Source vectors of a segment and a share, then their scales, each source read noting what went wrong; and the place in
the matrix record of the source that did: SRC, or SCALE_SRC. -/
def packSegment (h : Share) (mat : Matrix) (seg : Nat) (rd : Remote) (s : State) : State × PodRead × Nat :=
  let e := segOf mat.fmt
  let read (base unit : Nat) (acc : State × PodRead) (c : Nat) : State × PodRead :=
    let r := podRead .module (base + (seg * mat.n + c) * unit) unit rd acc.1
    (r.1, { data := acc.2.data ++ r.2.data, poison := acc.2.poison || r.2.poison
            reason := if acc.2.reason = 0 then r.2.reason else acc.2.reason })
  let cols := (List.range (h.c1 - h.c0)).map (· + h.c0)
  let r := cols.foldl (read mat.src (vecBytes mat.fmt e)) (s, {})
  if isMx mat.fmt && r.2.fault == 0 then
    let q := cols.foldl (read mat.scale (e / 32)) r
    (q.1, q.2, 128)
  else (r.1, r.2, 0)

/-- One matrix packed: the state, the reason with which it fails (0 for none), and the field that names the source. -/
def packMatrix (mat : Matrix) (p : Plan) (rd : Remote) (s : State) : State × Nat × Nat :=
  (matShares p mat.planM mat.n mat.k mat.fmt).foldl (fun (acc : State × Nat × Nat) h =>
    let unit := (h.c1 - h.c0) * streamUnit mat.fmt
    (List.range (h.s1 - h.s0)).foldl (fun (acc : State × Nat × Nat) i =>
      if acc.2.1 ≠ 0 then acc
      else
        let r := packSegment h mat (h.s0 + i) rd acc.1
        if r.2.1.fault ≠ 0 then (r.1, r.2.1.fault, r.2.2)
        else (streamStore (podOffset mat.dst) h.tile (unit + 1) (i * unit) r.2.1.data r.1, 0, 0)) acc) (s, 0, 0)

/-! ### MODEL_LOAD -/

/-- A matrix record of a payload (Table 14.4). -/
def matRecord (pl : Bytes) (i : Nat) : Bytes := slice pl (128 + 48 * i) 48

/-- The record as a matrix without its plan. -/
def recMatrix (r : Bytes) : Matrix :=
  { src := field r 0 8, dst := field r 8 8, scale := field r 16 8, k := dget r 192 20, n := dget r 224 20
    fmt := dget r 244 8, plan := none, planM := field r 32 4 }

/-- Failures of one matrix record. -/
def checkRecord (s : State) (r : Bytes) (i : Nat) : List Fail :=
  let m := recMatrix r
  let homed := dget r 252 1 == 1
  let bytes := ((m.k + segOf m.fmt - 1) / segOf m.fmt) * m.n * vecBytes m.fmt (segOf m.fmt)
  let scales := ((m.k + segOf m.fmt - 1) / segOf m.fmt) * m.n * (segOf m.fmt / 32)
  let size := packedSize s (homedPlan s m.planM m.n m.k m.fmt) m.planM m.n m.k m.fmt
  let ok := validAB m.fmt && m.k != 0 && m.n != 0
  let mf := dget r 244 8
  reservedFail r [(0, 54), (64, 54), (128, 54), (192, 20), (224, 20), (244, 8), (252, 1), (256, 32)] i
    ++ failIf (!validAB mf) 0x0104 (some 244) i ++ failIf (m.k == 0) 0x0104 (some 192) i
    ++ failIf (m.n == 0) 0x0104 (some 224) i
    ++ failIf (ok && !(if homed then podRange s m.src bytes else localRange s m.src bytes)) 0x0106 (some 0) i
    ++ failIf (!isMx mf && m.scale != 0) 0x0103 (some 128) i
    ++ failIf (ok && isMx mf && !(if homed then podRange s m.scale scales else localRange s m.scale scales)) 0x0106 (some 128) i
    ++ (if homed then
          failIf (m.planM == 0 || decide (2 ^ 24 ≤ m.planM)) 0x0104 (some 256) i
            ++ failIf (podOffset m.dst % (stackW s * 128) != 0) 0x0105 (some 64) i
            ++ failIf (!(isLocal s m.dst && decide (podOffset m.dst < columnBytes * stackW s))
                || (ok && m.planM != 0 && !inStack s (podOffset m.dst) size)) 0x0106 (some 64) i
        else failIf (m.dst != 0) 0x0103 (some 64) i ++ failIf (m.planM != 0) 0x0103 (some 256) i)

/-- The regions that a payload adds: frames, then tables; base and length. -/
def loadFrames (pl : Bytes) : List (Nat × Nat) :=
  ((List.range 4).map fun i => (field pl (16 + 16 * i) 8, field pl (24 + 16 * i) 8)).filter fun r => r.2 != 0
def loadTable (pl : Bytes) : List (Nat × Nat) := [(field pl 88 8, field pl 96 8)].filter fun r => r.2 != 0

/-- The pool of a shape. -/
def poolOf (s : State) (h : Shape) : Option Nat :=
  s.obj.pools.findSome? fun (i, p) => match p with | some p => if p.shape = h then some i else none | none => none

/-- Check of MODEL_LOAD (R389, R143; regions and shape fields without HAS_SHAPE count as unused, log 51). -/
def checkModelLoad (pl : Bytes) (s : State) : List Fail :=
  let id := field pl 0 2
  let append := dget pl 16 1 == 1
  let has := dget pl 17 1 == 1
  let n := field pl 3 1
  let used := [(0, 16), (16, 1), (17, 1), (24, 8)] ++ (if has && !append then [(64, 56), (128, 54), (192, 64), (256, 54), (320, 64), (384, 54),
    (448, 64), (512, 54), (576, 64), (704, 54), (768, 64)] else [])
  let resident := (obj s.obj.models id).isSome
  reservedFail (slice pl 0 128) used
    ++ failIf (id != 0xFFFF && decide (4096 ≤ id)) 0x0104 (some 0)
    ++ failIf (append && !resident) 0x0107 (some 0)
    ++ failIf (append && has) 0x0103 (some 17)
    ++ failIf (!append && decide (id < 4096) && resident) 0x0303 (some 0)
    ++ failIf (decide (81 < n)) 0x0104 (some 24)
    ++ failIf (!append && id == 0xFFFF && (firstFree 4096 fun i => (obj s.obj.models i).isSome).isNone) 0x0201
    ++ (if has && !append then
          checkShape (field pl 8 8)
            ++ ((List.range 4).map fun i =>
                let b := field pl (16 + 16 * i) 8
                let l := field pl (24 + 16 * i) 8
                failIf (l != 0 && !localRange s b l) 0x0106 (some (128 + 128 * i))).flatten
            ++ failIf (field pl 96 8 != 0 && !localRange s (field pl 88 8) (field pl 96 8)) 0x0106 (some 704)
            ++ failIf ((poolOf s (shapeOf (field pl 8 8))).isNone && decide (64 ≤ Tab.live s.obj.pools)) 0x0201
        else [])
    ++ ((List.range (min n 81)).map fun i => checkRecord s (matRecord pl i) i).flatten

/-- The pool that a load declares: created, or given more regions (R143). -/
def declarePool (pl : Bytes) (s : State) : State × Option Nat :=
  if dget pl 17 1 = 0 then (s, none)
  else
    let h := shapeOf (field pl 8 8)
    let dev (r : Nat × Nat) : Nat × Nat := (podOffset r.1, r.2)
    let i := (poolOf s h).getD ((firstFree 64 fun i => (obj s.obj.pools i).isSome).getD 0)
    let p : Pool := (obj s.obj.pools i).getD { shape := h, regions := [], tables := [] }
    let p := { p with regions := p.regions ++ (loadFrames pl).map dev, tables := p.tables ++ (loadTable pl).map dev }
    let s := if (obj s.obj.pools i).isSome then s else startCounting 8 [i] s
    ({ s with obj := { s.obj with pools := setObj s.obj.pools i (some p) } }, some i)

/-- MODEL_LOAD run: matrices packed or registered, then the model entered. A matrix whose packing fails is named by its
record, and by the field of the source that could not be read, SRC (R387). -/
def runModelLoad (o : Origin) (rd : Remote) (pl : Bytes) (s : State) : State :=
  let n := field pl 3 1
  let packed := (List.range n).foldl (fun (acc : State × (Nat × Nat) × List Matrix) i =>
    if acc.2.1.1 ≠ 0 then acc
    else
      let r := matRecord pl i
      let m := recMatrix r
      if dget r 252 1 = 1 then
        let plan := homedPlan acc.1 m.planM m.n m.k m.fmt
        let m := { m with plan := some plan }
        let k := packMatrix m plan rd acc.1
        (k.1, k.2, acc.2.2 ++ [m])
      else (acc.1, (0, 0), acc.2.2 ++ [m])) (s, (0, 0), [])
  if packed.2.1.1 ≠ 0 then fail o ⟨packed.2.1.1, some packed.2.1.2, some (packed.2.2.length - 1)⟩ packed.1
  else
    let id := field pl 0 2
    let mats := packed.2.2
    let d := declarePool pl packed.1
    let s := d.1
    let (id, m) : Nat × Model :=
      if dget pl 16 1 = 1 then
        (id, match obj s.obj.models id with | some m => { m with mats := m.mats ++ mats } | none => ⟨mats, none⟩)
      else ((if id = 0xFFFF then (firstFree 4096 fun i => (obj s.obj.models i).isSome).getD 0 else id), ⟨mats, d.2⟩)
    answerOk o (natLE 2 id ++ natLE 1 (m.pool.getD 0xFF))
      { s with obj := { s.obj with models := setObj s.obj.models id (some m) } }

/-- MODEL_LOAD. -/
def execModelLoad (o : Origin) (rd : Remote) (s : State) : Host.Outcome State Fault Refusal :=
  heldRow s fun s =>
  .next (command o 0x0020 checkModelLoad (runModelLoad o rd) s)

/-! ### Tasks that name an object -/

/-- The descriptors of a task as memory holds them. -/
def taskDescs (s : State) (t : Task) : List Bytes := (List.range t.count).map fun i => peek s (t.descs + 128 * i) 128

/-- What the Cobbler reads of a task: its descriptors, and the parameter blocks of those that are ATTENTION. -/
def taskReads (s : State) (t : Task) : List (Nat × Nat) :=
  (t.descs, 128 * t.count) :: (taskDescs s t).flatMap fun d => if dOp d = 3 then [(dExtBase d, 128)] else []

/-- Tasks whose work could use a model: enabled ones, and those with a window, a batch or running work (R101). -/
def liveTasks (s : State) : List Nat :=
  (s.obj.tasks.filterMap fun (i, t) => match t with | some t => if t.enabled then some i else none | none => none)
    ++ s.sched.windows.map (·.task) ++ s.sched.ready.map (·.task) ++ s.sched.running.map (·.task)

/-- A model is named by live work. -/
def modelInUse (s : State) (id : Nat) : Bool :=
  (liveTasks s).any fun i => match obj s.obj.tasks i with
    | some t => (taskDescs s t).any fun d => dOp d != 0 && dModel d == id
    | none => false

/-- Another model of the same pool is resident. -/
def poolShared (s : State) (id pool : Nat) : Bool :=
  s.obj.models.any fun (i, m) => i != id && match m with | some m => m.pool == some pool | none => false

/-- Sequences of a pool. -/
def poolSeqs (s : State) (pool : Nat) : Nat := countObj s.obj.seqs fun q => q.pool == pool

/-- The descriptors of the tasks that live work names. -/
def liveReads (s : State) : List (Nat × Nat) := (liveTasks s).filterMap fun i =>
  (obj s.obj.tasks i).map fun t => (t.descs, 128 * t.count)

/-- Check of MODEL_EVICT. -/
def checkModelEvict (pl : Bytes) (s : State) : List Fail :=
  let id := field pl 0 2
  match obj s.obj.models id with
  | none => failIf true (if id < 4096 then 0x0107 else 0x0104) (some 0)
  | some m => failIf (modelInUse s id || match m.pool with
      | some p => !poolShared s id p && poolSeqs s p != 0
      | none => false) 0x0303 (some 0)

/-- MODEL_EVICT: the model, and with the last model of a shape its pool (R101, R143, Table 14.6). -/
def execModelEvict (o : Origin) (s : State) : Host.Outcome State Fault Refusal :=
  .next (readingCommand o 0x0021 (fun _ s => liveReads s) [] checkModelEvict
    (fun pl s =>
      let id := field pl 0 2
      let pools := match (obj s.obj.models id).bind (·.pool) with
        | some p => if poolShared s id p then s.obj.pools else setObj s.obj.pools p none
        | none => s.obj.pools
      answerOk o [] { s with obj := { s.obj with models := setObj s.obj.models id none, pools := pools } }) s)

/-! ### Pools -/

/-- The state with a pool changed. -/
def setPool (i : Nat) (f : Pool → Pool) (s : State) : State :=
  { s with obj := { s.obj with pools := setObj s.obj.pools i ((obj s.obj.pools i).map f) } }

/-- A free 8 KiB block of a pool's table region, the lowest first (log 47). -/
def freeBlock (p : Pool) : Option Nat :=
  p.tables.findSome? fun (b, l) =>
    let a := (b + 8191) / 8192 * 8192
    scanFrom ((b + l - a) / 8192) a 8192 fun x =>
      !p.blocks.contains x && !(p.descs.any fun d => decide (x ≤ d) && decide (d < x + 8192))

/-- A free descriptor slot of a pool's table region. -/
def freeDesc (p : Pool) : Option Nat :=
  p.tables.findSome? fun (b, l) =>
    let a := (b + 63) / 64 * 64
    scanFrom ((b + l - a) / 64) a 64 fun x => !p.descs.contains x && !p.blocks.contains (x / 8192 * 8192)

/-- `n` table blocks of a pool, or none. -/
def takeBlocks : Nat → Pool → Option (Pool × List Nat)
  | 0, p => some (p, [])
  | n + 1, p => match freeBlock p with
    | none => none
    | some x => match takeBlocks n { p with blocks := p.blocks ++ [x] } with
      | none => none
      | some r => some (r.1, x :: r.2)

/-- A frame as allocated: its device address, its class (Table 5.5), its home slice. -/
structure Frame where
  addr : Nat
  cls  : Nat
  home : Nat
  deriving DecidableEq, Repr

/-- First and last byte addresses of a frame of `n` lines: a stack frame's lines lie one in each of `n` blocks (R142). -/
def frameSpan (s : State) (a n : Nat) : Nat × Nat :=
  if sideBase ≤ a then (a, a + 128 * n)
  else
    let h := stackHome s a
    (a, ((lineOf s h.1 (h.2 + n - 1)).getD a) + 128)

/-- A free stack frame of a home slice that a test admits. -/
def freeStackFrame (s : State) (p : Pool) (ok : Nat → Bool) (h : Nat) : Option Nat :=
  let f := p.shape.lines
  let blk := stackW s * 128
  (lineOf s h 0).bind fun _ =>
    p.regions.findSome? fun (b, l) =>
      if sideBase ≤ b then none
      else
        let b0 := (b + blk - 1) / blk
        let runs := ((b + l) / blk - b0) / f
        (scanFrom runs b0 f fun k => Tab.get 0 p.refs (podAddr s ((lineOf s h k).getD 0)) == 0
            && !p.granted.contains ((lineOf s h k).getD 0) && ok ((lineOf s h k).getD 0)).map
          fun k => (lineOf s h k).getD 0

/-- A free frame of a side stack that is online (R216) and that a test admits. -/
def freeSideFrame (s : State) (p : Pool) (ok : Nat → Bool) (i : Nat) : Option Nat :=
  let f := p.shape.lines * 128
  if (sideOf s i).state = 1 ∨ (sideOf s i).ledger then none
  else
    p.regions.findSome? fun (b, l) =>
      if b < sideBase then none
      else
        let lo := max b (sideBase + i * 2 ^ 37)
        let hi := min (b + l) (sideBase + (i + 1) * 2 ^ 37)
        let a := (lo + 127) / 128 * 128
        scanFrom ((hi - a) / f) a f fun x => Tab.get 0 p.refs (podAddr s x) == 0 && !p.granted.contains x && ok x

/-- The first home with a free frame from a preferred one, and whether the preference was missed. -/
def pickStack (s : State) (p : Pool) (ok : Nat → Bool) (pref : Nat) : Option (Frame × Bool) :=
  (List.range 256).findSome? fun i =>
    let h := (pref + i) % 256
    (freeStackFrame s p ok h).map fun a => (⟨a, 0, h⟩, i != 0)
def pickSide (s : State) (p : Pool) (ok : Nat → Bool) (pref : Nat) : Option (Frame × Bool) :=
  (List.range 12).findSome? fun i =>
    let k := (pref + i) % 12
    (freeSideFrame s p ok k).map fun a => (⟨a, 1, 0⟩, i != 0)

/-- A frame by placement: 0 automatic, 1 stack, 2 side stack; `pref` is HOME0 + j (R148). -/
def pickFrame (s : State) (p : Pool) (ok : Nat → Bool) (placement pref : Nat) : Option (Frame × Bool) :=
  match placement with
  | 1 => pickStack s p ok pref
  | 2 => pickSide s p ok pref
  | _ => match pickStack s p ok pref with | some f => some f | none => pickSide s p ok pref

/-- Frames for a list of preferences, all or none: the pool, the frames, the misses. -/
def takeFrames (s : State) (ok : Nat → Bool) (placement : Nat) : List Nat → Pool → Option (Pool × List Frame × Nat)
  | [], p => some (p, [], 0)
  | pref :: rest, p => match pickFrame s p ok placement pref with
    | none => none
    | some (f, miss) =>
      match takeFrames s ok placement rest { p with refs := Tab.set 0 p.refs (podAddr s f.addr) 1 } with
      | none => none
      | some r => some (r.1, f :: r.2.1, r.2.2 + b2n miss)

/-! ### Sequences -/

/-- A page-table entry (Table 5.5) for a pod global frame address. -/
def pteOf (cls addr home : Nat) (shared : Bool) : Nat :=
  1 + fld cls 1 2 + fld (b2n shared) 3 1 + fld (addr / 128) 7 47 + fld home 54 8

/-- Device address of page p's entry in its leaf. -/
def pteAddr (q : Seq) (p : Nat) : Nat := nth q.leaves (p / 1024) + 8 * (p % 1024)

/-- A sequence's fields in its descriptor. -/
def seqLength (s : State) (q : Seq) : Nat := dget (peek s (podAddr s q.desc) 64) 64 25
def seqCapacity (s : State) (q : Seq) : Nat := dget (peek s (podAddr s q.desc) 64) 96 21
def seqChunkLog (s : State) (q : Seq) : Nat := dget (peek s (podAddr s q.desc) 64) 24 4
def seqHome0 (s : State) (q : Seq) : Nat := dget (peek s (podAddr s q.desc) 64) 32 8

/-- Capacity and length written back. -/
def setCapacity (q : Seq) (n : Nat) (s : State) : State := storeBytes (q.desc + 12) (natLE 4 n) s

/-- Leaves put in a sequence's directory from an index. -/
def linkLeaves (q : Seq) (first : Nat) (leaves : List Nat) (s : State) : State :=
  leaves.zipIdx.foldl (fun s (x, i) =>
    storeBytes (q.dir + 8 * (first + i)) (natLE 8 (pteOf (if sideBase ≤ x then 1 else 0) (podAddr s x) 0 false)) (storeBytes x (zeros 8192) s)) s

/-- A sequence by number and generation. -/
def seqOf (s : State) (id gen : Nat) : Option Seq :=
  match obj s.obj.seqs id with | some q => if q.gen = gen then some q else none | none => none

/-- Failures of a named sequence: no such number, or another generation. -/
def seqFail (s : State) (id gen bit : Nat) : List Fail :=
  match obj s.obj.seqs id with
  | none => failIf true 0x0107 (some bit)
  | some q => failIf (q.gen != gen) 0x0107 (some (bit + 16))

/-- Check of SEQ_CREATE (R147). -/
def checkSeqCreate (pl : Bytes) (s : State) : List Fail :=
  let par := bitB (field pl 3 1) 0
  let pid := field pl 4 2
  let pgen := field pl 6 2
  let p := field pl 8 4
  let used := [(0, 16), (16, 8), (24, 1), (128, 54), (192, 32)] ++ (if par then [(32, 16), (48, 16), (64, 32)] else [])
  let pool := (obj s.obj.models (field pl 0 2)).bind (·.pool)
  reservedFail (pl.take 28) used
    ++ failIf (decide (4096 ≤ field pl 0 2)) 0x0104 (some 0) ++ failIf pool.isNone 0x0107 (some 0)
    ++ failIf (decide (12 < field pl 2 1)) 0x0104 (some 16)
    ++ failIf (decide (65536 < field pl 24 4)) 0x0104 (some 192)
    ++ failIf (field pl 24 4 != 0 && !podRange s (field pl 16 8) 4) 0x0106 (some 128)
    ++ (if par then
          seqFail s pid pgen 32 ++ (match seqOf s pid pgen with
            | some q => failIf (some q.pool != pool) 0x0109 (some 32)
                ++ failIf (decide (seqLength s q / 16 < p)) 0x0104 (some 64)
                ++ failIf (s.obj.extending.any fun e => e.seq == pid) 0x0303 (some 32)
            | none => [])
        else [])
    ++ failIf (decide (65536 ≤ Tab.live s.obj.seqs)) 0x0201
    ++ (match pool.bind (obj s.obj.pools) with
        | some k => failIf ((freeDesc k).isNone || (match freeDesc k with
            | some d => (takeBlocks (1 + (if par then (p + 1023) / 1024 else 0)) { k with descs := d :: k.descs }).isNone
            | none => true)) 0x0202
        | none => [])

/-- The first pages of a new sequence: the parent's frames, shared in both (R147). -/
def sharePages (parent child : Seq) (n : Nat) (s : State) : State :=
  (List.range n).foldl (fun s i =>
    let e := field (peek s (podAddr s (pteAddr parent i)) 8) 0 8
    let e := if bitB e 3 then e else e + 8
    let s := storeBytes (pteAddr child i) (natLE 8 e) (storeBytes (pteAddr parent i) (natLE 8 e) s)
    setPool child.pool (fun p => { p with refs := Tab.upd 0 p.refs (bits e 53 7 * 128) (· + 1) }) s) s

/-- SEQ_CREATE run. -/
def runSeqCreate (o : Origin) (pl : Bytes) (s : State) : State :=
  let par := bitB (field pl 3 1) 0
  let n := if par then field pl 8 4 else 0
  let pi := (((obj s.obj.models (field pl 0 2)).bind (·.pool))).getD 0
  match obj s.obj.pools pi, firstFree 65536 fun i => (obj s.obj.seqs i).isSome with
  | some k, some id =>
    let d := (freeDesc k).getD 0
    match takeBlocks (1 + (n + 1023) / 1024) { k with descs := k.descs ++ [d], gens := Tab.upd 0 k.gens d fun g => (g + 1) % 2 ^ 16 } with
    | some (k, dir :: leaves) =>
      let gen := Tab.get 0 k.gens d
      let q : Seq := { pool := pi, desc := d, dir := dir, leaves := leaves, gen := gen }
      let home := s.obj.homeNext
      let s := { s with obj := { s.obj with
        pools := setObj s.obj.pools pi (some k), seqs := setObj s.obj.seqs id (some q), homeNext := (home + 1) % 256 } }
      let desc := natLE 64 (fld id 0 16 + fld pi 16 8 + fld (field pl 2 1) 24 4 + fld 1 28 1 + fld home 32 8 + fld gen 48 16
        + fld (16 * n) 64 25 + fld n 96 21 + fld n 128 21 + fld dir 160 48 + fld (field pl 16 8) 224 48
        + fld (field pl 24 4) 288 17)
      let s := linkLeaves q 0 leaves (storeBytes dir (zeros 8192) (storeBytes d desc s))
      let s := match seqOf s (field pl 4 2) (field pl 6 2) with
        | some parent => if par then sharePages parent q n s else s
        | none => s
      answerOk o (natLE 2 id ++ natLE 2 gen ++ zeros 4 ++ natLE 8 d) s
    | _ => s
  | _, _ => s

/-- What the Cobbler reads of a sequence: its descriptor, and the leaves of its page table. -/
def seqReads (s : State) (q : Seq) : List (Nat × Nat) := (podAddr s q.desc, 64) :: q.leaves.map fun x => (podAddr s x, 8192)

/-- What the Cobbler reads for SEQ_CREATE: the parent, where one is named. -/
def createReads (pl : Bytes) (s : State) : List (Nat × Nat) :=
  match seqOf s (field pl 4 2) (field pl 6 2) with
  | some q => if bitB (field pl 3 1) 0 then seqReads s q else []
  | none => []

/-- SEQ_CREATE. -/
def execSeqCreate (o : Origin) (s : State) : Host.Outcome State Fault Refusal :=
  .next (readingCommand o 0x0050 createReads [] checkSeqCreate (runSeqCreate o) s)

/-- Pages added to a sequence with their frames, leaves first (R148, R149). -/
def addPages (id : Nat) (q : Seq) (first : Nat) (ptes leaves : List Nat) (s : State) : State :=
  let have' := q.leaves.length
  let q' := { q with leaves := q.leaves ++ leaves }
  let s := linkLeaves q' have' leaves { s with obj := { s.obj with seqs := setObj s.obj.seqs id (some q') } }
  let s := ptes.zipIdx.foldl (fun s (e, i) => storeBytes (pteAddr q' (first + i)) (natLE 8 e) s) s
  setCapacity q' (first + ptes.length) s

/-- New leaves that a capacity needs. -/
def leavesFor (q : Seq) (target : Nat) : Nat := (target + 1023) / 1024 - q.leaves.length

/-- A refused extension counts in the pool's counters. -/
def refuseExtend (o : Origin) (pool : Nat) (f : Fail) (s : State) : State := refuse o f (tally 8 pool 6 1 s)

/-- Check of SEQ_EXTEND (R148). -/
def checkSeqExtend (pl : Bytes) (s : State) : List Fail :=
  let place := field pl 8 1
  let dev := field pl 9 1
  seqFail s (field pl 0 2) (field pl 2 2) 0
    ++ failIf (decide (2 ^ 20 < field pl 4 4)) 0x0104 (some 32)
    ++ failIf (decide (3 < place)) 0x0104 (some 64)
    ++ failIf (place != 3 && dev != 0) 0x0103 (some 72)
    ++ failIf (place == 3 && (decide (64 ≤ dev) || dev == s.pod.eff.device)) 0x0104 (some 72)
    ++ failIf (s.obj.extending.any fun e => e.seq == field pl 0 2) 0x0303 (some 0)
    ++ failIf (place == 3 && decide (dev < 64) && dev != s.pod.eff.device && !bitB s.pod.eff.members dev) 0x0602 (some 72)

/-- SEQ_EXTEND run: placed here at once, or asked of another module (R148, Table 12.7). -/
def runSeqExtend (o : Origin) (pl : Bytes) (s : State) : State :=
  let id := field pl 0 2
  let target := field pl 4 4
  match obj s.obj.seqs id with
  | none => s
  | some q =>
    let cap := seqCapacity s q
    if target ≤ cap then answerOk o (natLE 4 cap) s
    else match obj s.obj.pools q.pool with
      | none => s
      | some k =>
        let pages := (List.range (target - cap)).map (· + cap)
        let pref (p : Nat) : Nat := seqHome0 s q + p / 2 ^ seqChunkLog s q
        if field pl 8 1 = 3 then
          let dev := field pl 9 1
          if (routePort s dev 0).isNone then refuseExtend o q.pool ⟨0x0601, some 72, none⟩ s
          else
            let m := s.pod.mseq
            let pay := natLE 8 k.shape.identity ++ natLE 4 (target - cap) ++ natLE 4 (cap / 2 ^ seqChunkLog s q)
              ++ natLE 1 (seqHome0 s q)
            let s := begin' o { s with
              obj := { s.obj with extending := s.obj.extending ++ [⟨o, id, target, dev, m, []⟩] }
              pod := { s.pod with mseq := (m + 1) % 2 ^ 16 } }
            sendRequest 0x06 dev 0 0xB000 0 0 pay.length (some (fld 4 0 16 + fld m 16 16)) pay (.frames o) s
        else match takeFrames s (fun _ => true) (field pl 8 1) (pages.map pref) k with
          | none => refuseExtend o q.pool ⟨0x0202, none, none⟩ s
          | some (k, frames, misses) => match takeBlocks (leavesFor q target) k with
            | none => refuseExtend o q.pool ⟨0x0202, none, none⟩ s
            | some (k, leaves) =>
              let s := tally 8 q.pool 3 misses (tally 8 q.pool 2 frames.length s)
              let s := setPool q.pool (fun _ => k) s
              let ptes := frames.map fun f => pteOf f.cls (podAddr s f.addr) f.home false
              answerOk o (natLE 4 target) (addPages id q cap ptes leaves s)

/-- What the Cobbler reads for SEQ_EXTEND: the sequence's descriptor. -/
def extendReads (pl : Bytes) (s : State) : List (Nat × Nat) :=
  match seqOf s (field pl 0 2) (field pl 2 2) with
  | some q => [(podAddr s q.desc, 64)]
  | none => []

/-- SEQ_EXTEND. -/
def execSeqExtend (o : Origin) (s : State) : Host.Outcome State Fault Refusal :=
  .next (readingCommand o 0x0051 extendReads [] checkSeqExtend (runSeqExtend o) s)

/-- A frame lies inside a window that is exported with READ and WRITE rights to a device. -/
def exported (s : State) (dev a n : Nat) : Bool :=
  let r := frameSpan s a n
  s.pod.eff.windows.any fun w =>
    w.read && w.write && bitB w.devices dev && decide (w.base ≤ r.1) && decide (r.2 ≤ w.base + w.len)

/-- Preferences of the pages of a FRAME_REQ: HOME0 + j of each page's chunk. The message gives the first page's chunk and no
chunk size, so the chunks of the pages after it are free (R148, log 50). -/
def grantPrefs (home0 first n salt : Nat) : List Nat :=
  (List.range n).map fun i => home0 + first + if i = 0 then 0 else Config.chunkAfter salt i

/-- FRAME_REQ: every page granted, in a frame inside an exported window, or none (R148, Table 12.7). The message carries no
placement and the spec does not say whether stack or side frames are granted: the model takes them as automatic does,
stack frames and then side frames (DESIGN CHOICE, log 191). -/
def takeFrameReq (m : MboxMsg) (s : State) : State :=
  let n := field m.payload 8 4
  let h := shapeOf (field m.payload 0 8)
  let reply (frames : List Nat) (s : State) : State :=
    let groups := if frames.isEmpty then 1 else (frames.length + 510) / 511
    (List.range groups).foldl (fun s g =>
      let part := (frames.drop (511 * g)).take 511
      sendMailbox m.src 5 m.seq (natLE 4 frames.length ++ zeros 4 ++ (part.map (natLE 8)).flatten) s) s
  match (poolOf s h).bind fun i => (obj s.obj.pools i).map fun k => (i, k) with
  | none => reply [] s
  | some (i, k) =>
    match takeFrames s (fun a => exported s m.src a h.lines) 0 (grantPrefs (field m.payload 16 1) (field m.payload 12 4) n s.fresh) k with
    | none => reply [] s
    | some (k', frames, misses) =>
      let s := tally 8 i 3 misses (tally 8 i 2 n { s with fresh := s.fresh + 1 })
      let s := setPool i (fun p => { p with refs := k'.refs, granted := p.granted ++ frames.map (·.addr) }) s
      reply (frames.map fun f => podAddr s f.addr) s

/-- FRAME_REQ. -/
def execFrameReq (s : State) : Host.Outcome State Fault Refusal := mailRow 4 takeFrameReq s

/-- FRAME_RSP: frames gathered, and the extension completed or refused when all have come (R148). -/
def takeFrameRsp (m : MboxMsg) (s : State) : State :=
  match s.obj.extending.find? fun e => e.mseq == m.seq && e.dev == m.src with
  | none => s
  | some e =>
    let granted := field m.payload 0 4
    let got := e.frames ++ (List.range ((m.payload.length - 8) / 8)).map fun i => field m.payload (8 + 8 * i) 8
    let got := got.take granted
    let drop (s : State) : State := { s with
      obj := { s.obj with extending := s.obj.extending.filter fun x => !(x.by' == e.by') }
      pod := { s.pod with reqs := s.pod.reqs.filter fun r => !(r.why == .frames e.by') } }
    match obj s.obj.seqs e.seq with
    | none => refuse e.by' ⟨0x0107, some 0, none⟩ (drop s)
    | some q =>
      let s := readAhead [(podAddr s q.desc, 64)] [] s
      let cap := seqCapacity s q
      if granted < e.target - cap then refuseExtend e.by' q.pool ⟨0x0202, none, none⟩ (drop s)
      else if got.length < granted then
        { s with obj := { s.obj with extending := s.obj.extending.map fun x =>
          if x.by' == e.by' then { x with frames := got } else x } }
      else match (obj s.obj.pools q.pool).bind (takeBlocks (leavesFor q e.target)) with
        | none =>
          let s := sendMailbox e.dev 7 s.pod.mseq (natLE 4 got.length ++ zeros 4 ++ (got.map (natLE 8)).flatten) (drop s)
          refuseExtend e.by' q.pool ⟨0x0202, none, none⟩ { s with pod := { s.pod with mseq := (s.pod.mseq + 1) % 2 ^ 16 } }
        | some (k, leaves) =>
          let frames := got.take (e.target - cap)
          let k := { k with refs := frames.foldl (fun r a => Tab.upd 0 r a (· + 1)) k.refs }
          let s := setPool q.pool (fun _ => k) (drop s)
          let s := addPages e.seq q cap (frames.map fun a => pteOf 2 a 0 false) leaves s
          answerOk e.by' (natLE 4 e.target) s

/-- FRAME_RSP. -/
def execFrameRsp (s : State) : Host.Outcome State Fault Refusal :=
  heldRow s fun s =>
  mailRow 5 takeFrameRsp s

/-- FRAME_FREE: granted frames taken back. -/
def execFrameFree (s : State) : Host.Outcome State Fault Refusal :=
  mailRow 7 (fun m s =>
    let n := min (field m.payload 0 4) ((m.payload.length - 8) / 8)
    let as := (List.range n).map fun i => field m.payload (8 + 8 * i) 8
    let free (p : Pool) : Pool := { p with
      granted := p.granted.filter fun a => !as.contains (podAddr s a)
      refs := as.foldl (fun r a => if p.granted.contains (podOffset a) then Tab.set 0 r a 0 else r) p.refs }
    { s with obj := { s.obj with pools := s.obj.pools.map fun (i, p) => (i, p.map free) } }) s

/-- A sequence is named by a submission that has not completed: by its row list in a gathering task (R153), else by the list
of an ATTENTION of its task (R150). Lists and parameter blocks of another module are read there. -/
def seqInUse (s : State) (q : Seq) (rd : Remote) : Bool :=
  let a := podAddr s q.desc
  let look (x n : Nat) : Bytes := (podRead .module x n rd s).2.data
  s.sched.subs.any fun u => u.kind == 1 && match obj s.obj.tasks u.obj with
    | none => false
    | some t =>
      if t.gather then u.rows.any fun r => dget r.seqe 0 54 == a
      else (taskDescs s t).any fun d => dOp d == 3 &&
        let p := look (dExtBase d) 128
        (List.range (dget p 96 17)).any fun i => dget (look (dget p 128 54 + 64 * i) 64) 0 54 == a

/-- One reference of a frame dropped; a remote frame that nothing holds any more is given back. -/
def dropFrame (pool a : Nat) (s : State) : State :=
  let n := match obj s.obj.pools pool with | some p => Tab.get 0 p.refs a | none => 0
  let s := setPool pool (fun p => { p with refs := Tab.upd 0 p.refs a (· - 1) }) s
  if n = 1 ∧ isLocal s a = false then
    let s := sendMailbox (podDevice a) 7 s.pod.mseq (natLE 4 1 ++ zeros 4 ++ natLE 8 a) s
    { s with pod := { s.pod with mseq := (s.pod.mseq + 1) % 2 ^ 16 } }
  else s

/-- SEQ_FREE run (R150). -/
def runSeqFree (o : Origin) (pl : Bytes) (s : State) : State :=
  match obj s.obj.seqs (field pl 0 2) with
  | none => s
  | some q =>
    let es := (List.range (seqCapacity s q)).map fun p => field (peek s (podAddr s (pteAddr q p)) 8) 0 8
    let s := es.foldl (fun s e => dropFrame q.pool (bits e 53 7 * 128) s) s
    let flags := field (peek s (podAddr s (q.desc + 3)) 1) 0 1
    let s := storeBytes (q.desc + 3) (natLE 1 (flags % 16)) s
    let s := setPool q.pool (fun p => { p with
      blocks := p.blocks.filter fun x => x != q.dir && !q.leaves.contains x
      descs := p.descs.filter fun x => x != q.desc }) s
    answerOk o [] { s with obj := { s.obj with seqs := setObj s.obj.seqs (field pl 0 2) none } }

/-- What the Cobbler reads for SEQ_FREE: the sequence, and the lists of the ATTENTIONs that outstanding work names. -/
def freeReads (rd : Remote) (pl : Bytes) (s : State) : List (Nat × Nat) :=
  (match seqOf s (field pl 0 2) (field pl 2 2) with | some q => seqReads s q | none => [])
    ++ s.sched.subs.flatMap fun u => match (if u.kind = 1 then obj s.obj.tasks u.obj else none) with
      | some t => if t.gather then [] else taskReads s t ++ (taskDescs s t).flatMap fun d =>
          if dOp d = 3 then
            let p := (podRead .module (dExtBase d) 128 rd s).2.data
            [(dget p 128 54, 64 * dget p 96 17)]
          else []
      | none => []

/-- Check of SEQ_FREE (R150). -/
def checkSeqFree (rd : Remote) (pl : Bytes) (s : State) : List Fail :=
  seqFail s (field pl 0 2) (field pl 2 2) 0
    ++ failIf (s.obj.extending.any fun e => e.seq == field pl 0 2) 0x0303 (some 0)
    ++ (match obj s.obj.seqs (field pl 0 2) with | some q => failIf (seqInUse s q rd) 0x0303 (some 0) | none => [])

/-- SEQ_FREE. -/
def execSeqFree (o : Origin) (rd : Remote) (s : State) : Host.Outcome State Fault Refusal :=
  .next (readingCommand o 0x0052 (freeReads rd) rd (checkSeqFree rd) (runSeqFree o) s)

end Sys2Proof.Machine
end

