-- ==== Sys2Proof/Machine/Periodic.lean ====
section
/-! DEFINITION. Periodic classes (R299-R304): their commands, releases, overruns, and the completion of an instance. -/

namespace Sys2Proof.Machine

/-- A class's record, and the state with it changed. -/
def classOf (s : State) (i : Nat) : Option PClass := obj s.obj.classes i
def setClass (i : Nat) (f : PClass → PClass) (s : State) : State :=
  { s with obj := { s.obj with classes := setObj s.obj.classes i ((classOf s i).map f) } }

/-- The state with a class's direct register changed. -/
def setPStat (i : Nat) (f : PStat → PStat) (s : State) : State :=
  { s with obj := { s.obj with pstat := Tab.upd {} s.obj.pstat i f } }

/-- A task's record. -/
def taskOf (s : State) (i : Nat) : Option Task := obj s.obj.tasks i

/-- Nominal release of instance k (R300). -/
def PClass.nominal (c : PClass) (k : Nat) : Nat := c.base + c.phase + k * c.period

/-- A TASK_ABORT on a task is in progress (R90): a command that names the task is refused meanwhile (R386). -/
def aborting (s : State) (task : Nat) : Bool := s.sched.running.any fun r => r.task == task && r.abort.isSome

/-- Check of PERIODIC_DEFINE (R299, R386, R397). -/
def checkPeriodicDefine (pl : Bytes) (s : State) : List Fail :=
  let i := field pl 0 1
  let t := field pl 2 2
  let p := field pl 8 8
  reservedFail (pl.take 32) [(0, 8), (16, 16), (64, 64), (128, 64), (192, 64)]
    ++ failIf (decide (31 < i)) 0x0104 (some 0)
    ++ (match taskOf s t with
        | none => failIf true (if t ≤ 8191 then 0x0107 else 0x0104) (some 16)
        | some k => failIf (k.gather || k.compl.isNone) 0x0104 (some 16))
    ++ failIf (aborting s t) 0x0303 (some 16)
    ++ failIf (decide (p < 10000) || decide (10 ^ 10 < p)) 0x0104 (some 64)
    ++ failIf (decide (field pl 16 8 < 1000) || decide (p < field pl 16 8)) 0x0104 (some 128)
    ++ failIf (decide (p < field pl 24 8)) 0x0104 (some 192)
    ++ failIf (match classOf s i with | some c => c.enabled || c.cur.isSome || !c.held.isEmpty | none => false) 0x0303 (some 0)

/-- PERIODIC_DEFINE: the class is defined disabled, and its register cleared (R299, R303). -/
def execPeriodicDefine (o : Origin) (s : State) : Host.Outcome State Fault Refusal :=
  .next (command o 0x0040 checkPeriodicDefine (fun pl s =>
    let c : PClass := { task := field pl 2 2, period := field pl 8 8, budget := field pl 16 8, phase := field pl 24 8 }
    answerOk o [] { s with obj := { s.obj with
      classes := setObj s.obj.classes (field pl 0 1) (some c)
      pstat := Tab.set {} s.obj.pstat (field pl 0 1) {} } }) s)

/-- The utilisation of the enabled classes and one more exceeds 0.9 (R299), as a sum of fractions. -/
def overUtilised (s : State) (i : Nat) : Bool :=
  let cs := s.obj.classes.filterMap fun (j, c) => match c with
    | some c => if c.enabled || j == i then some (c.budget, c.period) else none
    | none => none
  let sum := cs.foldl (fun (a : Nat × Nat) b => (a.1 * b.2 + b.1 * a.2, a.2 * b.2)) (0, 1)
  decide (9 * sum.2 < 10 * sum.1)

/-- Working-set ways once a task counts too, and the pins that they would leave no room for (R267). -/
def overBudget (s : State) (ways : Nat) : Bool := decide (min 12 (16 - max (workingWays s) ways) < pinnedMax s)

/-- Check of PERIODIC_ENABLE: the class as a whole, its task as it is defined now (R299, R390, R397; a disabled task does
nothing, log 52). -/
def checkPeriodicEnable (pl : Bytes) (s : State) : List Fail :=
  let i := field pl 0 1
  let on := field pl 1 1 == 1
  reservedFail (slice pl 0 2) [(0, 8), (8, 8)]
    ++ failIf (decide (31 < i)) 0x0104 (some 0) ++ failIf (decide (1 < field pl 1 1)) 0x0104 (some 8)
    ++ (match classOf s i with
        | none => failIf (decide (i < 32)) 0x0107 (some 0)
        | some c =>
          failIf (aborting s c.task) 0x0303 (some 0) ++
          if on && !c.enabled then
            failIf c.cur.isSome 0x0303 (some 0)
              ++ (match taskOf s c.task with
                  | none => failIf true 0x0107
                  | some t => failIf (t.gather || t.compl.isNone) 0x0104 ++ failIf (!t.enabled) 0x030B
                      ++ failIf (match t.compl.bind (complOf s) with | some a => !a.enabled | none => true) 0x030B
                      ++ failIf (overBudget s t.ways) 0x0204)
              ++ failIf (overUtilised s i) 0x0205
          else [])

/-- PERIODIC_ENABLE: E is the present time; disabling lets a released instance finish (R300, R304). -/
def execPeriodicEnable (o : Origin) (s : State) : Host.Outcome State Fault Refusal :=
  .next (command o 0x0041 checkPeriodicEnable (fun pl s =>
    answerOk o [] (setClass (field pl 0 1) (fun c =>
      if field pl 1 1 = 1 then
        if c.enabled then c
        else { c with enabled := true, base := now s, k := 0, release := now s + c.phase, late := 0, largest := 0 }
      else { c with enabled := false }) s)) s)

/-- PERIODIC_RELEASE: the next instance is released at its release time; lateness, register and trace follow (R300,
R302), and its completion record is reserved (R397). -/
def execPeriodicRelease (i : Nat) (s : State) : Host.Outcome State Fault Refusal :=
  match classOf s i with
  | none => idle s
  | some c =>
    if c.enabled = false ∨ c.cur.isSome ∨ now s < c.release then idle s
    else
      let late := c.release - c.nominal c.k
      let us := late / 1000
      let caught := late == 0 && c.late != 0
      let s := setClass i (fun d => { d with
        cur := some (c.k, c.release), k := c.k + 1, late := late, largest := if late = 0 then 0 else max d.largest late
        overrun := false }) s
      let s := setPStat i (fun p => { p with lateNow := min 0xFFFFFF us, lateMax := max p.lateMax (min 0xFFFFFF us) }) s
      let s := match (taskOf s c.task).bind (·.compl) with | some a => reserve a s | none => s
      let s := traceRec 0x04 (0xA000 + i) (fld i 0 5 + fld c.k 32 32 + fld us 64 32) s
      .next (if caught then logEvent 0x0703 (0xA000 + i) (fld (c.largest / 1000) 0 32) s else s)

/-- PERIODIC_OVERRUN: the instance has not completed at R + B (R302). -/
def execPeriodicOverrun (i : Nat) (s : State) : Host.Outcome State Fault Refusal :=
  match classOf s i with
  | none => idle s
  | some c =>
    match c.cur with
    | none => idle s
    | some (k, r) =>
      if c.overrun ∨ now s < r + c.budget then idle s
      else
        let s := setPStat i (fun p => { p with overruns := min 0xFFFF (p.overruns + 1) })
          (setClass i (fun c => { c with overrun := true }) s)
        .next (logEvent 0x0702 (0xA000 + i) (fld k 0 32 + fld (c.late / 1000) 32 32) s)

/-- A class's record: written when its area has room beside what is reserved and no record waits there, else held; a place
that it has then serves the oldest waiting record (R396, R397). -/
def classRecord (i a : Nat) (r : Rec) (s : State) : State :=
  match complOf s a with
  | some k =>
    let room := decide (k.inUse ≤ k.size)
    if room && k.order.isEmpty then writeRecord a r true s
    else
      let s := enqueueRecord a (.cls i) (setClass i (fun c => { c with held := c.held ++ [r.bytes (now s)] }) s)
      if room then writeOldest a true s else setCompl a (fun k => { k with reserved := k.reserved - 1 }) s
  | none => s

/-- The release of the next instance after a completion at C (R300). -/
def nextRelease (c : PClass) (r done : Nat) : Nat := max done (r + c.period - min c.late (c.period / 2))

/-- An instance completes: its record, the next release, the counts (R300, R302). -/
def finishInstance (i status reason opTag : Nat) (s : State) : State :=
  match classOf s i with
  | none => s
  | some c =>
    match c.cur with
    | none => s
    | some (k, r) =>
      let late := c.enabled && decide (r + c.period - min c.late (c.period / 2) < now s)
      let s := setPStat i (fun p => { p with
        instances := (p.instances + 1) % 2 ^ 32, lateRel := min 0xFFFF (p.lateRel + b2n late) }) s
      let rec' : Rec := { kind := 2, status := status, reason := reason, obj := i, opTag := opTag, tag := k
                          detail := c.late / 1000 }
      let s := setClass i (fun c => { c with cur := none, release := nextRelease c r (now s) }) s
      match (taskOf s c.task).bind (·.compl) with
      | some a => classRecord i a rec' s
      | none => s

end Sys2Proof.Machine
end

