-- ==== Sys2Proof/Machine/Array.lean ====
section
/-! DEFINITION. What the unified array computes in a MATMUL or a CONV2D: operand fetch (R79, R80, R91), accumulation
(R117-R120), the phases of a K-split (R85), the final stage (R126-R129) and the output path with its poison (R105,
R481, R482). -/

namespace Sys2Proof.Machine

/-! ### Operands -/

/-- One segment of a row or a column: packed elements, block scales, and whether any of it is poison or could not be
read. -/
structure Seg where
  data   : Bytes
  scales : Bytes
  poison : Bool
  deriving DecidableEq, Repr

/-- A piece of an operand read for a tile; a refused read counts as poison (R105, R203, R237). -/
def fetchAs (req : Requester) (a n : Nat) (rd : Remote) (s : State) : State × Bytes × Bool :=
  let r := podRead req a n rd s
  (r.1, slice r.2.data 0 n, r.2.poison || r.2.reason != 0)

/-- A piece of A, of the bias or of their scales. -/
def fetch (tile a n : Nat) (rd : Remote) (s : State) : State × Bytes × Bool := fetchAs (.operand tile) a n rd s

/-- The value of a stored element; `scale` is its block's. -/
def eltValue (fmt : Nat) (scale : Option Nat) (code : Nat) : Num :=
  if isInt fmt then Num.ofInt (toSigned (elemBits fmt) code)
  else match fmtOf fmt, scale with
    | some f, none => f.value code
    | some f, some sc => mxValue f sc code
    | none, _ => .nan

/-- Element i of a segment. -/
def Seg.elt (g : Seg) (fmt i : Nat) : Num :=
  eltValue fmt (if isMx fmt then some (field g.scales (i / 32) 1) else none) (dget g.data (elemBits fmt * i) (elemBits fmt))

/-- Segments of an operation. -/
def dSegs (d : Bytes) : Nat := (dK d + dSeg d - 1) / dSeg d

/-- Elements of a segment below K. -/
def segLen (d : Bytes) (seg : Nat) : Nat := min (dSeg d) (dK d - seg * dSeg d)

/-- Where A row r lies: the submissions' row table, the table at A_BASE, or the stride (R76, R87). Bits [63:54] of an entry of the
table in memory, which R202 says must be 0, are ignored: DESIGN CHOICE (log 184), the spec gives no effect of a set one. -/
def rowAddr (tile : Nat) (gather : Bool) (base stride r : Nat) (table : List Nat) (rd : Remote) (s : State) :
    State × Nat × Bool :=
  if gather then
    match table[r]? with
    | some a => (s, a, false)
    | none =>
      let k := fetch tile (base + 8 * r) 8 rd s
      (k.1, field k.2.1 0 8 % 2 ^ 54, k.2.2)
  else (s, base + r * stride, false)

/-- An element of a CONV2D's input as element (r, k) of A (R91): its place in the tensor, none when it is padding. -/
def convPlace (d : Bytes) (r k : Nat) : Option Nat :=
  let ow := dOutW d
  let oh := dOutH d
  let b := r / (oh * ow)
  let oy := r / ow % oh
  let ox := r % ow
  let ky := k / dInC d / dKW d
  let kx := k / dInC d % dKW d
  let y := oy * dStrideH d + ky * dDilH d
  let x := ox * dStrideW d + kx * dDilW d
  if y < dPadT d ∨ dPadT d + dInH d ≤ y ∨ x < dPadL d ∨ dPadL d + dInW d ≤ x then none
  else some (((b * dInH d + (y - dPadT d)) * dInW d + (x - dPadL d)) * dInC d + k % dInC d)

/-- The elements of one generated segment, padding zero (R91). -/
def convSeg (d : Bytes) (tile r seg : Nat) (rd : Remote) (s : State) : State × List (Option Nat) × Bool :=
  let b := elemBits (dFmtA d)
  (List.range (segLen d seg)).foldl (fun (acc : State × List (Option Nat) × Bool) i =>
    match convPlace d r (seg * dSeg d + i) with
    | none => (acc.1, acc.2.1 ++ [none], acc.2.2)
    | some e =>
      let k := fetch tile (dABase d + e * b / 8) ((e * b % 8 + b + 7) / 8) rd acc.1
      (k.1, acc.2.1 ++ [some (dget k.2.1 (e * b % 8) b)], acc.2.2 || k.2.2)) (s, [], false)

/-- Block scales of a segment. -/
def fetchScales (fmt base index e : Nat) (req : Requester) (rd : Remote) (s : State) : State × Bytes × Bool :=
  if isMx fmt then fetchAs req (base + index * (e / 32)) (e / 32) rd s else (s, [], false)

/-- The values of one segment of an A row, and its poison. -/
def aSegment (d : Bytes) (table : List Nat) (tile r seg : Nat) (rd : Remote) (s : State) : State × List Num × Bool :=
  let fmt := dFmtA d
  let e := dSeg d
  let sc := fetchScales fmt (dAScale d) (r * dSegs d + seg) e (.operand tile) rd s
  if dOp d = 2 then
    let k := convSeg d tile r seg rd sc.1
    (k.1, k.2.1.zipIdx.map fun (c, i) => match c with
      | some c => eltValue fmt (if isMx fmt then some (field sc.2.1 (i / 32) 1) else none) c
      | none => .fin false 0 0, k.2.2 || sc.2.2)
  else
    let a := rowAddr tile (dAGather d) (dABase d) (dAStride d) r table rd sc.1
    let b := elemBits fmt
    let n := segLen d seg
    let k := if a.2.2 then (a.1, [], true) else fetch tile (a.2.1 + seg * e * b / 8) ((n * b + 7) / 8) rd a.1
    let g : Seg := ⟨k.2.1, sc.2.1, false⟩
    (k.1, (List.range n).map (g.elt fmt), k.2.2 || sc.2.2)

/-- The matrix of a homed B: the model's registered matrix in which B_BASE lies (R81). -/
def homedMatrix (s : State) (d : Bytes) : Option Matrix :=
  match obj s.obj.models (dModel d) with
  | none => none
  | some m => m.mats.find? fun k => match k.plan with
    | some p => decide (k.dst ≤ dBBase d) && decide (dBBase d < k.dst + packedSize s p k.planM k.n k.k k.fmt)
    | none => false

/-- Where a homed matrix holds a vector: tile, offset in its stream, offset of its scales (R80). -/
def homedPlace (m : Matrix) (p : Plan) (seg col : Nat) : Option (Nat × Nat × Nat) :=
  (matShares p m.planM m.n m.k m.fmt).findSome? fun h =>
    if h.s0 ≤ seg ∧ seg < h.s1 ∧ h.c0 ≤ col ∧ col < h.c1 then
      let cols := h.c1 - h.c0
      let v := vecBytes m.fmt (segOf m.fmt)
      let start := (seg - h.s0) * cols * streamUnit m.fmt
      some (h.tile, start + (col - h.c0) * v, start + cols * v + (col - h.c0) * (segOf m.fmt / 32))
    else none

/-- Bytes of a stream, line by line. -/
def streamFetch (dst src tile off : Nat) : Nat → Nat → State → State × Bytes × Bool
  | 0, _, s => (s, [], false)
  | k + 1, n, s =>
    if n = 0 then (s, [], false)
    else
      let m := min n (128 - off % 128)
      let r := fetchAs (.stationary tile) (podAddr s (streamAddr s dst src off)) m [] s
      let q := streamFetch dst src tile (off + m) k (n - m) r.1
      (q.1, r.2.1 ++ q.2.1, r.2.2 || q.2.2)

/-- The values of one segment of a B column, and its poison. A homed B is read by the plan that its matrix was packed for
(R80). Where a descriptor's N, K or format is not the matrix's, a column or a segment that the plan does not hold reads as
poison: DESIGN CHOICE (log 155), the spec does not say what such a read gives. -/
def bSegment (d : Bytes) (tile seg col : Nat) (rd : Remote) (s : State) : State × List Num × Bool :=
  let fmt := dFmtB d
  let e := dSeg d
  let n := segLen d seg
  let v := vecBytes fmt e
  if dHomed d then
    match homedMatrix s d with
    | none => (s, List.replicate n .nan, true)
    | some m => match m.plan.bind fun p => homedPlace m p (seg * e / segOf fmt) col with
      | none => (s, List.replicate n .nan, true)
      | some (t, off, sc) =>
        let inner := seg * e % segOf fmt
        let r := streamFetch (podOffset m.dst) t tile (off + inner * elemBits fmt / 8) (v + 1) v s
        let q := if isMx fmt then streamFetch (podOffset m.dst) t tile (sc + inner / 32) 8 (e / 32) r.1 else (r.1, [], false)
        let g : Seg := ⟨r.2.1, q.2.1, false⟩
        (q.1, (List.range n).map (g.elt fmt), r.2.2 || q.2.2)
  else
    let r := fetchAs (.stationary tile) (dBBase d + (seg * dN d + col) * v) v rd s
    let q := fetchScales fmt (dBScale d) (seg * dN d + col) e (.stationary tile) rd r.1
    let g : Seg := ⟨r.2.1, q.2.1, false⟩
    (q.1, (List.range n).map (g.elt fmt), r.2.2 || q.2.2)

/-! ### Accumulation -/

/-- An accumulator: FP32 or INT32 under FAST, 640 bits under EXACT. -/
inductive Acc where
  | word (v : Nat)
  | exact (x : Xf)
  deriving DecidableEq, Repr

/-- The accumulator before the first step: -0 or 0 (R117, R118), or zero with the anchor of R119. -/
def accStart (exact int : Bool) : Acc :=
  if exact then .exact { anchor := if int then 0 else 0xFED4 } else .word (if int then 0 else 0x80000000)

/-- An exact sum. -/
def sumNums : List Num → Num
  | [] => .fin false 0 0
  | x :: xs => xs.foldl Num.add x

/-- The products of one step: lanes beyond K are supplied as zero (R79). -/
def stepProducts (e : Nat) (a b : List Num) : List Num :=
  let p := (a.zip b).map fun (x, y) => x.mul y
  p ++ List.replicate (e - p.length) (.fin false 0 0)

/-- An integer of a number that is one. -/
def Num.toExactInt : Num → Int
  | .fin n m e =>
    let v : Int := (m * 2 ^ e.toNat : Nat)
    if n then -v else v
  | _ => 0

/-- One step added to an accumulator (R117-R120). -/
def accStep (int : Bool) (e : Nat) (acc : Acc) (a b : List Num) : Acc :=
  let p := stepProducts e a b
  match acc with
  | .word v =>
    if int then .word (ofSigned 32 (toSigned 32 v + (sumNums p).toExactInt))
    else .word (fadd v (fp32.encode rne (sumNums p)))
  | .exact x => .exact (p.foldl Xf.accumulate x)

/-- A result of one share: row, column, accumulator, poison. -/
structure Cell where
  row    : Nat
  col    : Nat
  acc    : Acc
  poison : Bool
  deriving DecidableEq, Repr

/-- The tile that works a share: its own, or under a homed plan the next included tile of its run (R100). With every tile
of the run excluded there is no such tile: the share then keeps its own tile, DESIGN CHOICE (log 156). -/
def worker (op : Op) (t : Nat) : Nat :=
  let on (x : Nat) : Bool := op.tiles.any fun y => y.1 == x
  if on t then t
  else match op.plan.runs.find? fun r => r.any fun x => x.1 == t with
    | none => t
    | some r =>
      let on := (r.map (·.1)).filter on
      match on.find? fun x => decide (t < x) with
      | some x => x
      | none => on.headD t

/-- The row addresses that the submissions supplied for A and for C. -/
def opA (op : Op) : List Nat := op.rows.map (·.a)
def opC (op : Op) : List Nat := op.rows.map (·.c)

/-- The operation's rows: a batch's count replaces M in a gathered task (R87). -/
def opRows (op : Op) : Nat := op.m

/-- Every column's segments of a share. -/
def shareB (d : Bytes) (h : Share) (tile : Nat) (rd : Remote) (s : State) : State × List (List (List Num) × Bool) :=
  (List.range (h.c1 - h.c0)).foldl (fun (acc : State × List (List (List Num) × Bool)) c =>
    let r := (List.range (h.s1 - h.s0)).foldl (fun (acc : State × List (List Num) × Bool) i =>
      let k := bSegment d tile (h.s0 + i) (h.c0 + c) rd acc.1
      (k.1, acc.2.1 ++ [k.2.1], acc.2.2 || k.2.2)) (acc.1, [], false)
    (r.1, acc.2 ++ [r.2])) (s, [])

/-- The whole stationary share fits in the 1 MiB of the local buffer that keeps it (R75; its stationary vectors count). -/
def shareFits (d : Bytes) (h : Share) : Bool :=
  decide ((h.c1 - h.c0) * (h.s1 - h.s0) * vecBytes (dFmtB d) (dSeg d) ≤ 2 ^ 20)

/-- The results of one row of a share. -/
def rowCells (op : Op) (exact : Bool) (h : Share) (row : Nat) (b : List (List (List Num) × Bool)) (rd : Remote) (s : State) :
    State × List Cell :=
  let d := op.desc
  let tile := worker op h.tile
  let a := (List.range (h.s1 - h.s0)).foldl (fun (acc : State × List (List Num) × Bool) j =>
    let k := aSegment d (opA op) tile row (h.s0 + j) rd acc.1
    (k.1, acc.2.1 ++ [k.2.1], acc.2.2 || k.2.2)) (s, [], false)
  (a.1, b.zipIdx.map fun (col, c) =>
    ({ row := row, col := h.c0 + c, poison := a.2.2 || col.2 || op.residue.contains tile
       acc := (a.2.1.zip col.1).foldl (fun v (x, y) => accStep (isInt (dFmtA d)) (dSeg d) v x y)
         (accStart exact (isInt (dFmtA d))) } : Cell))

/-- The results of one share, row block by row block (R75): the stationary share is read for the first block, and again for
every later one unless the local buffer keeps it. -/
def shareCells (op : Op) (exact : Bool) (h : Share) (rd : Remote) (s : State) : State × List Cell :=
  let n := h.r1 - h.r0
  let r := (List.range ((n + 63) / 64)).foldl
    (fun (acc : State × List Cell × Option (List (List (List Num) × Bool))) i =>
      let b := match acc.2.2 with
        | some b => if shareFits op.desc h then (acc.1, b) else shareB op.desc h (worker op h.tile) rd acc.1
        | none => shareB op.desc h (worker op h.tile) rd acc.1
      let k := (List.range (min 64 (n - 64 * i))).foldl (fun (acc : State × List Cell) j =>
        let c := rowCells op exact h (h.r0 + 64 * i + j) b.2 rd acc.1
        (c.1, acc.2 ++ c.2)) (b.1, [])
      (k.1, acc.2.1 ++ k.2, some b.2)) (s, [], none)
  (r.1, r.2.1)

/-- The shares of an operation in its own segments. A homed plan is laid out in its matrix's segments; without a
reduction region its K groups are not used (log 46). -/
def opShares (op : Op) : List Share :=
  let d := op.desc
  let ks := dSegs d
  let shares :=
    if dHomed d then
      let ratio := segOf (dFmtB d) / dSeg d
      (op.plan.shares op.m (dN d) ((dK d + segOf (dFmtB d) - 1) / segOf (dFmtB d))).map fun h =>
        { h with s0 := min ks (h.s0 * ratio), s1 := min ks (h.s1 * ratio) }
    else op.plan.shares op.m (dN d) ks
  if op.plan.gk ≠ 1 ∧ dRed d = 0 then (shares.filter fun h => h.kg == 0).map fun h => { h with s0 := 0, s1 := ks }
  else shares

/-- The operation runs in a K-split. -/
def isSplit (op : Op) : Bool := op.plan.gk != 1 && dRed op.desc != 0

/-! ### The reduction region (R85) -/

/-- Address and bytes of an element's partial (its place by row and column is DEDUCED, log 53). -/
def redAddr (d : Bytes) (exact : Bool) (row col : Nat) : Nat :=
  dRed d + (row * dN d + col) * if exact then 128 else 4
def Acc.bytes : Acc → Bytes
  | .word v => natLE 4 v
  | .exact x => x.bytes

/-- Bytes written for an output path: locally with the poisoned sectors stamped (R481), or as WRITE messages without the
poisoned elements' own bytes, for a WRITE carries no poison (log 34), whose acknowledgements come with the row (log 55); the
reason with which a write is dropped, 0 for none. -/
def outWrite (tile a : Nat) (bs : Bytes) (bad : Nat → Bool) (rd : Remote) (s : State) : State × Nat :=
  if isLocal s a then
    let base := podOffset a
    (lineRange base bs.length).foldl (fun (acc : State × Nat) line =>
      let part := linePart line base (bs.map some)
      let stamps := (List.range 4).foldl (fun n i =>
        n + if (List.range 32).any (fun k => base ≤ line + 32 * i + k && line + 32 * i + k < base + bs.length
          && bad (line + 32 * i + k - base)) then 2 ^ i else 0) 0
      let r := homeWrite (.output tile) line part stamps acc.1
      (r.1, if acc.2 = 0 then accessReason r.2 else acc.2)) (s, 0)
  else
    let base := podOffset a
    let sent := byteRuns (bs.zipIdx.map fun (b, i) => if bad i then none else some b)
    writePieces (podDevice a) 1 (0x1000 + tile) (sent.flatMap fun (o, b) => podPieces (b.length + 1) (base + o) b) rd s

/-- The partials of one share by the lines that hold them, in order. -/
def byLine (addr : Partial → Nat) : List Partial → List (Nat × List Partial)
  | [] => []
  | p :: ps =>
    let line := addr p / 128 * 128
    match byLine addr ps with
    | (l, q) :: rest => if l = line then (l, p :: q) :: rest else (line, [p]) :: (l, q) :: rest
    | [] => [(line, [p])]

/-- The elements whose partials lie in a range of the reduction region. -/
def redCells (op : Op) (exact : Bool) (lo n : Nat) : List (Nat × Nat) :=
  let z := if exact then 128 else 4
  let b := dRed op.desc
  let first := (lo - b) / z
  let at' (e : Nat) : Bool := decide (b + e * z < lo + n) && decide (lo < b + e * z + z) && decide (e < op.m * dN op.desc)
  (((List.range (n / z + 2)).map (· + first)).filter at').map fun e => (e / dN op.desc, e % dN op.desc)

/-- The partials of one line added to it by a tile (R85 phase 3): the reason of a refused addition, and whether some of it was
not carried (R482). Poisoned partials poison their sectors at a home of this module; to another module the addition goes
without them. Where RED_BASE is no multiple of 128, which no check of R81 refuses, an XF640 partial is stored across two lines
and added into the line of its first byte: DESIGN CHOICE (log 183), R121 has a line aligned. -/
def outAdd (op : Op) (tile : Nat) (exact int : Bool) (line : Nat) (ps : List Partial) (rd : Remote) (s : State) :
    State × Nat × Bool :=
  let code := if exact then 5 else if int then 3 else 1
  let off (p : Partial) : Nat := redAddr op.desc exact p.row p.col % 128
  let bad (p : Partial) : Bool := p.poison || op.residue.contains tile
  let operand := ps.foldl (fun bs p => overlay bs (off p) (p.bytes.map some)) (zeros 128)
  let mask (ps : List Partial) : Nat := if exact then 1 else ps.foldl (fun n p => n ||| 2 ^ (off p / 4)) 0
  let spoilt := ps.filter bad
  if isLocal s line then
    let r := homeAdd (.output tile) (podOffset line) code (mask ps) operand s
    let s := tally 1 tile 8 1 r.1
    let stamps := if exact then 15 else spoilt.foldl (fun n p => n ||| 2 ^ (off p / 32)) 0
    (if spoilt.isEmpty then s else (homeWrite (.output tile) (podOffset line) (List.replicate 128 none) stamps s).1,
      accessReason r.2, false)
  else
    let live := ps.filter fun p => !bad p
    if live.isEmpty then (s, 0, true)
    else
      let r := exchange 3 (podDevice line) 1 (0x1000 + tile) code (podOffset line) 128 (some (mask live)) operand
        (blockStatus rd line 128) (tally 1 tile 8 1 s)
      (r.1, endReason r.2, !spoilt.isEmpty || r.2 != 0)

/-- The elements of the shares that a tile works. -/
def workedCells (op : Op) (tile : Nat) : List (Nat × Nat) :=
  ((opShares op).filter fun h => worker op h.tile == tile).flatMap fun h =>
    (List.range (h.r1 - h.r0)).flatMap fun i => (List.range (h.c1 - h.c0)).map fun j => (h.r0 + i, h.c0 + j)

/-- Phase 1: every tile computes its partials (R85). -/
def computePartials (op : Op) (exact : Bool) (rd : Remote) (s : State) : State × List Partial :=
  (opShares op).foldl (fun (acc : State × List Partial) h =>
    let r := shareCells op exact h rd acc.1
    (r.1, acc.2 ++ r.2.map fun c =>
      { row := c.row, col := c.col, kg := h.kg, tile := h.tile, bytes := c.acc.bytes, poison := c.poison })) (s, [])

/-- Partials of K group 0 stored (R85 phase 2); the reason of a refused store, and the elements in the sectors that could not be
stamped as poison in another module (R481). -/
def storePartials (op : Op) (exact : Bool) (rd : Remote) (s : State) : State × Nat × List (Nat × Nat) :=
  (op.sums.filter fun p => p.kg == 0).foldl (fun (acc : State × Nat × List (Nat × Nat)) p =>
    let a := redAddr op.desc exact p.row p.col
    let tile := worker op p.tile
    let bad := p.poison || op.residue.contains tile
    let w := outWrite tile a p.bytes (fun _ => bad) rd acc.1
    let lost := if bad && !isLocal s a then redCells op exact (a / 32 * 32) (if exact then 160 else 32) else []
    (w.1, if acc.2.1 ≠ 0 then acc.2.1 else w.2, acc.2.2 ++ lost)) (s, 0, [])

/-- An addition of phase 3: the partials of one line that the tile of a share adds to it. -/
structure LineAdd where
  tile : Nat
  line : Nat
  ps   : List Partial
  deriving DecidableEq, Repr

/-- The additions of phase 3, by tiles in an order and by lines: the partials of the K groups but the first (R85). -/
def partialAdds (op : Op) (exact : Bool) (order : List Nat) : List LineAdd :=
  let rest := op.sums.filter fun p => p.kg != 0
  (order ++ rest.map (·.tile)).eraseDups.flatMap fun t =>
    (byLine (fun p => redAddr op.desc exact p.row p.col) (rest.filter fun p => p.tile == t)).map fun (line, ps) => ⟨t, line, ps⟩

/-- The additions made in their order (R85 phase 3, R86), and the elements of the lines to which some partial was not carried
(R482). -/
def addPartials (op : Op) (exact : Bool) (adds : List LineAdd) (rd : Remote) (s : State) : State × Nat × List (Nat × Nat) :=
  adds.foldl (fun (acc : State × Nat × List (Nat × Nat)) a =>
    let x := outAdd op (worker op a.tile) exact (isInt (dFmtA op.desc)) a.line a.ps rd acc.1
    (x.1, if acc.2.1 ≠ 0 then acc.2.1 else x.2.1, acc.2.2 ++ if x.2.2 then redCells op exact a.line 128 else [])) (s, 0, [])

/-- The sums of phase 4, read back by the tiles of K group 0. -/
def readSums (op : Op) (exact : Bool) (rd : Remote) (s : State) : State × List Cell :=
  ((opShares op).filter fun h => h.kg == 0).foldl (fun (acc : State × List Cell) h =>
    let tile := worker op h.tile
    (List.range (h.r1 - h.r0)).foldl (fun acc i =>
      (List.range (h.c1 - h.c0)).foldl (fun (acc : State × List Cell) j =>
        let row := h.r0 + i
        let col := h.c0 + j
        let r := fetch tile (redAddr op.desc exact row col) (if exact then 128 else 4) rd acc.1
        let c : Cell := { row := row, col := col, poison := r.2.2 || op.residue.contains tile
                          acc := if exact then .exact (xfOf r.2.1) else .word (field r.2.1 0 4) }
        (r.1, acc.2 ++ [c])) acc) acc) (s, [])

/-! ### The final stage -/

/-- ReLU: every negative value and -0 become +0 (R116). -/
def relu : Num → Num
  | .fin true _ _ => .fin false 0 0
  | .inf true => .fin false 0 0
  | x => x

/-- An epilogue on an FP32 encoding (R129). -/
def epilogue (code v : Nat) : Nat :=
  match code with
  | 1 => fp32.encode rne (relu (fp32.value v))
  | 2 => Elem.gelu.apply v
  | 3 => Elem.silu.apply v
  | 4 => Elem.tanh.apply v
  | _ => v

/-- An exact zero is +0 (R116). -/
def plusZero : Num → Num
  | .fin _ 0 e => .fin false 0 e
  | x => x

/-- A result of a floating-point operation before its conversion (R126, R127). -/
def finalNum (d : Bytes) (acc : Acc) (bias : Option Nat) : Num :=
  match acc with
  | .word v =>
    let v := match bias with | some b => fadd v b | none => v
    fp32.value (epilogue (dEpi d) (fmul v (dOutScale d)))
  | .exact x =>
    let x := match bias with | some b => x.accumulate (fp32.value b) | none => x
    let v := plusZero (x.denote.mul (fp32.value (dOutScale d)))
    if dEpi d ≤ 1 then (if dEpi d = 1 then relu v else v)
    else fp32.value (epilogue (dEpi d) (fp32.encode rne v))

/-- The rounding of one result of C (R113, R114). -/
def outRnd (d : Bytes) (row col : Nat) : Rnd := { mode := dRound d, sat := dSat d, r := srBits (dSeed d) row col }

/-- A result of an integer operation (R128). -/
def finalInt (d : Bytes) (acc : Acc) (row col : Nat) : Nat :=
  let w := elemBits (dFmtC d)
  let v : Num := match acc with | .word v => Num.ofInt (toSigned 32 v) | .exact x => x.denote
  let put (i : Int) : Nat :=
    let i := if dEpi d = 1 ∧ i < 0 then 0 else i
    ofSigned w (if dSat d then clampInt w i else i)
  if dOutScale d = 0x3F800000 then put v.toExactInt
  else match v.mul (fp32.value (dOutScale d)) with
    | .nan => 0
    | .inf neg => if neg && dEpi d == 1 then 0 else ofSigned w (clampInt w (if neg then -((2 ^ w : Nat) : Int) else ((2 ^ w : Nat) : Int)))
    | .fin neg m e =>
      let q : Int := (roundTo (outRnd d row col) neg m e 0 : Nat)
      put (if neg then -q else q)

/-- Bytes of one C row as written: padded to whole blocks of 32 columns under an MX format (R112). -/
def packRow (fmt : Nat) (codes : List Nat) : Bytes :=
  let b := elemBits fmt
  natLE ((codes.length * b + 7) / 8) (codes.zipIdx.foldl (fun n (c, i) => n + fld c (b * i) b) 0)

/-- One finished row: its bytes, its scales, and which elements are poison. -/
structure OutRow where
  row    : Nat
  bytes  : Bytes
  scales : Bytes
  bad    : List Bool
  deriving DecidableEq, Repr

/-- A row of results finished: cells in column order with their biases. An infinite result with SAT = 1 becomes the largest
finite value for an FP32 C too, as Table 4.5 states; step 4 of R126, which changes nothing for an FP32 C, could be read
otherwise: DESIGN CHOICE (log 157). -/
def finishRow (d : Bytes) (row : Nat) (cells : List Cell) (bias : List (Nat × Bool)) (badCells : List (Nat × Nat)) :
    OutRow :=
  let fmt := dFmtC d
  let b (c : Cell) : Option Nat := if dBiasEn d then some (nth (bias.map (·.1)) c.col) else none
  let bad := cells.map fun c => c.poison || badCells.contains (row, c.col) || (bias.getD c.col (0, false)).2
  if isInt fmt then { row := row, bytes := packRow fmt (cells.map fun c => finalInt d c.acc row c.col), scales := [], bad := bad }
  else
    let vs := cells.map fun c => finalNum d c.acc (b c)
    match fmtOf fmt with
    | none => { row := row, bytes := [], scales := [], bad := bad }
    | some f =>
      if isMx fmt then
        let n := (cells.length + 31) / 32
        let blocks := (List.range n).map fun j =>
          let xs := (vs.drop (32 * j)).take 32
          mxEncode f (fun i => outRnd d row (32 * j + i)) (dSat d) (xs ++ List.replicate (32 - xs.length) (.fin false 0 0))
        let badBlock (j : Nat) : Bool := ((bad.drop (32 * j)).take 32).any id
        { row := row, bytes := packRow fmt (blocks.map (·.2)).flatten, scales := blocks.map fun k => BitVec.ofNat 8 k.1
          bad := (List.range (32 * n)).map fun i => badBlock (i / 32) }
      else
        { row := row, bytes := packRow fmt (vs.zipIdx.map fun (v, i) => f.encode (outRnd d row i) v), scales := [], bad := bad }

/-- The biases of every column. -/
def readBias (d : Bytes) (tile : Nat) (rd : Remote) (s : State) : State × List (Nat × Bool) :=
  if dBiasEn d then
    (List.range (dN d)).foldl (fun (acc : State × List (Nat × Bool)) c =>
      let r := fetch tile (dBias d + 4 * c) 4 rd acc.1
      (r.1, acc.2 ++ [(field r.2.1 0 4, r.2.2)])) (s, [])
  else (s, [])

/-- What the output path left: the reason of a dropped output, the rows that hold poison, and how many poisoned elements of
each tile's columns it wrote. -/
structure Written where
  reason : Nat := 0
  rows   : List Nat := []
  counts : Tab Nat := []
  deriving DecidableEq, Repr

/-- The tile that gives the element of a row and column: the worker of its share in K group 0. -/
def cellTile (op : Op) (row col : Nat) : Nat :=
  match (opShares op).find? fun h => h.kg == 0 && decide (h.r0 ≤ row) && decide (row < h.r1) && decide (h.c0 ≤ col)
    && decide (col < h.c1) with
  | some h => worker op h.tile
  | none => (op.tiles.head?.map (·.1)).getD 0

/-- The poisoned elements of a row counted for the tiles that write them (R483). -/
def countBad (op : Op) (r : OutRow) (all : Bool) (t : Tab Nat) : Tab Nat :=
  ((List.range (dN op.desc)).filter fun c => all || r.bad.getD c false).foldl (fun t c =>
    Tab.upd 0 t (cellTile op r.row c) (· + 1)) t

/-- A finished row written at its place. A row whose address is poison is written nowhere. -/
def writeRow (op : Op) (tile : Nat) (rd : Remote) (acc : State × Written) (r : OutRow) : State × Written :=
  let d := op.desc
  let w := acc.2
  let a := rowAddr tile (dCGather d) (dCBase d) (dCStride d) r.row (opC op) rd acc.1
  let b := elemBits (dFmtC d)
  let bad (i : Nat) : Bool := (List.range (8 / min 8 b + 1)).any fun k => r.bad.getD (8 * i / b + k) false
    && decide ((8 * i / b + k) * b < 8 * i + 8)
  if a.2.2 then (a.1, { w with rows := w.rows ++ [r.row], counts := countBad op r true w.counts })
  else
    let k := outWrite tile a.2.1 r.bytes bad rd a.1
    let q := if r.scales.isEmpty then (k.1, 0) else
      outWrite tile (dCScale d + r.row * ((dN d + 31) / 32)) r.scales (fun i => r.bad.getD (32 * i) false) rd k.1
    (q.1, { reason := if w.reason ≠ 0 then w.reason else if k.2 ≠ 0 then k.2 else q.2
            rows := if r.bad.any id then w.rows ++ [r.row] else w.rows, counts := countBad op r false w.counts })

/-- Free bytes over a local range whose contents the spec leaves undefined (R85, R104, R159). -/
def spoil (a n : Nat) (s : State) : State :=
  if isLocal s a then storeBytes (podOffset a) (freeBytes s.fresh n) { s with fresh := s.fresh + n } else s

/-- A MATMUL or CONV2D finished: results computed or read back, the final stage, and the output (R82, R85). -/
def finishMatrix (op : Op) (exact : Bool) (rd : Remote) (s : State) : State × Written :=
  let d := op.desc
  let cells :=
    if isSplit op then readSums op exact rd s
    else (opShares op).foldl (fun (acc : State × List Cell) h =>
      let r := shareCells op exact h rd acc.1
      (r.1, acc.2 ++ r.2)) (s, [])
  let tile := (op.tiles.head?.map (·.1)).getD 0
  let bias := readBias d tile rd cells.1
  let rows := (List.range op.m).map fun r =>
    finishRow d r ((List.range (dN d)).filterMap fun c => cells.2.find? fun k => k.row == r && k.col == c) bias.2 op.badCells
  let out := rows.foldl (writeRow op tile rd) (bias.1, {})
  if isSplit op then (spoil (dRed d) (op.m * dN d * if exact then 128 else 4) out.1, out.2) else out

end Sys2Proof.Machine
end

