-- ==== Sys2Proof/Machine/Attention.lean ====
section
/-! DEFINITION. ATTENTION operations (chapter 5): the parameter block and the sequence list (R152-R156), the append
(R154), the page walker and the pipeline (R136, R137, R151), the work items and the merge tree (R157-R160), the output
(R138, R162). -/

namespace Sys2Proof.Machine

/-! ### The parameter block (Table 5.6) -/

def aMode (p : Bytes) : Nat := dget p 0 2
def aMask (p : Bytes) : Nat := dget p 2 2
def aAppend (p : Bytes) : Bool := dget p 4 1 == 1
def aCommit (p : Bytes) : Bool := dget p 5 1 == 1
def aBias (p : Bytes) : Bool := dget p 6 1 == 1
def aLayer (p : Bytes) : Nat := dget p 8 8
def aQtok (p : Bytes) : Nat := dget p 16 7
def aG (p : Bytes) : Nat := dget p 24 8
def aScale (p : Bytes) : Nat := dget p 32 32
def aWindow (p : Bytes) : Nat := dget p 64 25
def aCount (p : Bytes) : Nat := dget p 96 17
def aList (p : Bytes) : Nat := dget p 128 54
def aPart (p : Bytes) : Nat := dget p 192 54
def aFirst (p : Bytes) : Nat := dget p 256 21
def aRange (p : Bytes) : Nat := dget p 288 22

/-- A power of two. -/
def isPow2 (n : Nat) : Bool := n != 0 && 2 ^ Nat.log2 n == n

/-- The smallest power of two that is at least n. -/
def pow2Ceil (n : Nat) : Nat := if n ≤ 1 then 1 else 2 ^ (Nat.log2 (n - 1) + 1)

/-- A failure of the parameter block, named at the descriptor's EXT_BASE field. -/
def paramAt (c : Bool) : List Fail := failIf c 0x0108 (some 896)

/-- The check of a parameter block against its descriptor and, where the model is resident, its shape (R152). -/
def checkParam (d p : Bytes) (h : Option Shape) : List Fail :=
  failIf (reservedFail p [(0, 7), (8, 8), (16, 7), (24, 8), (32, 32), (64, 25), (96, 17), (128, 54), (192, 54), (256, 21),
      (288, 22)] != []) 0x0103 (some 896)
    ++ paramAt (aMode p == 3) ++ paramAt (aMask p == 3) ++ paramAt (aQtok p == 0 || decide (64 < aQtok p))
    ++ paramAt (if aMask p = 2 then aWindow p == 0 || decide (2 ^ 24 < aWindow p) else aWindow p != 0)
    ++ paramAt (aCount p == 0 || decide (dM d < aCount p))
    ++ paramAt (aList p % 64 != 0) ++ paramAt (aPart p % 128 != 0)
    ++ paramAt (aRange p != 0 && !(isPow2 (aRange p) && decide (aRange p ≤ 2 ^ 20)))
    ++ paramAt (if aRange p = 0 then aFirst p != 0 else aFirst p % aRange p != 0)
    ++ (match h with
        | none => []
        | some h => paramAt (decide (h.l ≤ aLayer p)) ++ paramAt (aG p != h.g) ++ badAt (dN d != h.dv) 88
            ++ badAt (dK d != h.dk) 108)

/-- The shape that an ATTENTION's model declares. -/
def attShape (s : State) (d : Bytes) : Option Shape :=
  (((obj s.obj.models (dModel d)).bind (·.pool)).bind (obj s.obj.pools)).map (·.shape)

/-! ### Shapes and frames -/

/-- KV heads; query heads of a layer; rows of an entry. -/
def Shape.heads (h : Shape) : Nat := if h.latent then 1 else h.h
def Shape.qh (h : Shape) : Nat := h.heads * h.g
def attRows (p : Bytes) (h : Shape) : Nat := aQtok p * h.qh

/-- First line of a K block, and of a V block, in a frame (Table 5.3). The value of a latent shape is the first Dv elements
of its latent vector. -/
def Shape.kLine (h : Shape) (layer head : Nat) : Nat :=
  if h.latent then layer * blockLines h.fmt h.dk else (layer * h.h + head) * (blockLines h.fmt h.dk + blockLines h.fmt h.dv)
def Shape.vLine (h : Shape) (layer head : Nat) : Nat :=
  if h.latent then h.kLine layer head else h.kLine layer head + blockLines h.fmt h.dk

/-- Pod global address of line j of a frame (R142): homed lines for a stack frame; contiguous for a side frame; of another
module, homed in that module's geometry (`Config.retiredAt`, log 48). -/
def frameLine (s : State) (frame j : Nat) : Nat :=
  let off := podOffset frame
  if sideBase ≤ off then frame + 128 * j
  else if isLocal s frame then
    let h := stackHome s off
    podAddr s ((lineOf s h.1 (h.2 + j)).getD off)
  else
    let out := Config.retiredAt (podDevice frame)
    let h := homeIn out off
    podDevice frame * 2 ^ 48 + (lineIn out h.1 (h.2 + j)).getD off

/-- Reason of a refused read of the page walker: a remote ADDRESS or LENT has its own (R151). -/
def walkReason (a n : Nat) (rd : Remote) (reason : Nat) : Nat :=
  if reason ≠ 0x0603 then reason
  else match (lineRange a n).find? fun x => decide (1 < (remoteLine rd x).status) with
    | some x => match (remoteLine rd x).status with | 2 => 0x030C | 3 => 0x0106 | _ => 0x0603
    | none => reason

/-- A range read by a tile's page walker: entries through the slices, frames by streaming reads (Table 9.2). -/
def walkRead (req : Requester) (a n : Nat) (rd : Remote) (s : State) : State × PodRead :=
  let r := podRead req a n rd s
  (r.1, { r.2 with data := slice r.2.data 0 n, reason := walkReason a n rd r.2.reason })

/-- `n` bytes from an offset of a frame, from a first line on. -/
def frameRead (tile frame line : Nat) (rd : Remote) : Nat → Nat → Nat → State → State × PodRead
  | 0, _, _, s => (s, {})
  | k + 1, off, n, s =>
    if n = 0 then (s, {})
    else
      let m := min n (128 - off % 128)
      let r := walkRead (.frame tile) (frameLine s frame (line + off / 128) + off % 128) m rd s
      if r.2.reason ≠ 0 then r
      else
        let q := frameRead tile frame line rd k (off + m) (n - m) r.1
        (q.1, { data := r.2.data ++ q.2.data, poison := r.2.poison || q.2.poison, reason := q.2.reason })

/-- Bytes written into a frame from an offset; the reason of the first refused line. -/
def frameWrite (tile frame line : Nat) (bad : Bool) (rd : Remote) : Nat → Nat → Bytes → State → State × Nat
  | 0, _, _, s => (s, 0)
  | k + 1, off, bs, s =>
    if bs.isEmpty then (s, 0)
    else
      let m := 128 - off % 128
      let r := outWrite tile (frameLine s frame (line + off / 128) + off % 128) (bs.take m) (fun _ => bad) rd s
      let q := frameWrite tile frame line bad rd k (off + m) (bs.drop m) r.1
      (q.1, if r.2 ≠ 0 then r.2 else q.2)

/-- Bytes of a vector of D elements in a block. -/
def vectorBytes (fmt d : Nat) : Nat := d * elemBits fmt / 8

/-- The vectors of a block's 16 tokens, each with what it holds. -/
def blockTokens (fmt d : Nat) (elems scales : Bytes) : List (List Num) :=
  (List.range 16).map fun i =>
    let v := slice elems (i * vectorBytes fmt d) (vectorBytes fmt d)
    let g : Seg := ⟨v, slice scales (i * (d / 32)) (d / 32), false⟩
    (List.range d).map (g.elt fmt)

/-- A block of a frame read: its tokens' vectors, whether any of it is poison, and the reason of a refused read. -/
def readBlock (tile frame line fmt d : Nat) (rd : Remote) (s : State) : State × List (List Num) × Bool × Nat :=
  let n := 16 * vectorBytes fmt d
  let e := frameRead tile frame line rd (n / 128 + 2) 0 n s
  if isMx fmt then
    let c := frameRead tile frame (line + (n + 127) / 128) rd (n / 128 + 2) 0 (16 * (d / 32)) e.1
    (c.1, blockTokens fmt d e.2.data c.2.data, e.2.poison || c.2.poison, if e.2.reason ≠ 0 then e.2.reason else c.2.reason)
  else (e.1, blockTokens fmt d e.2.data [], e.2.poison, e.2.reason)

/-! ### Entries (R153-R156) -/

/-- Fields of a sequence list entry (Table 5.7). -/
def eDesc (r : Bytes) : Nat := dget r 0 54
def eGen (r : Bytes) : Nat := dget r 64 16
def eQ (r : Bytes) : Nat := dget r 128 54
def eOut (r : Bytes) : Nat := dget r 192 54
def eKv (r : Bytes) : Nat := dget r 256 54

/-- Pages of an entry, and its chunks (R157). -/
def AttEntry.pages (e : AttEntry) : Nat := (e.visible + 15) / 16
def AttEntry.chunks (e : AttEntry) : Nat := (e.pages + 2 ^ e.chunkLog - 1) / 2 ^ e.chunkLog

/-- First chunk and leaves of the subtree that an operation computes for an entry (R160, R162). With CHUNK_COUNT 0 a MERGE reads
a record for every leaf of the entry's whole tree: DESIGN CHOICE (log 186), R162 gives 2^j by CHUNK_COUNT only. -/
def leafFirst (p : Bytes) : Nat := if aRange p = 0 then 0 else aFirst p
def leafCount (p : Bytes) (e : AttEntry) : Nat := if aRange p = 0 then pow2Ceil e.chunks else aRange p

/-- Chunks that have a work item. -/
def workItems (p : Bytes) (e : AttEntry) : List Nat :=
  if aMode p = 2 ∨ e.bad.isSome then []
  else (List.range (min e.chunks (leafFirst p + leafCount p e) - leafFirst p)).map (· + leafFirst p)

/-- Pages of a chunk: first and count. -/
def chunkPages (e : AttEntry) (j : Nat) : Nat × Nat :=
  (j * 2 ^ e.chunkLog, min e.pages ((j + 1) * 2 ^ e.chunkLog) - j * 2 ^ e.chunkLog)

/-- A pod global address in the module that holds an entry's descriptor. -/
def besideDesc (e : AttEntry) (a : Nat) : Nat := podDevice (eDesc e.raw) * 2 ^ 48 + a

/-- An entry marked bad once. -/
def AttEntry.fail (e : AttEntry) (reason cause : Nat) : AttEntry :=
  if e.bad.isSome then e else { e with bad := some (reason, cause) }

/-- Event cause of a walker's failure with a reason (R151). -/
def walkCause (reason : Nat) : Nat := if reason = 0x0601 then 4 else 3

/-- A listed sequence has the shape of the operation's model (R152): SEQ.SHAPE names the model's pool here; in another
module it names a pool of that module, whose shape this one cannot see (`Config.shapeAt`, log 164). -/
def sameShape (s : State) (d : Bytes) (desc pool : Nat) : Bool :=
  if isLocal s desc then ((obj s.obj.models (dModel d)).bind (·.pool)) == some pool
  else match attShape s d with
    | some h => Config.shapeAt (podDevice desc) pool h.identity
    | none => false

/-- An entry read: its sequence's descriptor, its lengths and its failures. No event is logged here. An entry of more than
2^20 pages, for which R156 has no bucket, stands in the last one: DESIGN CHOICE (log 185). -/
def readEntry (d p : Bytes) (e : AttEntry) (rd : Remote) (s : State) : State × AttEntry :=
  let r := podRead .module (eDesc e.raw) 64 rd s
  let q := slice r.2.data 0 64
  let len := dget q 64 25
  let e := { e with
    seqId := dget q 0 16, length := len, visible := len + (if aAppend p then aQtok p else 0), cap := dget q 96 21
    chunkLog := dget q 24 4, dir := dget q 160 48, biasBase := dget q 224 48, biasLen := dget q 288 17
    gen := dget q 48 16, desc := eDesc e.raw, shape := attShape s d, poison := e.poison || r.2.poison }
  let reason := walkReason (eDesc e.raw) 64 rd r.2.reason
  let e := if reason ≠ 0 then e.fail reason (walkCause reason) else e
  let e := if reservedFail e.raw [(0, 54), (64, 16), (128, 54), (192, 54), (256, 54)] ≠ [] then e.fail 0x0108 0 else e
  let e := if e.poison then e else
    if dget q 28 1 = 0 ∨ eGen e.raw ≠ e.gen then e.fail 0x0107 2
    else if sameShape s d (eDesc e.raw) (dget q 16 8) = false then e.fail 0x0108 0
    else if aAppend p = false ∧ len < aQtok p then e.fail 0x010E 0
    else e
  let e := if e.poison ∨ aMode p = 2 ∨ aRange p = 0 ∨ aFirst p < e.chunks then e else e.fail 0x010E 0
  (r.1, { e with bucket := min (2 ^ 20) (pow2Ceil e.pages) })

/-- The entries of a list, in order. -/
def readEntries (d p : Bytes) (es : List AttEntry) (rd : Remote) (s : State) : State × List AttEntry :=
  es.foldl (fun (acc : State × List AttEntry) e =>
    let r := readEntry d p e rd acc.1
    (r.1, acc.2 ++ [r.2])) (s, [])

/-- The raw list (R153): the submissions' entries in a gathering task, else SEQ_COUNT entries at SEQ_LIST_BASE. A poisoned
list entry poisons its rows (Table 18.6); one that cannot be read fails. -/
def rawEntries (p : Bytes) (rows : Option (List RowRec)) (rd : Remote) (s : State) : State × List AttEntry :=
  match rows with
  | some rs => (s, rs.zipIdx.map fun (r, i) => { index := i, raw := r.seqe })
  | none => (List.range (aCount p)).foldl (fun (acc : State × List AttEntry) i =>
      let r := podRead .module (aList p + 64 * i) 64 rd acc.1
      let reason := walkReason (aList p + 64 * i) 64 rd r.2.reason
      (r.1, acc.2 ++ [{ index := i, raw := slice r.2.data 0 64, poison := r.2.poison
                        bad := if reason = 0 then none else some (reason, walkCause reason) }])) (s, [])

/-- An earlier entry of the list names the same sequence, under APPEND or COMMIT (R155). -/
def isDuplicate (p : Bytes) (es : List AttEntry) (e : AttEntry) : Bool :=
  (aAppend p || aCommit p) && es.any fun x => decide (x.index < e.index) && eDesc x.raw == eDesc e.raw

/-- SEQ_DUPLICATE for each later entry of a sequence (R155). -/
def logDuplicates (d p : Bytes) (es : List AttEntry) (s : State) : State :=
  (es.filter (isDuplicate p es)).foldl (fun s e => logEvent 0x0202 0 (fld e.seqId 0 16 + fld (dTag d) 16 16) s) s

/-! ### Page tables (R146, R151) -/

/-- Pod global address of page p's leaf entry, read through the directory; none when the directory entry is invalid. -/
def resolveLeaf (tile : Nat) (e : AttEntry) (page : Nat) (rd : Remote) (s : State) : State × PodRead × Nat :=
  let a := besideDesc e (e.dir + 8 * (page / 1024))
  let r := walkRead (.walker tile) a 8 rd s
  let v := field r.2.data 0 8
  (r.1, r.2, if bitB v 0 then bits v 53 7 * 128 + 8 * (page % 1024) else 0)

/-- A leaf entry that a pipeline's walker holds. -/
def cachedPte (s : State) (tile dir page : Nat) : Option Nat :=
  ((Tab.get [] s.tiles.walk tile).find? fun w => w.dir == dir && w.page == page).map (·.pte)

/-- A valid leaf entry kept by a walker, at most 512 of them; that the one used longest ago leaves is a DESIGN CHOICE
(log 163). -/
def cachePte (tile dir page v : Nat) (s : State) : State :=
  if bitB v 0 then
    let rest := (Tab.get [] s.tiles.walk tile).filter fun w => !(w.dir == dir && w.page == page)
    { s with tiles := { s.tiles with walk := Tab.set [] s.tiles.walk tile (⟨dir, page, v⟩ :: rest.take 511) } }
  else s

/-- A page's entry: the entry's value, poison, the reason of a refused read. An entry that the walker holds needs no read
of the directory or the leaf (R151). -/
def resolvePage (tile : Nat) (e : AttEntry) (page : Nat) (rd : Remote) (s : State) : State × Nat × Bool × Nat :=
  let dir := besideDesc e e.dir
  match cachedPte s tile dir page with
  | some v => (cachePte tile dir page v s, v, false, 0)
  | none =>
    let k := resolveLeaf tile e page rd s
    if k.2.1.reason ≠ 0 then (k.1, 0, false, k.2.1.reason)
    else if k.2.1.poison then (k.1, 0, true, 0)
    else if k.2.2 = 0 then (k.1, 0, false, 0)
    else
      let r := walkRead (.walker tile) k.2.2 8 rd k.1
      if r.2.reason ≠ 0 then (r.1, 0, false, r.2.reason)
      else if r.2.poison then (r.1, 0, true, 0)
      else (cachePte tile dir page (field r.2.data 0 8) r.1, field r.2.data 0 8, false, 0)

/-- The page's frame as the page tables give it now, without any effect of a read. -/
def frameNow (s : State) (e : AttEntry) (page : Nat) (rd : Remote) : Nat :=
  let leaf := (resolveLeaf 0 e page rd s).2.2
  if leaf = 0 then 0 else field (walkRead (.walker 0) leaf 8 rd s).2.data 0 8

/-! ### Workers (R158) -/

/-- The next included tile from one on, in ascending order, wrapping. -/
def nextIncluded (on : List Nat) (t : Nat) : Nat := ((on.find? fun x => decide (t ≤ x)).orElse fun _ => on.head?).getD t

/-- Where a work item's first page lies: the home slice of a local stack frame, a side stack, or neither (R158). -/
def itemKind (s : State) (e : AttEntry) (j : Nat) (rd : Remote) : Nat :=
  let v := frameNow s e (chunkPages e j).1 rd
  let a := bits v 53 7 * 128
  if bitB v 0 = false ∨ isLocal s a = false then 512
  else if sideBase ≤ podOffset a then 256 + (podOffset a - sideBase) / 2 ^ 37
  else (stackHome s (podOffset a)).1

/-- The worker of each work item of a list of entries; the items of one side stack, and those without a local frame, go
round robin. -/
def assignWorkers (s : State) (p : Bytes) (rd : Remote) (es : List AttEntry) : List AttEntry :=
  let on := (included s).map (·.1)
  (es.foldl (fun (acc : Tab Nat × List AttEntry) e =>
    let r := (workItems p e).foldl (fun (w : Tab Nat × List Nat) j =>
      let k := itemKind s e j rd
      if k < 256 then (w.1, w.2 ++ [nextIncluded on k])
      else
        let near := if k < 512 then on.filter fun t => tileCluster t == sideCluster (k - 256) else []
        let set := if near.isEmpty then on else near
        let n := Tab.get 0 w.1 k
        (Tab.set 0 w.1 k (n + 1), w.2 ++ [nth set (n % set.length)])) (acc.1, [])
    (r.1, acc.2 ++ [{ e with workers := r.2 }])) ([], [])).2

/-- The tile that stands for an entry before and after its work items: the worker of its first one. -/
def entryTile (s : State) (e : AttEntry) : Nat := e.workers.headD (((included s).head?.map (·.1)).getD 0)

/-- KV_PAGE_FAULT of an entry (R151). -/
def pageFault (tile : Nat) (e : AttEntry) (page reason cause : Nat) (s : State) : State × AttEntry :=
  if e.bad.isSome then (s, e)
  else (logEvent 0x0201 (0x1000 + tile) (fld e.seqId 0 16 + fld page 16 20 + fld cause 36 4) s, e.fail reason cause)

/-! ### The append (R154) -/

/-- One new vector converted to the shape's format: element bytes and scale bytes. -/
def storeVector (fmt : Nat) (xs : List Nat) : Bytes × Bytes :=
  let k : Rnd := { sat := true }
  match fmtOf fmt with
  | none => ([], [])
  | some f =>
    let vs := xs.map bf16.value
    if isMx fmt then
      let bl := (List.range (vs.length / 32)).map fun j => mxEncode f (fun _ => k) true ((vs.drop (32 * j)).take 32)
      (packRow fmt (bl.map (·.2)).flatten, bl.map fun b => BitVec.ofNat 8 b.1)
    else (packRow fmt (vs.map (f.encode k)), [])

/-- One vector written at its token's place in a block; the reason of a refused write. -/
def putVector (tile frame line fmt d slot : Nat) (xs : List Nat) (bad : Bool) (rd : Remote) (s : State) : State × Nat :=
  let v := storeVector fmt xs
  let n := vectorBytes fmt d
  let r := frameWrite tile frame line bad rd (n / 128 + 3) (slot * n) v.1 s
  if isMx fmt then
    let q := frameWrite tile frame (line + (16 * n + 127) / 128) bad rd 4 (slot * (d / 32)) v.2 r.1
    (q.1, if r.2 ≠ 0 then r.2 else q.2)
  else r

/-- BF16 values of `n` elements at an address, and whether they are poison or could not be read. -/
def readBf16 (tile a n : Nat) (rd : Remote) (s : State) : State × List Nat × Bool :=
  let r := fetch tile a (2 * n) rd s
  (r.1, (List.range n).map fun i => field r.2.1 (2 * i) 2, r.2.2)

/-- One appended token: every head's K and V, or the latent vector. -/
def appendToken (tile : Nat) (p : Bytes) (h : Shape) (frame slot src : Nat) (rd : Remote) (s : State) : State × Nat :=
  let layer := aLayer p
  if h.latent then
    let r := readBf16 tile src h.dk rd s
    putVector tile frame (h.kLine layer 0) h.fmt h.dk slot r.2.1 r.2.2 rd r.1
  else
    (List.range h.h).foldl (fun (acc : State × Nat) head =>
      let a := src + head * 2 * (h.dk + h.dv)
      let k := readBf16 tile a h.dk rd acc.1
      let v := readBf16 tile (a + 2 * h.dk) h.dv rd k.1
      let w := putVector tile frame (h.kLine layer head) h.fmt h.dk slot k.2.1 k.2.2 rd v.1
      let x := putVector tile frame (h.vLine layer head) h.fmt h.dv slot v.2.1 v.2.2 rd w.1
      (x.1, if acc.2 ≠ 0 then acc.2 else if w.2 ≠ 0 then w.2 else x.2)) (s, 0)

/-- Bytes of one new token at KV_BASE. -/
def tokenBytes (h : Shape) : Nat := if h.latent then 2 * h.dk else 2 * h.h * (h.dk + h.dv)

/-- The frame of a page that an entry needs: the page must be valid and lie below the capacity at the start (R149). -/
def pageFrame (tile : Nat) (e : AttEntry) (page : Nat) (rd : Remote) (s : State) : State × AttEntry × Option Nat :=
  let r := resolvePage tile e page rd s
  if r.2.2.2 ≠ 0 then
    let f := pageFault tile e page r.2.2.2 (walkCause r.2.2.2) r.1
    (f.1, f.2, none)
  else if r.2.2.1 then (r.1, { e with poison := true }, none)
  else if bitB r.2.1 0 = false ∨ e.cap ≤ page then
    let f := pageFault tile e page 0x010E 1 r.1
    (f.1, f.2, none)
  else (r.1, e, some (bits r.2.1 53 7 * 128))

/-- The append of one entry: every page first, then the tokens (R154; a refused write fails the entry, log 58). -/
def appendEntry (p : Bytes) (rd : Remote) (s : State) (e : AttEntry) : State × AttEntry :=
  match e.shape with
  | none => (s, e)
  | some h =>
    if e.bad.isSome || e.poison || !aAppend p then (s, e)
    else
      let tile := entryTile s e
      let first := e.length / 16
      let found := (List.range ((e.length + aQtok p - 1) / 16 + 1 - first)).foldl
        (fun (acc : State × AttEntry × List Nat) i =>
          if acc.2.1.bad.isSome || acc.2.1.poison then acc
          else
            let r := pageFrame tile acc.2.1 (first + i) rd acc.1
            (r.1, r.2.1, acc.2.2 ++ r.2.2.toList)) (s, e, [])
      let e := found.2.1
      if e.bad.isSome || e.poison then (found.1, e)
      else
        let w := (List.range (aQtok p)).foldl (fun (acc : State × Nat) i =>
          let t := e.length + i
          let r := appendToken tile p h (nth found.2.2 (t / 16 - first)) (t % 16) (eKv e.raw + i * tokenBytes h) rd acc.1
          (r.1, if acc.2 ≠ 0 then acc.2 else r.2)) (found.1, 0)
        if w.2 ≠ 0 then pageFault tile e first w.2 (walkCause w.2) w.1 else (w.1, e)

/-! ### Records of triples (R159) -/

/-- Bytes of a record. -/
def recordBytes (dv : Nat) : Nat := (8 + 4 * dv + 127) / 128 * 128

/-- A triple's record. -/
def Triple.bytes (t : Triple) (dv : Nat) : Bytes :=
  let o := if t.o.isEmpty then List.replicate dv 0 else t.o
  slice (natLE 4 t.m ++ natLE 4 t.l ++ (o.map (natLE 4)).flatten) 0 (recordBytes dv)

/-- The triple of a record. -/
def tripleOf (bs : Bytes) (dv : Nat) (poison : Bool) : Triple :=
  { m := field bs 0 4, l := field bs 4 4, o := (List.range dv).map fun i => field bs (8 + 4 * i) 4, poison := poison }

/-- Key of a leaf or node and a row. -/
def accKey (leaf row : Nat) : Nat := leaf * 2 ^ 16 + row

/-- MERGE: the root records of 2^j subtrees for each row, at KV_BASE in row order (R162; the place of a record by row, then
by subtree, is DEDUCED, log 59). -/
def loadRecords (p : Bytes) (rd : Remote) (s : State) (e : AttEntry) : State × AttEntry :=
  match e.shape with
  | none => (s, e)
  | some h =>
    if aMode p ≠ 2 ∨ e.bad.isSome ∨ e.poison then (s, e)
    else
      let n := leafCount p e
      let b := recordBytes h.dv
      let tile := entryTile s e
      (List.range (attRows p h)).foldl (fun acc r => (List.range n).foldl (fun (acc : State × AttEntry) j =>
        let k := fetch tile (eKv e.raw + (r * n + j) * b) b rd acc.1
        (k.1, { acc.2 with acc := Tab.set {} acc.2.acc (accKey j r) (tripleOf k.2.1 h.dv k.2.2) })) acc) (s, e)

/-- An ATTENTION operation starts for the entries of one bucket: the entries read anew, their faults logged, the append
done, the workers chosen. DESIGN CHOICES: KV_PAGE_FAULT of a failure met before any page (R151) carries page index 0 and the
first included tile as its source (log 187); a MERGE with APPEND at 1 appends from KV_BASE and reads its records there too (log
186). -/
def startAttention (d p : Bytes) (es : List AttEntry) (bucket : Nat) (rd : Remote) (s : State) : State × AttState :=
  let r := readEntries d p es rd s
  let es := assignWorkers r.1 p rd r.2
  let logged := es.foldl (fun (acc : State × List AttEntry) e =>
    let t := match e.bad with
      | some (_, cause) =>
        if cause = 0 then acc.1
        else logEvent 0x0201 (0x1000 + entryTile acc.1 e) (fld e.seqId 0 16 + fld cause 36 4) acc.1
      | none => acc.1
    (t, acc.2 ++ [e])) (r.1, [])
  let done := logged.2.foldl (fun (acc : State × List AttEntry) e =>
    let a := appendEntry p rd acc.1 e
    let m := loadRecords p rd a.1 a.2
    (m.1, acc.2 ++ [m.2])) (logged.1, [])
  (done.1, { param := p, entries := done.2, bucket := bucket, level := 0 })

/-! ### The pipeline (R136, R137) -/

/-- A NaN code of FP32. -/
def isNan32 (c : Nat) : Bool := match fp32.value c with | .nan => true | _ => false

/-- Negative infinity in FP32. -/
def negInf32 : Nat := 0xFF800000

/-- The dot product of a query row and a key. -/
def dotScore (exact : Bool) (q k : List Num) : Nat :=
  let p := (q.zip k).map fun (x, y) => x.mul y
  if exact then fp32.encode rne (sumNums p)
  else (List.range ((p.length + 31) / 32)).foldl (fun v g => fadd v (fp32.encode rne (sumNums ((p.drop (32 * g)).take 32))))
    0x80000000

/-- One page folded into a row's triple: the scores and values of its 16 tokens in ascending order. A token that the row
does not see has the score -∞, and so the weight 0 (R136). That in FAST the page's terms are added one by one onto l·α and o·α,
and not summed first, is a DESIGN CHOICE (log 189): the rule's sentence leaves the grouping open. -/
def foldPage (exact : Bool) (dv : Nat) (t : Triple) (tokens : List (Nat × List Num)) : Triple :=
  let ss := tokens.map (·.1)
  if isNan32 t.m || ss.any isNan32 then
    { t with m := fp32.nanCode, l := fp32.nanCode, o := List.replicate dv fp32.nanCode }
  else
    let m := ss.foldl fmax t.m
    if m = negInf32 then t
    else
      let a := Elem.exp.apply (fsub t.m m)
      let ps := ss.map fun x => Elem.exp.apply (fsub x m)
      let l0 := fmul t.l a
      let o0 := (if t.o.isEmpty then List.replicate dv 0 else t.o).map fun x => fmul x a
      let ws := ps.map fun x => bf16.value (bf16.encode rne (fp32.value x))
      let col (i : Nat) : List Num := (ws.zip (tokens.map (·.2))).map fun (w, v) => w.mul (v.getD i .nan)
      { t with
        m := m
        l := if exact then fadd l0 (fp32.encode rne (sumNums (ps.map fp32.value))) else ps.foldl fadd l0
        o := o0.zipIdx.map fun (x, i) =>
          if exact then fadd x (fp32.encode rne (sumNums (col i)))
          else (col i).foldl (fun x p => fadd x (fp32.encode rne p)) x }

/-- A key is visible to a query (R137). -/
def visible (p : Bytes) (e : AttEntry) (qpos kpos : Nat) : Bool :=
  decide (kpos < e.visible) && match aMask p with
    | 0 => true
    | 1 => decide (kpos ≤ qpos)
    | _ => decide (kpos ≤ qpos) && decide (qpos < kpos + aWindow p)

/-- Position of query token i (R154). -/
def queryPos (p : Bytes) (e : AttEntry) (i : Nat) : Nat := if aAppend p then e.length + i else e.length - aQtok p + i

/-- The bias of query head q at a distance (R137): its code and its poison. The base is an address of the module that holds
the descriptor (log 56). -/
def biasOf (tile : Nat) (p : Bytes) (e : AttEntry) (q dist : Nat) (rd : Remote) (s : State) : State × Nat × Bool :=
  if aBias p && e.biasLen != 0 then
    let r := fetch tile (besideDesc e (e.biasBase + 4 * (q * e.biasLen + min dist (e.biasLen - 1)))) 4 rd s
    (r.1, field r.2.1 0 4, r.2.2)
  else (s, 0, false)

/-- One row takes a page: its query, the scores of the tokens it sees, the fold. `kp` says that the page's blocks hold
poison, which a row takes in even of tokens it does not see (R136, R151). -/
def takePage (op : Op) (exact : Bool) (tile leaf page : Nat) (h : Shape) (p : Bytes) (ks vs : List (List Num)) (kp : Bool)
    (row : Nat) (rd : Remote) (acc : State × AttEntry) : State × AttEntry :=
  let e := acc.2
  let q := row % h.qh
  let qpos := queryPos p e (row / h.qh)
  let qr := readBf16 tile (eQ e.raw + row * 2 * h.dk) h.dk rd acc.1
  let qv := qr.2.1.map bf16.value
  let t := (List.range 16).foldl (fun (a : State × List (Nat × List Num) × Bool) i =>
    let kpos := page * 16 + i
    let v := (vs.getD i []).take h.dv
    if visible p e qpos kpos then
      let b := biasOf tile p e q (max qpos kpos - min qpos kpos) rd a.1
      let sc := fadd (fmul (dotScore exact qv (ks.getD i [])) (aScale p)) b.2.1
      (b.1, a.2.1 ++ [(sc, v)], a.2.2 || b.2.2)
    else (a.1, a.2.1 ++ [(negInf32, v)], a.2.2)) (qr.1, [], qr.2.2 || kp)
  let old := Tab.get {} e.acc (accKey leaf row)
  let new := foldPage exact h.dv old t.2.1
  let new := { new with poison := old.poison || t.2.2 || op.residue.contains tile }
  (t.1, { e with acc := Tab.set {} e.acc (accKey leaf row) new })

/-- One page folded into every row of an entry, head by head (R135). -/
def walkPage (op : Op) (exact : Bool) (tile leaf page : Nat) (h : Shape) (p : Bytes) (frame : Nat) (rd : Remote) (s : State)
    (e : AttEntry) : State × AttEntry :=
  (List.range h.heads).foldl (fun (acc : State × AttEntry) head =>
    if acc.2.bad.isSome then acc
    else
      let k := readBlock tile frame (h.kLine (aLayer p) head) h.fmt h.dk rd acc.1
      let v := if h.latent then (k.1, k.2) else readBlock tile frame (h.vLine (aLayer p) head) h.fmt h.dv rd k.1
      let reason := if k.2.2.2 ≠ 0 then k.2.2.2 else v.2.2.2
      if reason ≠ 0 then pageFault tile acc.2 page reason (walkCause reason) v.1
      else
        let rows := (List.range (attRows p h)).filter fun r => r % h.qh / h.g == head
        rows.foldl (fun a r =>
          takePage op exact tile leaf page h p k.2.1 v.2.1 (k.2.2.1 || v.2.2.1) r rd a) (v.1, acc.2)) (s, e)

/-- Where an entry's records begin in the scratch (R159). -/
def partOffset (a : AttState) (e : AttEntry) : Nat :=
  (a.entries.takeWhile fun x => x.index != e.index).foldl (fun n x =>
    n + match x.shape with | some h => leafCount a.param x * attRows a.param h * recordBytes h.dv | none => 0) 0

/-- A work item ends: its records go to the scratch; a refused write makes the rows poison (R159, R203). -/
def endItem (a : AttState) (tile leaf : Nat) (h : Shape) (rd : Remote) (s : State) (e : AttEntry) : State × AttEntry :=
  let rows := attRows a.param h
  let b := recordBytes h.dv
  (List.range rows).foldl (fun (acc : State × AttEntry) r =>
    let t := Tab.get {} acc.2.acc (accKey leaf r)
    let w := outWrite tile (aPart a.param + partOffset a e + (leaf * rows + r) * b) (t.bytes h.dv) (fun _ => t.poison) rd acc.1
    if w.2 = 0 then (w.1, acc.2)
    else (w.1, { acc.2 with acc := Tab.set {} acc.2.acc (accKey leaf r) { t with poison := true } })) (s, e)

/-- The ATTENTION operation in progress with an entry replaced. -/
def setEntry (op : Op) (a : AttState) (e : AttEntry) (s : State) : State :=
  let att : AttState := { a with entries := a.entries.map fun x => if x.index == e.index then e else x }
  { s with sched := { s.sched with op := some { op with att := some att } } }

/-- The tile whose pipeline runs a work item (R158). -/
def itemTile (s : State) (a : AttState) (e : AttEntry) (chunk : Nat) : Nat :=
  e.workers.getD (chunk - leafFirst a.param) (entryTile s e)

/-- The pipeline has an earlier work item to end: items run in list order, then chunk order (R158). -/
def itemBefore (a : AttState) (e : AttEntry) (chunk tile : Nat) : Bool :=
  a.entries.any fun x => x.poison == false && (workItems a.param x).any fun j =>
    (decide (x.index < e.index) || (x.index == e.index && decide (j < chunk)))
      && x.workers.getD (j - leafFirst a.param) (tile + 1) == tile && decide (Tab.get 0 x.walked j < (chunkPages x j).2)

/-- The next page of a work item resolved, read and folded into the item's triples; with the last the item ends. -/
def walkNext (op : Op) (a : AttState) (e : AttEntry) (h : Shape) (chunk tile : Nat) (rd : Remote) (s : State) : State × AttEntry :=
  let leaf := chunk - leafFirst a.param
  let pages := chunkPages e chunk
  let n := Tab.get 0 e.walked chunk
  let page := pages.1 + n
  let f := pageFrame tile e page rd (tally 1 tile 9 1 s)
  let r : State × AttEntry := match f.2.2 with
    | none => (f.1, f.2.1)
    | some frame => walkPage op s.pace.red tile leaf page h a.param frame rd f.1 f.2.1
  let e : AttEntry := { r.2 with walked := Tab.set 0 r.2.walked chunk (n + 1) }
  if n + 1 = pages.2 ∧ e.bad.isNone ∧ e.poison = false then endItem a tile leaf h rd r.1 e else (r.1, e)

/-- PAGE_WALK: the next page of a work item resolved, read and folded (R136, R151), once the pipeline has ended its earlier
items (R158). -/
def execPageWalk (entry chunk page : Nat) (rd : Remote) (s : State) : Host.Outcome State Fault Refusal :=
  heldRow s fun s =>
  match s.sched.op with
  | none => idle s
  | some op => match op.att with
    | none => idle s
    | some a => match a.entries.find? fun e => e.index == entry with
      | none => idle s
      | some e => match e.shape with
        | none => idle s
        | some h =>
          let pages := chunkPages e chunk
          let n := Tab.get 0 e.walked chunk
          let tile := itemTile s a e chunk
          if s.thermal.hold ∨ e.poison ∨ (workItems a.param e).contains chunk = false ∨ pages.2 ≤ n ∨ page ≠ pages.1 + n
            ∨ itemBefore a e chunk tile then idle s
          else
            let k := walkNext op a e h chunk tile rd s
            .next (setEntry op a k.2 k.1)

/-! ### The merge tree (R160) -/

/-- Two triples merged. -/
def Triple.merge (dv : Nat) (x y : Triple) : Triple :=
  let poison := x.poison || y.poison
  if x.m = negInf32 ∧ y.m = negInf32 then { poison := poison }
  else
    let m := if isNan32 x.m || isNan32 y.m then fp32.nanCode else fmax x.m y.m
    let a := Elem.exp.apply (fsub x.m m)
    let b := Elem.exp.apply (fsub y.m m)
    let full (t : Triple) : List Nat := if t.o.isEmpty then List.replicate dv 0 else t.o
    { m := m, l := fadd (fmul x.l a) (fmul y.l b)
      o := ((full x).zip (full y)).map fun (u, v) => fadd (fmul u a) (fmul v b), poison := poison }

/-- The worker that computes a node: that of its leftmost leaf (R160); none over leaves without chunks, or of records. -/
def nodeTile (e : AttEntry) (level q : Nat) : Option Nat := e.workers[q * 2 ^ level]?

/-- The tile computes the node, and its results are poison (R99). -/
def nodeBad (residue : List Nat) (e : AttEntry) (level q : Nat) : Bool :=
  match nodeTile e level q with | some t => residue.contains t | none => false

/-- One level of an entry's tree: `n` nodes of the present level merged in pairs by the workers of their leftmost leaves. -/
def mergeLevel (residue : List Nat) (p : Bytes) (h : Shape) (n level : Nat) (e : AttEntry) : AttEntry :=
  { e with acc := (List.range (n / 2)).foldl (fun t q => (List.range (attRows p h)).foldl (fun t r =>
      let m := Triple.merge h.dv (Tab.get {} t (accKey (2 * q) r)) (Tab.get {} t (accKey (2 * q + 1) r))
      Tab.set {} t (accKey q r) { m with poison := m.poison || nodeBad residue e (level + 1) q }) t) e.acc }

/-- The results that a tile has given of an ATTENTION become poison: the nodes, at the level that the tree has reached, that
took in a work item of its pipeline (R99, R105). -/
def poisonWorker (tile : Nat) (a : AttState) : AttState :=
  let mark (h : Shape) (e : AttEntry) : Tab Triple := e.workers.zipIdx.foldl (fun t (w, i) =>
    if w = tile then (List.range (attRows a.param h)).foldl (fun t r =>
      Tab.upd {} t (accKey (i / 2 ^ a.level) r) fun k => { k with poison := true }) t
    else t) e.acc
  let spoilt (e : AttEntry) : AttEntry := match e.shape with
    | none => e
    | some h => { e with acc := mark h e }
  { a with entries := a.entries.map spoilt }

/-- Levels of the tallest tree of an operation. -/
def treeLevels (a : AttState) : Nat := (a.entries.map fun e => if e.bad.isSome || e.poison then 0 else
  Nat.log2 (leafCount a.param e)).foldl max 0

/-- Every work item of an operation has ended. -/
def itemsDone (a : AttState) : Bool := a.entries.all fun e =>
  e.poison || (workItems a.param e).all fun j => decide ((chunkPages e j).2 ≤ Tab.get 0 e.walked j)

/-- The tree's next level computed for every entry that has one. -/
def mergeNext (residue : List Nat) (a : AttState) : AttState :=
  { a with level := a.level + 1
           entries := a.entries.map fun e => match e.shape with
             | some h =>
               let n := leafCount a.param e / 2 ^ a.level
               if e.bad.isSome || e.poison || decide (n < 2) then e else mergeLevel residue a.param h n a.level e
             | none => e }

/-! ### The output (R138, R162) -/

/-- The correctly rounded FP32 quotient of two encodings. -/
def fdiv (a b : Nat) : Nat :=
  match fp32.value a, fp32.value b with
  | .nan, _ | _, .nan => fp32.nanCode
  | .inf _, .inf _ => fp32.nanCode
  | .inf x, .fin y _ _ => fp32.encode rne (.inf (x != y))
  | .fin x _ _, .inf y => fp32.encode rne (.fin (x != y) 0 0)
  | .fin x m e, .fin y n f =>
    if n = 0 then (if m = 0 then fp32.nanCode else fp32.encode rne (.inf (x != y)))
    else
      let q := m * 2 ^ 80 / n
      fp32.encode rne (.fin (x != y) (2 * q + if m * 2 ^ 80 % n = 0 then 0 else 1) (e - f - 81))

/-- The output elements of a row (R138). -/
def outCodes (d : Bytes) (h : Shape) (seq row : Nat) (t : Triple) : List Nat :=
  (List.range h.dv).map fun i =>
    if t.l = 0 then 0
    else
      let k : Rnd := { mode := dRound d, sat := dSat d, r := srBits (dSeed d) ((seq * 65536 + row) % 2 ^ 32) i }
      match fmtOf (dFmtC d) with
      | some f => f.encode k (fp32.value (fdiv (nth t.o i) t.l))
      | none => 0

/-- What an entry's output left: reason of a dropped write, poisoned elements. The rows of an entry that ends with a class 0x01
error outside R151 and R155 (a LENGTH below QTOK, another shape, a range beyond its chunks) are written as poison too: DESIGN
CHOICE (log 188), the spec does not say what they hold. -/
def writeEntry (d p : Bytes) (rd : Remote) (s : State) (e : AttEntry) : State × Nat × Nat :=
  match e.shape with
  | none => (s, 0, 0)
  | some h =>
    let tile := entryTile s e
    let whole := e.bad.isSome || e.poison
    (List.range (attRows p h)).foldl (fun (acc : State × Nat × Nat) r =>
      let t := Tab.get {} e.acc (accKey 0 r)
      let bad := whole || t.poison
      let bytes :=
        if aMode p = 1 then (if whole then zeros (recordBytes h.dv) else t.bytes h.dv)
        else if whole then zeros (vecBytes (dFmtC d) h.dv)
        else packRow (dFmtC d) (outCodes d h e.seqId r t)
      let w := outWrite tile (eOut e.raw + r * bytes.length) bytes (fun _ => bad) rd acc.1
      let s := if bad then tally 1 tile 10 h.dv (tally 9 0 4 h.dv w.1) else w.1
      (s, if acc.2.1 ≠ 0 then acc.2.1 else w.2, acc.2.2 + if bad then h.dv else 0)) (s, 0, 0)

/-- SEQ.LENGTH advanced by QTOK, on whichever module holds the descriptor (R154), and the reason of a write that was
dropped. -/
def commitEntry (p : Bytes) (rd : Remote) (s : State) (e : AttEntry) : State × Nat :=
  if aCommit p && e.bad.isNone && !e.poison then
    let bs := natLE 4 (e.length + aQtok p)
    if isLocal s e.desc then (storeBytes (podOffset e.desc + 8) bs s, 0)
    else writePieces (podDevice e.desc) 1 (0x1000 + entryTile s e) [(podOffset e.desc + 8, bs)] rd s
  else (s, 0)

end Sys2Proof.Machine
end

