-- ==== Sys2Proof/Machine/Pace.lean ====
section
/-! DEFINITION. Pace, power and modes (chapter 2): the pace monitors, the power governor, what every governor together
leaves of a rail, a level and a limit (R434), the mode commands (R59-R61) and the operating-point change (R62). -/

namespace Sys2Proof.Machine

/-! ### What the governors leave (R434) -/

/-- Activity limits and side-stack limits of the operating points (Table 2.6). -/
def actLimit (point : Nat) : Nat := if point = 3 then 2 else 4
def sideLimit (point : Nat) : Nat := match point with | 1 => 70 | 3 => 40 | _ => 100

/-- Thermal actions held for a group. -/
def heldOf (s : State) (g : Nat) : Held := Tab.get {} s.thermal.acts g

/-- The most that the tiers' second action takes off every VCORE. -/
def tierCore (s : State) : Nat := ((List.range 8).map fun i => (heldOf s (32 + i)).core).foldl max 0

/-- The rails stand at their floors (R436): throughout a THERMAL_HOLD, and after COOLANT_LOSS once the array is at idle
(steps 3 and 4 of Table 16.7). -/
def atFloor (s : State) : Bool := s.thermal.hold && (!s.thermal.holdLoss || s.pace.actLevel == 0)

/-- Set voltage that the governors leave for a cluster and for a tier. -/
def coreGoal (s : State) (c : Nat) : Nat :=
  if atFloor s then 600
  else
    let off := max s.pace.govRail (max (max (heldOf s (2 * c)).rail (heldOf s (2 * c + 1)).rail) (tierCore s))
    max 600 (coreTarget s.pace.point - off)
def tierGoal (s : State) (i : Nat) : Nat :=
  if atFloor s then 950 else max 950 (tierTarget s.pace.point - (heldOf s (32 + i)).rail)

/-- Quarters of activity that an allowance leaves in a safety ramp-down (R69; the quarters are the model's, log 37). -/
def allowedAct (s : State) : Nat :=
  (s.pace.allow - idlePower s.pace.point) * 4 / (envelope s.pace.point - idlePower s.pace.point)

/-- Activity level that the power and the thermal governor leave below the point's limit, at least one quarter (DESIGN
CHOICE, log 152: R66 gives the power governor no lowest level). -/
def governedAct (s : State) : Nat :=
  let lim := actLimit s.pace.point
  max (min 1 lim) (lim - max s.pace.govAct (((List.range 40).map fun g => (heldOf s g).act).foldl max 0))

/-- Activity level that all governors leave, the lowest that any sets (R434): the array holds at idle in THERMAL_HOLD
(R436), and follows the allowance down in a safety ramp-down (R69). -/
def actGoal (s : State) : Nat :=
  if s.pace.emerg then min (min s.pace.actLevel (allowedAct s)) (governedAct s)
  else if s.thermal.hold then 0
  else governedAct s

/-- LIMIT_PCT that the governors leave for a side stack. -/
def sideGoal (s : State) (i : Nat) : Nat :=
  min (sideLimit s.pace.point) (match (heldOf s (40 + i)).lim with | 0 => 100 | 1 => 70 | _ => 40)

/-- GOVERNOR trace record (Table 18.15). -/
def governorTrace (rank n mv act lim : Nat) (s : State) : State :=
  traceRec 0x06 0 (fld rank 0 3 + fld n 8 8 + fld mv 16 12 + fld act 28 3 + fld lim 32 7) s

/-- STEADY_GOVERNED at the first lowering in STEADY during a task, the work that the array serves (R454). -/
def steadyGoverned (rank : Nat) (s : State) : State :=
  match s.sched.running with
  | r :: rest =>
    if s.pace.point = 2 ∧ r.steadyLog = false then
      logEvent 0x0C0D 0 (fld s.sched.lastTag 0 16 + fld rank 16 3)
        { s with sched := { s.sched with running := { r with steadyLog := true } :: rest } }
    else s
  | [] => s

/-- A rail moved to what the governors leave; while a safety ramp-down runs none is raised (R70). -/
def moveRail (emerg : Bool) (now' goal : Nat) : Nat := if emerg then min now' goal else goal

/-- What differs between two lists of rails or limits, numbered from `n0`, traced. -/
def traceChanges (rank n0 : Nat) (vals : Nat → Nat × Nat) (act : Nat) (ns : List Nat) (s : State) : State :=
  ns.foldl (fun t n => governorTrace rank (n0 + n) (vals n).1 act (vals n).2 t) s

/-- Side-stack limits set to what the governors leave. -/
def governSides (rank : Nat) (s : State) : State :=
  let sides := Tab.setMany {} s.stack.sides (List.range 12) fun i => { sideOf s i with limit := sideGoal s i }
  let moved := (List.range 12).filter fun i => (sideOf s i).limit != sideGoal s i
  traceChanges rank 24 (fun i => (750, sideGoal s i)) s.pace.actLevel moved { s with stack := { s.stack with sides := sides } }

/-- The activity level set to what the governors leave. -/
def governAct (rank : Nat) (s : State) : State :=
  let act := actGoal s
  let s' := { s with pace := { s.pace with actLevel := act } }
  if act = s.pace.actLevel then s' else governorTrace rank 0xFF 0 act 0 s'

/-- `VTIER` of every tier that has not failed set to what the governors leave. -/
def governTiers (rank : Nat) (s : State) : State :=
  let volts (i : Nat) : Nat := if (tierOf s i).failed then Tab.get 0 s.pace.vtier i
    else moveRail s.pace.emerg (Tab.get 0 s.pace.vtier i) (tierGoal s i)
  let moved := (List.range 8).filter fun i => Tab.get 0 s.pace.vtier i != volts i
  traceChanges rank 16 (fun i => (volts i, 0)) s.pace.actLevel moved
    { s with pace := { s.pace with vtier := Tab.setMany 0 [] (List.range 8) volts } }

/-- Every `VCORE` set to what the governors leave. -/
def governCores (rank : Nat) (s : State) : State :=
  let volts (c : Nat) : Nat := moveRail s.pace.emerg (Tab.get 0 s.pace.vcore c) (coreGoal s c)
  let moved := (List.range 16).filter fun c => Tab.get 0 s.pace.vcore c != volts c
  traceChanges rank 0 (fun c => (volts c, 0)) s.pace.actLevel moved
    { s with pace := { s.pace with vcore := Tab.setMany 0 [] (List.range 16) volts } }

/-- The activity level stands lower. -/
def actFell (s t : State) : Bool := decide (t.pace.actLevel < s.pace.actLevel)

/-- A rail or a side-stack limit stands lower. -/
def railFell (s t : State) : Bool :=
  (List.range 24).any (fun n => decide (railOf t n < railOf s n))
    || (List.range 12).any fun i => decide ((sideOf t i).limit < (sideOf s i).limit)

/-- Limits, level and rails set to what the governors leave, in the order in which Table 2.7 moves them, traced under the
rank of the governor that acts on each: `ra` on the activity level, `rr` on rails and limits (Table 16.5). The work's first
lowering in STEADY is logged with the highest rank that lowered something. -/
def govern (ra rr : Nat) (s : State) : State :=
  if s.power.coreRails = false then s
  else
    let t := governCores rr (governTiers rr (governAct ra (governSides rr s)))
    match actFell s t, railFell s t with
    | true, true => steadyGoverned (min ra rr) t
    | true, false => steadyGoverned ra t
    | false, true => steadyGoverned rr t
    | false, false => t

/-- Rank under which the power governor's window acts: a safety ramp-down lowers the level, and a THERMAL_HOLD the rails. -/
def windowRanks (s : State) : Nat × Nat := (if s.pace.emerg then 1 else 3, if s.thermal.hold then 2 else 3)

/-! ### Pace monitors (R51) -/

/-- PACE_MONITOR_WINDOW: one 10 µs window of a domain; its counters of time advance (Table 18.12). -/
def execPaceMonitorWindow (n pace : Nat) (s : State) : Host.Outcome State Fault Refusal :=
  if 36 ≤ n ∨ railOf s n = 0 then idle s
  else
    let pace := min pace 0xFFFF
    let reg := paceMon s n
    let s := if (monOf s n).valid then s else startCounting 6 [n] s
    let s := { s with pace := { s.pace with mons := Tab.upd {} s.pace.mons n fun m =>
      { pace := pace, paceMin := some (match m.paceMin with | some p => min p pace | none => pace), valid := true } } }
    let s := setGauge 6 n 5 (fun g => min pace (g.getD pace)) (tally 6 n 0 (10 * pace) s)
    let s := if bitB reg 53 then tally 6 n 2 10000 s else s
    let s := if bitB reg 52 then tally 6 n 3 10000 s else s
    .next (if s.thermal.hold then tally 6 n 4 10000 s else s)

/-! ### The power governor (R65-R69) -/

/-- Budget below which STEADY does not let the allowance fall (R68). -/
def steadyBudget : Nat := 2260

/-- The allowance's limit: the envelope, and the flow cap while it applies (R66, R443). -/
def allowLimit (s : State) : Nat :=
  if s.coolant.capOn then min s.coolant.capW (envelope s.pace.point) else envelope s.pace.point

/-- What the allowance moves toward. -/
def allowGoal (s : State) (demand : Nat) : Nat :=
  let want := if s.pace.point = 2 then max steadyBudget demand else demand
  max (idlePower s.pace.point) (min (allowLimit s) want)

/-- A value moved toward a goal by at most a step. -/
def approach (step v goal : Nat) : Nat := if v < goal then min goal (v + step) else max goal (v - step)

/-- The allowance after one window of 100 µs: 25 W toward its goal, or 145 W down in a safety ramp-down. -/
def nextAllow (s : State) (demand : Nat) : Nat :=
  if s.pace.emerg then min s.pace.allow (max (idlePower s.pace.point) (s.pace.allow - 145))
  else approach 25 s.pace.allow (allowGoal s demand)

/-- What every `VCORE` at least lies below its target. -/
def allCoreOff (p : Pace) : Nat := coreTarget p.point - ((List.range 16).map fun c => Tab.get 0 p.vcore c).foldl max 0

/-- What the power governor holds after a window: one step lower than the rails stand when the work draws more than the
allowance, and a quarter less with all of them at the floor; one step released when it draws less or its demand fits (R66;
one step a window is the model's choice, log 38). -/
def nextHold (p : Pace) (watts demand allow : Nat) : Nat × Nat :=
  let off := max p.govRail (allCoreOff p)
  if allow < watts ∧ allow < demand then
    if off < coreTarget p.point - 600 then (off + 5, p.govAct) else (p.govRail, min 4 (p.govAct + 1))
  else if watts < allow ∨ demand ≤ allow then
    if 0 < p.govAct then (p.govRail, p.govAct - 1) else (p.govRail - 5, 0)
  else (p.govRail, p.govAct)

/-! ### The demand (R66) -/

/-- Linear interpolation in a table of points (v, y) in rising order of v; beyond its ends the nearest row. -/
def interpolate : List (Nat × Nat) → Nat → Nat
  | [], _ => 0
  | [(_, y)], _ => y
  | (v0, y0) :: (v1, y1) :: rest, v =>
    if v ≤ v0 then y0
    else if v < v1 then y0 + (y1 - y0) * (v - v0) / (v1 - v0)
    else interpolate ((v1, y1) :: rest) v

/-- Typical pace at 60 °C against rail voltage (Table 2.2), for clusters and for tiers. -/
def corePace : Nat → Nat := interpolate [(600, 1050), (650, 1240), (700, 1420), (750, 1600), (800, 1760), (850, 1900)]
def tierPace : Nat → Nat := interpolate [(950, 1700), (1000, 1850), (1050, 2000), (1100, 2250)]

/-- An energy scaled from the present voltage and pace to the target's (step 2): (target / present) squared times
(typical pace at target / present pace); as it is while no window has given a present pace. -/
def atTarget (e target pace now' present : Nat) : Nat :=
  if now' = 0 ∨ present = 0 then e else e * target * target * pace / (now' * now' * present)

/-- A cluster's share of the demand: less ballast (step 1), at the target (step 2), its tile share at the activity limit
while the array is active (step 3). -/
def coreDemand (s : State) (r : RailEnergy) (c : Nat) : Nat :=
  let b := nth r.ballast c
  let tiles := nth r.tiles c - b
  let rest := nth r.domain c - b - tiles
  let t := coreTarget s.pace.point
  let scale (e : Nat) : Nat := atTarget e t (corePace t) (railOf s c) (monOf s c).pace
  let busy := s.pace.active != 0 && s.pace.actLevel != 0
  scale rest + (if busy then scale tiles * actLimit s.pace.point / s.pace.actLevel else scale tiles)

/-- A tier's share of the demand (steps 1 and 2). -/
def tierDemand (s : State) (r : RailEnergy) (i : Nat) : Nat :=
  let t := tierTarget s.pace.point
  atTarget (nth r.domain (16 + i)) t (tierPace t) (railOf s (16 + i)) (monOf s (16 + i)).pace

/-- Sum of a function over the numbers below a bound. -/
def sumTo (n : Nat) (f : Nat → Nat) : Nat := ((List.range n).map f).foldl (· + ·) 0

/-- The demand in W: the scaled clusters and tiers, the side-stack controllers, and what is fixed (steps 1 to 4). 100 µJ
over a window of 100 µs are 1 W. With the array idle nothing is scaled to the activity limit: it is the idle draw. Every
quotient is rounded down (DESIGN CHOICE, log 175). -/
def demandOf (s : State) (r : RailEnergy) : Nat :=
  (sumTo 16 (coreDemand s r) + sumTo 8 (tierDemand s r) + sumTo 12 (fun i => nth r.domain (24 + i)) + r.other) / 100

/-- The energy counters: every timing domain's energy, and the ballast of a cluster (Table 18.12). -/
def countEnergy (r : RailEnergy) (s : State) : State :=
  let s := (List.range 36).foldl (fun s n => tally 6 n 1 (nth r.domain n) s) s
  (List.range 16).foldl (fun s c => tally 6 c 7 (nth r.ballast c) s) s

/-- POWER_WINDOW: the window's input power, and the governor's estimate of the demand at its end. -/
def execPowerWindow (watts : Nat) (rails : RailEnergy) (s : State) : Host.Outcome State Fault Refusal :=
  if s.power.standby = false then idle s
  else
    let p := s.pace
    let s := { (tally 9 0 8 (100 * watts) s) with pace := { p with power := watts, powHist := (watts :: p.powHist).take 1000 } }
    if s.power.coreRails = false then .next s
    else
      let s := countEnergy rails (if s.sched.op.isSome then tally 9 0 3 100000 s else s)
      let demand := demandOf s rails
      let allow := nextAllow s demand
      let h := nextHold s.pace watts demand allow
      let set (p : Pace) : Pace := { p with
        demand := demand, allow := allow, govRail := h.1, govAct := h.2
        ballast := decide (demand < allow) && !p.emerg && !s.thermal.hold }
      let s := { s with pace := set s.pace }
      .next (govern (windowRanks s).1 (windowRanks s).2 s)

/-- A safety ramp-down starts: ballast stops at once (R69). -/
def rampDown (s : State) : State := { s with pace := { s.pace with emerg := true, ballast := false } }

/-- SAFETY_RAMP_DOWN_END: the allowance is at idle power (R434). -/
def execSafetyRampDownEnd (s : State) : Host.Outcome State Fault Refusal :=
  if s.pace.emerg ∧ s.pace.allow ≤ idlePower s.pace.point then
    .next (govern 2 2 (wakeAwls { s with pace := { s.pace with emerg := false } }))
  else idle s

/-! ### The mode commands (R60, R61) -/

/-- Rank of an operating point: QUIET, STEADY, FULL, SPRINT. -/
def pointRank (p : Nat) : Nat := match p with | 3 => 0 | 2 => 1 | 0 => 2 | _ => 3

/-- A change to a point raises it. -/
def raises (s : State) (p : Nat) : Bool := decide (pointRank s.pace.point < pointRank p)

/-- Why a raise is refused now (R61). -/
def raiseFail (s : State) (p : Nat) : List Fail :=
  failIf (raises s p && s.thermal.hold) 0x0501 ++ failIf (raises s p && coolantWarn s) 0x0502

/-- Ports in a mask. -/
def maskCount (m : Nat) : Nat := popcount 32 m

/-- Most active ports of a point (Table 2.6). -/
def portLimit (p : Nat) : Nat := match p with | 1 => 16 | 3 => 8 | _ => 32

/-- Check of SET_MODE (R59-R61). -/
def checkSetMode (pl : Bytes) (s : State) : List Fail :=
  let p := field pl 0 1
  let m := field pl 4 4
  failIf (decide (3 < p)) 0x0104 (some 0) ++ reservedFail (pl.take 8) [(0, 8), (32, 32)]
    ++ failIf (decide (p ≤ 3) && m != 0 && (p == 0 || p == 2 || decide (portLimit p < maskCount m))) 0x010C (some 32)
    ++ failIf s.pace.pendPoint.isSome 0x0302 ++ (if p ≤ 3 then raiseFail s p else [])

/-- SET_MODE: pending until the next task boundary. -/
def execSetMode (o : Origin) (s : State) : Host.Outcome State Fault Refusal :=
  .next (command o 0x0010 checkSetMode (fun pl s =>
    begin' o { s with pace := { s.pace with pendPoint := some ⟨field pl 0 1, field pl 4 4, o⟩ } }) s)

/-- Check of the discipline form of SET_NETWORK_MODE. -/
def checkDiscipline (pl : Bytes) (s : State) : List Fail :=
  failIf (decide (1 < field pl 1 1)) 0x0104 (some 8) ++ reservedFail (pl.take 16) [(0, 8), (8, 8)]
    ++ failIf s.pace.pendNet.isSome 0x0302

/-- SET_NETWORK_MODE, the discipline form; an unknown form is refused here. -/
def execSetNetworkMode (o : Origin) (s : State) : Host.Outcome State Fault Refusal :=
  match accepted s o 0x0011 with
  | none => idle s
  | some a =>
    let form := field a.payload 0 1
    if form = 0 then
      .next (command o 0x0011 checkDiscipline (fun pl s =>
        begin' o { s with pace := { s.pace with pendNet := some ⟨field pl 1 1 == 1, o⟩ } }) s)
    else if 2 < form then .next (refuse o ⟨0x0104, some 0, none⟩ s)
    else idle s

/-- SET_REDUCTION. -/
def execSetReduction (o : Origin) (s : State) : Host.Outcome State Fault Refusal :=
  .next (command o 0x0012
    (fun pl s => failIf (decide (1 < field pl 0 1)) 0x0104 (some 0) ++ failIf s.pace.pendRed.isSome 0x0302)
    (fun pl s => begin' o { s with pace := { s.pace with pendRed := some ⟨field pl 0 1 == 1, o⟩ } }) s)

/-! ### Changes at a task boundary (R62, R398) -/

/-- A task boundary: no submission or instance has started without completing. -/
def taskBoundary (s : State) : Bool := s.sched.running.isEmpty && s.sched.op.isNone

/-- MODE trace record. -/
def modeTrace (s : State) : State :=
  traceRec 0x05 0 (fld (s.pace.showing.getD s.pace.point) 0 2 + fld (b2n s.pace.net) 2 1 + fld (b2n s.pace.red) 3 1
    + fld (s.obj.installed.getD 0xF) 8 4) s

/-- The first `n` of a list of ports, as a mask. -/
def portMask (n : Nat) (ps : List Nat) : Nat := (ps.take n).foldl (fun m p => m + 2 ^ p) 0

/-- The active port set of a point (R59). -/
def newPortSet (s : State) (p mask : Nat) : Nat :=
  if p = 0 ∨ p = 2 then 2 ^ 32 - 1
  else if mask ≠ 0 then mask
  else
    let up := (List.range 32).filter fun q => (port s q).state == 3 || (port s q).state == 4
    let rest := (List.range 32).filter fun q => !up.contains q
    portMask (portLimit p) (up ++ rest)

/-- Ports that join the active set leave PARKED for DETECT (step 6 of Table 2.7). -/
def joinPorts (set : Nat) (s : State) : State :=
  (List.range 32).foldl (fun s p => if bitB set p && (port s p).state == 6 then setPortState p 1 s else s) s

/-- What is held off a target, once the target has moved: a rail held below it stays at the voltage at which it is
held. -/
def rehold (old new room held : Nat) : Nat := if held = 0 then 0 else min room (held + new - old)

/-- The thermal actions after a change of the targets: the voltages that they hold stay, so that no held rail rises at
once (R62, step 5; DESIGN CHOICE, log 153). -/
def reholdAll (old new : Nat) (k : Thermal) : Thermal :=
  let core := rehold (coreTarget old) (coreTarget new) (coreTarget new - 600)
  let tier := rehold (tierTarget old) (tierTarget new) (tierTarget new - 950)
  { k with acts := Tab.setMany {} k.acts (List.range 40) fun g =>
      let h := Tab.get {} k.acts g
      { h with rail := if g < 32 then core h.rail else tier h.rail, core := core h.core } }

/-- Every trained shank recalibrated for the rate of the new VTIER target (R172). A lane that fails it comes as a
LANE_FAULT. -/
def recalibrate (p : Nat) (s : State) : State :=
  { s with stack := { s.stack with shanks := s.stack.shanks.map fun (t, k) =>
      (t, if k.valid then { k with calMv := tierTarget p } else k) } }

/-- Steps 1 and 2 of Table 2.7: L1s written back, and the port set formed; ports that leave it stop accepting messages,
those of an earlier change that have not parked among them. A route may lose its last usable port by it, or have one
again (R349). -/
def startPoint (p mask : Nat) (s : State) : State :=
  reconfigure (fun s =>
    let s := flushAllL1 s
    let set := newPortSet s p mask
    let out := 2 ^ 32 - 1 - set
    routeChanges (reachable s) { s with pace := { s.pace with portSet := set, leaving := (s.pace.portSet ||| s.pace.leaving) &&& out } }) s

/-- A leaving port has a session that must still drain. -/
def draining (s : State) : Bool :=
  (List.range 32).any fun p => bitB s.pace.leaving p && ((port s p).state == 3 || (port s p).state == 4)

/-- Leaving ports without a session enter electrical idle (step 3); a quarantined one does when its hold ends (R334). -/
def parkIdle (s : State) : State :=
  let s := (List.range 32).foldl (fun s p =>
    if bitB s.pace.leaving p && decide ((port s p).state ≤ 2) then setPortState p 6 s else s) s
  { s with pace := { s.pace with leaving := 0 } }

/-- Steps 3 to 5 of Table 2.7: the limits, the tier rails with the shanks' recalibration, and the core rails; the point shown
is still the old one. A rail that must rise stands where it is until the power governor releases it (step 5); the activity
that the power governor held is not held on (DESIGN CHOICE, log 151). -/
def movePoint (p : Nat) (s : State) : State :=
  reconfigure (fun s =>
    let s := parkIdle s
    let old := s.pace.point
    let hold := min (coreTarget p - 600) (s.pace.govRail + coreTarget p - coreTarget old)
    let upd (k : Pace) : Pace := { k with
      point := p, showing := some (k.showing.getD old), govRail := hold, govAct := 0 }
    let s := if tierTarget old = tierTarget p then s else recalibrate p s
    govern 3 3 { s with pace := upd s.pace, thermal := reholdAll old p s.thermal }) s

/-- Step 6 of Table 2.7: the point shown, and the ports that join. -/
def showPoint (s : State) : State :=
  joinPorts s.pace.portSet { s with pace := { s.pace with pendPoint := none, changing := 0, showing := none } }

/-- The point changed at once, where nothing drains (R377). -/
def applyPoint (p mask : Nat) (s : State) : State := showPoint (movePoint p (startPoint p mask s))

/-- The pending change completed: the rest of Table 2.7, and the command's answer. -/
def completePoint (c : PendPoint) (s : State) : State := answerOk c.by' [] (modeTrace (showPoint (movePoint c.point s)))

/-- REDUCTION_CHANGE (R60). -/
def execReductionChange (s : State) : Host.Outcome State Fault Refusal :=
  match s.pace.pendRed with
  | none => idle s
  | some c =>
    if taskBoundary s = false then idle s
    else .next (answerOk c.by' [] (modeTrace { s with pace := { s.pace with red := c.value, pendRed := none } }))

end Sys2Proof.Machine
end

