-- ==== Sys2Proof/Machine/Router.lean ====
section
/-! DEFINITION. How the routers and the welts move messages: arbitration under BOUNDED (R276, R279-R283), the slots of a
Last (R287-R289), and one step of the whole network. Every cluster steps at the pace of the array (DESIGN CHOICE, log
165). -/

namespace Sys2Proof.Machine

/-- A router's and a welt's record. -/
def routerOf (m : Mesh) (r : Nat) : Router := Tab.get {} m.routers r
def weltOf (m : Mesh) (c : Nat) : Welt := Tab.get {} m.welts c

/-- The flits of an input's channel, or of a flow there. -/
def Router.buf (k : Router) (i chan : Nat) : List MeshFlit := Tab.get [] k.bufs (bufKey i chan)

/-- Flits that an input holds for each channel, and for each flow (R277, R288). -/
def bufFlits : Nat := 8

/-- Credit for one more flit beyond an output: the next router's input has room; a welt takes every flit, and a message
waits there without a mesh buffer (R283). -/
def hasCredit (m : Mesh) (r o chan : Nat) : Bool :=
  o == 4 || decide (((routerOf m (nextRouter r o)).buf (farInput o) chan).length < bufFlits)

/-- The first of `n` numbers, in turn after one, that a test holds for. -/
def inTurn (n turn : Nat) (f : Nat → Bool) : Option Nat := ((List.range n).map fun j => (turn + 1 + j) % n).find? f

/-- A flit that leaves a router: its output, input, and whether the rule of 15 passes chose it. -/
structure Grant where
  o    : Nat
  i    : Nat
  flit : MeshFlit
  rule : Bool := false
  deriving DecidableEq, Repr

/-! ### Arbitration (R280) -/

/-- The head flits that an output could grant: inputs and flits of a channel that the schedule does not carry, which wait apart
from those of flows, with the channel's message under way kept whole. -/
def candidates (m : Mesh) (r o vc : Nat) : List (Nat × MeshFlit) :=
  let k := routerOf m r
  let lock := Tab.get 0 k.lock (4 * o + vc)
  (List.range 5).filterMap fun j =>
    let i := j + 1
    match (k.buf i vc).head? with
    | some f => if f.todo.contains o && decide (f.ready ≤ k.count) && (lock == 0 || lock == i)
        then some (i, f) else none
    | none => none

/-- The output's grant within a channel among the head flits that a test holds for, its inputs in turn. -/
def grantAmong (m : Mesh) (r o vc : Nat) (ok : MeshFlit → Bool) (rule : Bool) : Option Grant :=
  let cs := if hasCredit m r o vc then (candidates m r o vc).filter fun c => ok c.2 else []
  let turn := Tab.get 0 (routerOf m r).turn (4 * o + vc)
  match inTurn 5 (turn + 4) fun j => cs.any fun c => c.1 == j + 1 with
  | some j => (cs.find? fun c => c.1 == j + 1).map fun c => { o := o, i := c.1, flit := c.2, rule := rule }
  | none => none

/-- The output's grant within a channel. -/
def channelGrant (m : Mesh) (r o vc : Nat) : Option Grant := grantAmong m r o vc (fun _ => true) false

/-- The head flit of REQ, RSP or BULK that has been passed over 15 times at the output. -/
def overdue (m : Mesh) (r o : Nat) : Option Grant :=
  [1, 2, 3].findSome? fun vc => grantAmong m r o vc (fun f => decide (15 ≤ Tab.get 0 f.passed o)) true

/-- One flit for an output: CTL, else an overdue head flit, else by priority. -/
def arbitrate (m : Mesh) (r o : Nat) : Option Grant :=
  match channelGrant m r o 0 with
  | some g => some g
  | none => match overdue m r o with
    | some g => some g
    | none => [1, 2, 3].findSome? (channelGrant m r o)

/-! ### Slots (R287-R289) -/

/-- The slot of a router. -/
def slotOf (m : Mesh) (r : Nat) : Nat := (routerOf m r).count % max 1 (lastSlots m.image)

/-- The reserved slot. -/
def reservedSlot (m : Mesh) (r : Nat) : Bool := slotOf m r % 16 == 15

/-- The entry of a router's present slot. -/
def slotEntry (m : Mesh) (r : Nat) : Nat := field m.image (1664 + 8 * (lastSlots m.image * r + slotOf m r)) 8

/-- The flit that the schedule forwards: the first of the entry's flow at its input, if one is there. -/
def scheduled (m : Mesh) (r o : Nat) : Option Grant :=
  let k := routerOf m r
  let e := slotEntry m r
  let i := entryInput e o
  let f := entryFlow e o
  if i = 0 ∨ f = 0 then none
  else match (k.buf i (3 + f)).head? with
    | some x => if x.todo.contains o && decide (x.ready ≤ k.count) && hasCredit m r o (3 + f) then some { o := o, i := i, flit := x }
        else none
    | none => none

/-- The router decides by itself: under BOUNDED, in the reserved slot, and until the start token has come. -/
def arbitrates (m : Mesh) (r : Nat) : Bool := m.image.isEmpty || reservedSlot m r || (routerOf m r).wait

/-- The flit that an output forwards in this step or slot. -/
def grantOf (m : Mesh) (r o : Nat) : Option Grant := if arbitrates m r then arbitrate m r o else scheduled m r o

/-- The grants of a router. -/
def grants (m : Mesh) (r : Nat) : List Grant := (List.range 5).filterMap (grantOf m r)

/-! ### Forwarding -/

/-- The same flit of the same message. -/
def MeshFlit.same (f g : MeshFlit) : Bool := f.msg.id == g.msg.id && f.n == g.n

/-- A flit taken by one of its outputs: gone once every output has it. -/
def Router.take (k : Router) (g : Grant) : Router :=
  let vc := g.flit.msg.vc
  { k with
    bufs := Tab.upd [] k.bufs (bufKey g.i g.flit.msg.chan) fun fs => fs.filterMap fun f =>
      if f.same g.flit then (if f.todo.erase g.o = [] then none else some { f with todo := f.todo.erase g.o }) else some f
    turn := if g.flit.msg.flow = 0 then Tab.set 0 k.turn (4 * g.o + vc) g.i else k.turn
    lock := if g.flit.msg.flow = 0 then Tab.set 0 k.lock (4 * g.o + vc) (if g.flit.last then 0 else g.i) else k.lock }

/-- The head flits that an output passed over by its grant: each with that output. -/
def Router.pass (k : Router) (others : List (Nat × MeshFlit)) : Router :=
  { k with bufs := k.bufs.map fun (x, fs) => (x, fs.map fun f =>
      if f.msg.vc = 0 then f
      else { f with passed := (others.filter fun o => f.same o.2).foldl (fun p o => Tab.upd 0 p o.1 (· + 1)) f.passed }) }

/-- A flit put in a router's input, to go on from a step or slot. -/
def Router.enter (k : Router) (r i ready : Nat) (f : MeshFlit) : Router :=
  let f := { f with todo := if f.msg.cast then castOuts r i else [routeOut r f.msg.dst], ready := ready, passed := [] }
  { k with bufs := Tab.upd [] k.bufs (bufKey i f.msg.chan) (· ++ [f]) }

/-- Steps or slots from a flit's arrival at a router until it may go on: six steps a hop (R278), three slots (R289); four from
the welt. -/
def hopWait (m : Mesh) : Nat := if m.image.isEmpty then 6 else 3

/-- A router's slot counter starts at slot 0: the token has gone on to every output (Table 10.5, step 5). -/
def Mesh.start (m : Mesh) (r : Nat) : Mesh :=
  { m with
    routers := Tab.upd {} m.routers r fun k => { k with
      count := 0, wait := false
      bufs := k.bufs.map fun (x, fs) => (x, fs.map fun f => { f with ready := f.ready - k.count }) }
    welts := Tab.upd {} m.welts r fun w => { w with wait := w.wait.map fun k => { k with ready := 0 } } }

/-- What a welt has when a message's last flit has come: the message, or a broadcast's copy for every included tile of its
cluster (R284). -/
def arrivals (inc : Nat → Bool) (r : Nat) (k : MeshMsg) : List MeshMsg :=
  if k.cast then
    ((List.range 256).filter fun t => tileCluster t == r && inc t).map fun t => { k with output := .tile t, cast := false, dst := r }
  else [k]

/-- A grant carried out: the flit moves to the next router, or to the welt, which has the message with its last flit. A
router that has forwarded the start token starts. Between two routers whose slots run, the next slot that may forward is
counted from the slot of this one (R289), else from the next router's own count. -/
def moveFlit (inc : Nat → Bool) (r : Nat) (g : Grant) (m : Mesh) : Mesh :=
  let k := routerOf m r
  let token := m.token == some g.flit.msg.id
  let m1 := { m with routers := Tab.upd {} m.routers r fun k => k.take g }
  let m1 :=
    if g.o = 4 then
      if g.flit.last && !token then
        let msg := { g.flit.msg with input := .router, left := 0, ready := k.count + if m.image.isEmpty then 4 else 0 }
        { m1 with welts := Tab.upd {} m1.welts r fun w => { w with wait := w.wait ++ arrivals inc r msg } }
      else m1
    else
      let n := nextRouter r g.o
      let base := if k.wait || (routerOf m n).wait then (routerOf m n).count else k.count
      { m1 with routers := Tab.upd {} m1.routers n fun k => k.enter n (farInput g.o) (base + hopWait m) g.flit }
  if token && !(((routerOf m1 r).buf g.i 0).any fun f => f.same g.flit) then m1.start r else m1

/-- What the counters of a router take from a grant (Table 18.11). -/
def countGrant (m : Mesh) (r : Nat) (g : Grant) (s : State) : State :=
  let s := tally 4 r g.flit.msg.vc 1 s
  let s := if g.rule then tally 4 r 5 1 s else s
  let s := if !m.image.isEmpty && reservedSlot m r then tally 4 r 6 1 s else s
  let s := if g.flit.msg.cast then tally 4 r 8 1 s else s
  if !m.image.isEmpty && g.flit.msg.flow == 0 then tally 4 r 10 1 s else s

/-- What a router counts beside its grants: head flits that wait for credit, and scheduled slots left idle. -/
def countIdle (m : Mesh) (r : Nat) (gs : List Grant) (s : State) : State :=
  let stuck := ((List.range 5).flatMap fun o => (List.range 4).flatMap fun vc =>
    if hasCredit m r o vc then [] else candidates m r o vc).length
  let idle := if arbitrates m r then 0
    else ((List.range 5).filter fun o => entryInput (slotEntry m r) o != 0 && !(gs.any fun g => g.o == o)).length
  tally 4 r 7 idle (tally 4 r 4 stuck s)

/-- Slots that a router has finished: none before its counter starts. -/
def Router.slots (k : Router) : Nat := if k.wait then 0 else k.count

/-- A router begins slot s + 1 only after every neighbour has finished slot s - 1 (R287). -/
def mayStep (m : Mesh) (r : Nat) : Bool :=
  (List.range 4).all fun o => !hasPort r o || decide ((routerOf m r).slots ≤ (routerOf m (nextRouter r o)).slots + 1)

/-- One step of a router, by the network `m0` as it stood; `inc` tells the included tiles. -/
def stepRouter (inc : Nat → Bool) (m0 m : Mesh) (r : Nat) : Mesh :=
  if mayStep m0 r then
    let gs := grants m0 r
    let others := gs.flatMap fun g => (List.range 4).flatMap fun vc =>
      (((candidates m0 r g.o vc).map (·.2)).filter fun f => !(f.same g.flit)).map fun f => (g.o, f)
    let m := { m with routers := Tab.upd {} m.routers r fun k => { k.pass others with count := k.count + 1 } }
    gs.foldl (fun m g => moveFlit inc r g m) m
  else m

/-- What a router counts in its step. -/
def countRouter (m0 : Mesh) (s : State) (r : Nat) : State :=
  if mayStep m0 r then
    let gs := grants m0 r
    countIdle m0 r gs (gs.foldl (fun s g => countGrant m0 r g s) s)
  else s

/-! ### Welts (R276, R283) -/

/-- A message leaves its cluster, and has not. -/
def MeshMsg.bound (k : MeshMsg) (c : Nat) : Bool := k.input != .router && (k.cast || k.dst != c)

/-- The input that an output grants: in turn under BOUNDED, by the slot under LOCKSTEP (R289). -/
def weltInput (m : Mesh) (c out : Nat) (ms : List MeshMsg) : Option MeshMsg :=
  let has (j : Nat) : Bool := ms.any fun k => k.input.index == j
  let j := if m.image.isEmpty then inTurn 39 (Tab.get 0 (weltOf m c).turn out) has
    else let j := (routerOf m c).count % 39; if has j then some j else none
  match j with | some j => ms.find? fun k => k.input.index == j | none => none

/-- A message with the flow that the welt looks up (R288); a broadcast, which has no one destination, is unscheduled. -/
def withFlow (m : Mesh) (k : MeshMsg) : MeshMsg := { k with flow := if k.cast then 0 else flowOf m.image k.src k.dst k.vc }

/-- The messages that a welt may inject: the first of each input and channel or flow, while the router's input has room; a
message under way before others of its channel or flow; CTL one flit in four steps (R280); new ones but CTL not while they are
held. -/
def injectable (m : Mesh) (c : Nat) : List MeshMsg :=
  let w := weltOf m c
  let ms := (w.wait.filter fun k => k.bound c).map (withFlow m)
  ms.filter fun k =>
    (ms.find? fun x => x.input == k.input && x.chan == k.chan) == some k
      && decide (((routerOf m c).buf 5 k.chan).length < bufFlits)
      && (ms.all fun x => x.chan != k.chan || x.id == k.id || x.left == x.flits)
      && (if k.vc = 0 then w.ctl == 0 else !m.hold || k.left != k.flits)

/-- Flits of a message that enter its router in one step: its port carries 128 B (Table 10.1). -/
def injectCount (m : Mesh) (c : Nat) (k : MeshMsg) : Nat :=
  if k.vc = 0 then 1 else min k.left (min 2 (bufFlits - ((routerOf m c).buf 5 k.chan).length))

/-- A message's next flits injected (R277, R288). -/
def inject (c : Nat) (m : Mesh) : Mesh :=
  let w := weltOf m c
  let m := { m with welts := Tab.upd {} m.welts c fun w => { w with ctl := w.ctl - 1 } }
  match weltInput m c Endpoint.router.index (injectable { m with welts := Tab.set {} m.welts c w } c) with
  | none => m
  | some k =>
    let n := injectCount m c k
    let flit (j : Nat) : MeshFlit :=
      { msg := k, n := k.flits - k.left + j, last := k.flits - k.left + j + 1 == k.flits, todo := [], ready := 0 }
    let wait := w.wait.filterMap fun x =>
      if x.id = k.id ∧ x.input = k.input then (if x.left ≤ n then none else some { x with left := x.left - n }) else some x
    { m with
      routers := Tab.upd {} m.routers c fun r => (List.range n).foldl (fun r j => r.enter c 5 (r.count + 4) (flit j)) r
      welts := Tab.upd {} m.welts c fun w =>
        { w with wait := wait, turn := Tab.set 0 w.turn Endpoint.router.index k.input.index
                 ctl := if k.vc = 0 then 3 else w.ctl } }

/-- One message for a welt output that accepts it: from an endpoint of the cluster, or from the mesh. -/
def weltDeliver (accepts : Endpoint → Bool) (c : Nat) (m : Mesh) (e : Endpoint) : Mesh :=
  let w := weltOf m c
  let ms := w.wait.filter fun k => k.output == e && !k.bound c && (k.vc == 0 || accepts e)
    && decide (k.ready ≤ (routerOf m c).count)
  match weltInput m c e.index ms with
  | none => m
  | some k => { m with welts := Tab.upd {} m.welts c fun w =>
      { w with wait := w.wait.filter fun x => !(x.id == k.id && x.input == k.input && x.output == k.output)
               turn := Tab.set 0 w.turn e.index k.input.index } }

/-- One step of a welt: every output for which a message waits takes one input, and the router one. -/
def stepWelt (accepts : Endpoint → Bool) (m : Mesh) (c : Nat) : Mesh :=
  let outs := (((weltOf m c).wait.filter fun k => !k.bound c).map (·.output)).eraseDups
  inject c (outs.foldl (weltDeliver accepts c) m)

/-! ### The network -/

/-- An endpoint takes a request: a slice with a full miss table does not (R259, R283). -/
def accepts (s : State) : Endpoint → Bool
  | .slice t => !tableFull s t
  | _ => true

/-- No message of REQ, RSP or BULK is on the mesh. -/
def meshEmpty (m : Mesh) : Bool :=
  (m.routers.all fun (_, k) => k.bufs.all fun (_, fs) => fs.all fun f => f.msg.vc == 0)
    && m.welts.all fun (c, w) => w.wait.all fun k => k.vc == 0 || !k.bound c || k.left == k.flits

/-- One step of every router and every welt. -/
def Mesh.step (ok : Endpoint → Bool) (inc : Nat → Bool) (m : Mesh) : Mesh :=
  (List.range 16).foldl (stepWelt ok) ((List.range 16).foldl (stepRouter inc m) m)

/-- A tile is included. -/
def tileIn (s : State) (t : Nat) : Bool := (Tab.get {} s.tiles.stat t).width != 0

/-- One step of the network, with what its routers count. -/
def stepMesh (s : State) : State :=
  let m := s.mesh.step (accepts s) (tileIn s)
  { ((List.range 16).foldl (countRouter s.mesh) s) with mesh := m }

/-! ### The order that a Last fixes (R290) -/

/-- Messages that are under way or wait. -/
def Mesh.present (m : Mesh) : List Nat :=
  (m.welts.flatMap fun (_, w) => w.wait.map (·.id)) ++ m.routers.flatMap fun (_, k) => k.bufs.flatMap fun (_, fs) => fs.map (·.msg.id)

/-- The messages of a list in the order in which they reach their endpoints; the fuel counts steps. -/
def deliveries : Nat → Mesh → List Nat → List Nat
  | 0, _, left => left
  | n + 1, m, left =>
    if left.isEmpty then []
    else
      let m := m.step (fun _ => true) (fun _ => false)
      let here := m.present
      (left.filter fun i => !here.contains i) ++ deliveries n m (left.filter fun i => here.contains i)

/-- The order in which requests of REQ, two flits each, reach their homes under a Last's slots from slot 0 with nothing else on
the network: a function of the Last and of the traffic alone (R287 to R290). They are numbered as they are listed. -/
def lockstepOrder (image : Bytes) (reqs : List (Endpoint × Endpoint)) : List Nat :=
  let m := reqs.foldl (fun (m : Mesh) (a, b) => m.post a b 1 2 false) { image := image }
  deliveries (lastSlots image * 256 * (reqs.length + 1)) m (List.range reqs.length)

/-- The network stands still: nothing is on it and every router waits at the same step. -/
def Mesh.quiet (m : Mesh) : Bool := m.image.isEmpty && m.welts.isEmpty && m.routers.all fun (_, k) => k.bufs.isEmpty

/-- One nanosecond of the network at a pace in Msteps/s; while nothing moves under BOUNDED there is nothing to count. -/
def meshTick (pace : Nat) (s : State) : State :=
  if s.mesh.quiet then s
  else
    let n := s.mesh.acc + pace
    let s := { s with mesh := { s.mesh with acc := n % 1000 } }
    (List.range (n / 1000)).foldl (fun s _ => stepMesh s) s

end Sys2Proof.Machine
end

