-- ==== Sys2Proof/Machine/Tile.lean ====
section
/-! DEFINITION. Tile programs (R92-R95, R131): the instructions of Table 3.5, the L1 on their path to memory (R250-R253)
and their faults. The spec gives no function codes, so a row names its operation and its other operands (log 41); the
register fields and the immediate are those of the word at the tile's instruction index. -/

namespace Sys2Proof.Machine

/-! ### The course of a program -/

/-- A tile executes a program now; the array holds in THERMAL_HOLD (R436). -/
def tileRuns (s : State) (t : Nat) : Bool :=
  !s.thermal.hold && (tileOf s t).state == .running && match s.sched.op with
    | some op => dOp op.desc == 4 && op.tiles.any fun x => x.1 == t
    | none => false

/-- Instruction indices of the 64 KiB program memory; an index beyond it wraps (log 61). -/
def wrapPc (n : Nat × Loops) : Nat × Loops := (n.1 % 16384, n.2)

/-- The word at a tile's instruction index. -/
def tileWord (s : State) (t : Nat) : Nat := field s.tiles.prog (4 * (tileOf s t).pc) 4

/-- Major opcodes that Table 3.5 leaves reserved. -/
def reservedMajor (m : Nat) : Bool := decide (0x21 < m) && m != 0x3F

/-- One instruction whose major opcode lies in a class, counted. -/
def tileStep (t lo hi : Nat) (s : State) (run : Nat → State → State) : Host.Outcome State Fault Refusal :=
  let w := tileWord s t
  if tileRuns s t && decide (lo ≤ opMajor w) && decide (opMajor w ≤ hi) then .next (run w (tally 1 t 11 1 s)) else idle s

/-- Control passed on. -/
def tileGo (t : Nat) (n : Nat × Loops) (s : State) : State :=
  setTile t (fun k => { k with pc := (wrapPc n).1, loops := n.2 }) s
def tileNext (t : Nat) (s : State) : State := tileGo t (nextPc (tileOf s t).pc (tileOf s t).loops) s

/-- TILE_RESERVED_OPCODE. -/
def execTileReservedOpcode (t : Nat) (s : State) : Host.Outcome State Fault Refusal :=
  if tileRuns s t && reservedMajor (opMajor (tileWord s t)) then .next (tileFault t 1 (tally 1 t 11 1 s)) else idle s

/-! ### Registers and the local buffer -/

/-- A scalar result of 64 bits; a vector result. -/
def tileX (t r v : Nat) (s : State) : State := setTile t (fun k => { k with x := setX k.x 64 r v }) s
def tileV (t r v : Nat) (s : State) : State := setTile t (fun k => { k with v := setV k.v r v }) s

/-- Bytes of a local buffer; one not written in the operation is free (R92). -/
def lbByte (k : Tile) (i : Nat) : Byte := match Tab.get none k.lb i with | some b => b | none => Config.freeByte (k.salt + i)
def lbRead (k : Tile) (i n : Nat) : Bytes := (List.range n).map fun j => lbByte k (i + j)
def lbWrite (t i : Nat) (bs : Bytes) (s : State) : State :=
  setTile t (fun k => { k with lb := bs.zipIdx.foldl (fun b (v, j) => Tab.set none b (i + j) (some v)) k.lb }) s

/-- Bytes of the local buffer. -/
def lbSize : Nat := 2 ^ 21

/-- Address of a register plus the immediate. -/
def tileAddr (s : State) (t w : Nat) : Nat := ofSigned 64 ((regX (tileOf s t).x (opRs1 w) : Int) + opImm w)

/-! ### Scalar instructions -/

/-- TILE_SCALAR_INTEGER. -/
def execTileScalarInteger (t : Nat) (op : IntOp) (form : Form) (s : State) : Host.Outcome State Fault Refusal :=
  tileStep t 0x00 0x07 s fun w s =>
    let k := tileOf s t
    let b := if form = .register then regX k.x (opRs2 w) else ofSigned 64 (opImm w)
    let free := (Config.freeWord s.fresh).toNat
    tileNext t { (tileX t (opRd w) (intOp 64 op (regX k.x (opRs1 w)) b free) s) with fresh := s.fresh + 1 }

/-- TILE_CONTROL. -/
def execTileControl (t : Nat) (op : CtlOp) (s : State) : Host.Outcome State Fault Refusal :=
  if ctlExists op then
    tileStep t 0x08 0x0B s fun w s =>
      let k := tileOf s t
      tileGo t (control 64 op (regX k.x (opRs1 w)) (regX k.x (opRs2 w)) k.pc k.loops) s
  else idle s

/-- TILE_LB_SCALAR: 8 to 64 bits. -/
def execTileLbScalar (t : Nat) (store : Bool) (size : Nat) (signed : Bool) (s : State) : Host.Outcome State Fault Refusal :=
  if size = 8 ∨ size = 16 ∨ size = 32 ∨ size = 64 then
    tileStep t 0x0C 0x0F s fun w s =>
      let i := tileAddr s t w
      let n := size / 8
      if lbSize < i + n then tileFault t 2 s
      else if store then tileNext t (lbWrite t i (natLE n (regX (tileOf s t).x (opRd w))) s)
      else
        let v := leNat (lbRead (tileOf s t) i n)
        tileNext t (tileX t (opRd w) (if signed then ofSigned 64 (toSigned size v) else v) s)
  else idle s

/-! ### Vector instructions -/

/-- Vector operations of Table 3.5. -/
def tileVecOp : VecOp → Bool
  | .sub | .select | .broadcast _ | .insert _ | .extract _ => false
  | _ => true

/-- TILE_VECTOR_ARITH. -/
def execTileVectorArith (t : Nat) (op : VecOp) (lane : Lane) (s : State) : Host.Outcome State Fault Refusal :=
  if vecOpExists op lane && tileVecOp op then
    tileStep t 0x10 0x17 s fun w s =>
      let k := tileOf s t
      match vecOp op lane (regV k.v (opRs1 w)) (regV k.v (opRs2 w)) (regV k.v (opRd w)) 0 with
      | .vec v => tileNext t (tileV t (opRd w) v s)
      | .scalar x => tileNext t (tileX t (opRd w) x s)
  else idle s

/-- The rounding of one lane of a convert: a stochastic one takes seed, row and column from three scalar registers from
rs2 on, the column counted on by lane (R131, log 62). -/
def convRnd (k : Tile) (w round : Nat) (sat : Bool) (i : Nat) : Rnd :=
  let r := opRs2 w
  { mode := round, sat := sat
    r := srBits (regX k.x r % 2 ^ 32) (regX k.x ((r + 1) % 32) % 2 ^ 32) ((regX k.x ((r + 2) % 32) + i) % 2 ^ 32) }

/-- Formats of the lane converts: every one of Table 3.4 but FP32 and the MX formats. -/
def laneFormat (f : Nat) : Bool := (decide (2 ≤ f) && decide (f ≤ 5)) || f == fmtInt8 || f == fmtInt4 || f == fmtInt32

/-- TILE_VECTOR_CONVERT (R131): lanes, an MX block with its scale above its elements, or an XF640 line in the local buffer
and lane 0 (log 62). The XF640 line is the 128 bytes from any local-buffer address: that one which is no multiple of 128 is taken
so is a DESIGN CHOICE (log 182), since R121 aligns a line and the spec is silent on another address. -/
def execTileVectorConvert (t : Nat) (op : TileConv) (round : Nat) (sat : Bool) (s : State) :
    Host.Outcome State Fault Refusal :=
  if 5 < round then idle s
  else
    let step (run : Tile → Nat → State → State) : Host.Outcome State Fault Refusal :=
      tileStep t 0x10 0x17 s fun w s => run (tileOf s t) w s
    match op with
    | .fromFp32 f =>
      if laneFormat f then step fun k w s =>
        tileNext t (tileV t (opRd w) (ofLanes ((lanes (regV k.v (opRs1 w))).zipIdx.map fun (x, i) =>
          toFmt f (convRnd k w round sat i) x)) s)
      else idle s
    | .toFp32 f =>
      if laneFormat f then step fun k w s =>
        tileNext t (tileV t (opRd w) (ofLanes ((lanes (regV k.v (opRs1 w))).zipIdx.map fun (x, i) =>
          fromFmt f (convRnd k w round sat i) (x % 2 ^ elemBits f))) s)
      else idle s
    | .toMx f => match fmtOf f with
      | none => idle s
      | some fm =>
        if isMx f then step fun k w s =>
          let xs := (lanes (regV k.v (opRs1 w)) ++ lanes (regV k.v ((opRs1 w + 1) % 32))).map fp32.value
          let b := mxEncode fm (convRnd k w round sat) sat xs
          tileNext t (tileV t (opRd w) (leNat (packRow f b.2) + fld b.1 256 8) s)
        else idle s
    | .xfToFp32 => step fun k w s =>
        let i := regX k.x (opRs1 w)
        if lbSize < i + 128 then tileFault t 2 s
        else
          let v := fp32.encode (convRnd k w round sat 0) (xfOf (lbRead k i 128)).denote
          tileNext t (tileV t (opRd w) (ofLanes ((lanes (regV k.v (opRd w))).set 0 v)) s)
    | .fp32ToXf => step fun k w s =>
        let i := regX k.x (opRs1 w)
        if lbSize < i + 128 then tileFault t 2 s
        else tileNext t (lbWrite t i (xfOfNum (fp32.value (nth (lanes (regV k.v (opRd w))) 0))).bytes s)

/-- Local-buffer addresses of the 16 lanes. -/
def lbLanes (k : Tile) (w : Nat) : LbMode → List Nat
  | .strided st => (List.range 16).map fun i => regX k.x (opRs1 w) + i * st
  | .indexed => (lanes (regV k.v (opRs2 w))).map fun x => regX k.x (opRs1 w) + x

/-- TILE_LB_VECTOR: 16 lanes, strided or indexed; lanes are stored in ascending order. -/
def execTileLbVector (t : Nat) (store : Bool) (mode : LbMode) (s : State) : Host.Outcome State Fault Refusal :=
  tileStep t 0x18 0x1B s fun w s =>
    let k := tileOf s t
    let as := lbLanes k w mode
    if as.any fun a => decide (lbSize < a + 4) then tileFault t 2 s
    else if store then
      tileNext t ((as.zip (lanes (regV k.v (opRd w)))).foldl (fun s (a, v) => lbWrite t a (natLE 4 v) s) s)
    else tileNext t (tileV t (opRd w) (ofLanes (as.map fun a => leNat (lbRead k a 4))) s)

/-! ### The L1 (R250) -/

/-- Set of a line. -/
def l1Set (line : Nat) : Nat := line / 128 % 512

/-- A line that a tile holds. -/
def l1Find (k : Tile) (line : Nat) : Option L1Line := k.l1.find? fun l => l.addr == line

/-- The tree walk of eight ways: the pointed subtree at each node. -/
def l1Walk (b : Nat) : Nat → Nat → Nat
  | 0, node => node - 8
  | d + 1, node => l1Walk b d (2 * node + if bitB b (node - 1) then 1 else 0)

/-- Tree bits after an access to a way. -/
def l1Touch (b way : Nat) : Nat :=
  (List.range 3).foldl (fun b d =>
    let child := (8 + way) / 2 ^ d
    let node := child / 2
    b - (if bitB b (node - 1) then 2 ^ (node - 1) else 0) + if child % 2 = 0 then 2 ^ (node - 1) else 0) b

/-- The way that a new line takes: an empty one first, else the tree's victim. -/
def l1Way (k : Tile) (line : Nat) : Nat :=
  let used := (k.l1.filter fun l => l1Set l.addr == l1Set line).map (·.way)
  match (List.range 8).find? fun w => !used.contains w with
  | some w => w
  | none => l1Walk (Tab.get 0 k.plru (l1Set line)) 3 1

/-- A line put in a tile's L1, its victim written back first; whether the victim was refused. -/
def l1Put (t : Nat) (l : L1Line) (rd : Remote) (s : State) : State × Bool :=
  let k := tileOf s t
  let way := match l1Find k l.addr with | some x => x.way | none => l1Way k l.addr
  let victim := k.l1.find? fun x => l1Set x.addr == l1Set l.addr && x.way == way && x.addr != l.addr
  let r := match victim with | some v => l1WriteBack t v (some rd) s | none => (s, false)
  let keep (x : L1Line) : Bool := !(l1Set x.addr == l1Set l.addr && x.way == way)
  (setTile t (fun k => { k with l1 := k.l1.filter keep ++ [{ l with way := way }]
                                plru := Tab.upd 0 k.plru (l1Set l.addr) fun b => l1Touch b way }) r.1, r.2)

/-- Bit mask of the bytes [o, o + n) of a line. -/
def byteMask (o n : Nat) : Nat := (2 ^ n - 1) * 2 ^ o

/-- A line filled under what the tile holds of it, the status of its sectors kept with it (R480): the line, and whether the
access was refused. `need` names the bytes wanted. -/
def l1Fill (t line need : Nat) (rd : Remote) (s : State) : State × L1Line × Bool :=
  let old := (l1Find (tileOf s t) line).getD { addr := line, way := 0, data := zeros 128, held := 0, dirty := 0 }
  if need &&& old.held = need then (tally 1 t 4 1 s, old, false)
  else
    let r := podRead (.tile t) line 128 rd (tally 1 t (if isLocal s line then 6 else 7) 1 (tally 1 t 5 1 s))
    let poison := (List.range 4).foldl (fun n i =>
      n + if (podRead (.tile t) (line + 32 * i) 32 rd s).2.poison && old.held / 2 ^ (32 * i) % 2 ^ 32 != 2 ^ 32 - 1 then 2 ^ i
        else 0) 0
    let data := (List.range 128).map fun i => if bitB old.held i then old.data.getD i 0 else r.2.data.getD i 0
    (r.1, { old with data := data, held := 2 ^ 128 - 1, poison := poison }, r.2.reason != 0)

/-- The sectors in which a mask has bytes. -/
def byteSectors (m : Nat) : Nat := (List.range 4).foldl (fun n i => n + if m / 2 ^ (32 * i) % 2 ^ 32 ≠ 0 then 2 ^ i else 0) 0

/-- The sectors that a mask covers whole. -/
def wholeSectors (m : Nat) : Nat :=
  (List.range 4).foldl (fun n i => n + if m / 2 ^ (32 * i) % 2 ^ 32 = 2 ^ 32 - 1 then 2 ^ i else 0) 0

/-- One line's part of a load: its bytes, or the cause of a fault (3 refused, 4 a poisoned sector, in a line held before too:
R483). -/
def l1Load (t line o n : Nat) (rd : Remote) (s : State) : State × Bytes × Nat :=
  let r := l1Fill t line (byteMask o n) rd s
  if r.2.2 then (r.1, [], 3)
  else
    let p := l1Put t r.2.1 rd r.1
    (p.1, slice r.2.1.data o n, if p.2 then 3 else if r.2.1.poison &&& byteSectors (byteMask o n) ≠ 0 then 4 else 0)

/-- One line's part of a store, kept in the L1, where it covers a poisoned sector whole in its stead (R257); the cause of a fault
of its victim's write-back. -/
def l1Store (t line o : Nat) (bs : Bytes) (rd : Remote) (s : State) : State × Nat :=
  let hit := (l1Find (tileOf s t) line).isSome
  let old := (l1Find (tileOf s t) line).getD { addr := line, way := 0, data := zeros 128, held := 0, dirty := 0 }
  let m := byteMask o bs.length
  let still := old.poison - (old.poison &&& wholeSectors (old.dirty ||| m))
  let data := overlay old.data o (bs.map some)
  let p := l1Put t { old with data := data, held := old.held ||| m, dirty := old.dirty ||| m, poison := still } rd
    (tally 1 t (if hit then 4 else 5) 1 s)
  (p.1, if p.2 then 3 else 0)

/-- The parts of a range of pod global addresses by line: line, offset, count. -/
def lineParts (a n : Nat) : List (Nat × Nat × Nat) :=
  (lineRange a n).map fun line =>
    let o := if line < a then a - line else 0
    (line, o, min 128 (a + n - line) - o)

/-- The bytes of a transfer between memory at `a` and the local buffer at `i`, line by line up to the first that faults;
the cause of the fault, 0 for none. -/
def moveLines (t : Nat) (store : Bool) (a i len : Nat) (rd : Remote) (s : State) : State × Nat :=
  (lineParts a len).foldl (fun (acc : State × Nat) (line, o, n) =>
    if acc.2 ≠ 0 then acc
    else
      let j := i + (line + o - a)
      if store then l1Store t line o (lbRead (tileOf acc.1 t) j n) rd acc.1
      else
        let l := l1Load t line o n rd acc.1
        (if l.2.2 = 0 then lbWrite t j l.2.1 l.1 else l.1, l.2.2)) (s, 0)

/-- TILE_MEMORY_TRANSFER: `len` bytes between the memory at rs1 and the local buffer at rd, line by line. The address is
bits [53:0] of rs1; that the bits above them are ignored is a DESIGN CHOICE (log 160). -/
def execTileMemoryTransfer (t : Nat) (store : Bool) (len : Nat) (rd : Remote) (s : State) :
    Host.Outcome State Fault Refusal :=
  heldRow s fun s =>
  tileStep t 0x1C 0x1F s fun w s =>
    let k := tileOf s t
    let a := regX k.x (opRs1 w) % 2 ^ 54
    let i := regX k.x (opRd w)
    if lbSize < i + len then tileFault t 2 s
    else
      let r := moveLines t store a i len rd s
      if r.2 ≠ 0 then tileFault t r.2 r.1 else tileNext t r.1

/-- The sectors of a line that an add-to-line changes: all of them under XF640, else those of the elements in its mask. -/
def addSectors (code mask : Nat) : Nat :=
  let w := (addWidth code).getD 128
  if w = 128 then (if bitB mask 0 then 15 else 0)
  else (List.range 4).foldl (fun n i => n + if (List.range (32 / w)).any fun k => bitB mask (32 / w * i + k) then 2 ^ i else 0) 0

/-- TILE_ADD_TO_LINE: the operand line lies in the local buffer at rd, the target at rs1. A dirty copy is written back and
dropped first (R253); a refused code or access faults (R262). After a residue mismatch what the tile adds is poison: the
sectors are stamped at a home of this module, and nothing is sent to another (R99, log 34). The target is the line that holds bits [53:0] of rs1; that its
low 7 bits and the bits above 53 are ignored is a DESIGN CHOICE (log 160). -/
def execTileAddToLine (t code mask : Nat) (rd : Remote) (s : State) : Host.Outcome State Fault Refusal :=
  heldRow s fun s =>
  tileStep t 0x1C 0x1F s fun w s =>
    let k := tileOf s t
    let line := regX k.x (opRs1 w) % 2 ^ 54 / 128 * 128
    let i := regX k.x (opRd w)
    if lbSize < i + 128 then tileFault t 2 s
    else if (addWidth code).isNone then tileFault t 3 s
    else
      let operand := lbRead k i 128
      let r := match l1Find k line with
        | some l =>
          if l.dirty = 0 then (s, false)
          else
            let b := l1WriteBack t l (some rd) s
            (setTile t (fun k => { k with l1 := k.l1.filter fun x => x.addr != line }) b.1, b.2)
        | none => (s, false)
      let sectors := addSectors code mask
      let s := noteWrote t line sectors (tally 1 t 8 1 r.1)
      if r.2 then tileFault t 3 s
      else if isLocal s line then
        let q := homeAdd (.tile t) (podOffset line) code mask operand (tally 1 t 6 1 s)
        let s := if tileBad s t then (homeWrite (.tile t) (podOffset line) (List.replicate 128 none) sectors q.1).1 else q.1
        if q.2 = .ok then tileNext t s else tileFault t 3 s
      else if tileBad s t then tileNext t s
      else
        let q := exchange 3 (podDevice line) 1 (0x1000 + t) code (podOffset line) 128 (some mask) operand (blockStatus rd line 128)
          (tally 1 t 7 1 s)
        if q.2 = 0 then tileNext t q.1 else tileFault t 3 q.1

/-- FENCE: the dirty lines are written back; it ends once the tile's writes and add-to-lines, these among them, have been
acknowledged, remote ones included (R252, R345), and waits at the instruction until then. -/
def execFence (t : Nat) (rd : Remote) (s : State) : Host.Outcome State Fault Refusal :=
  heldRow s fun s =>
    let m := opMajor (tileWord s t)
    if tileRuns s t && decide (0x1C ≤ m) && decide (m ≤ 0x1F) then
      let r := fenceTile t (some rd) s
      .next (if r.2 then tileFault t 3 (tally 1 t 11 1 r.1)
        else if fencing r.1 t then r.1 else tileNext t (tally 1 t 11 1 r.1))
    else idle s

/-- The fence at the end of a tile program: a tile whose last stores are refused faults then (R95, R252). -/
def fenceAll (op : Op) (rd : Remote) (s : State) : State × Bool :=
  op.tiles.foldl (fun (acc : State × Bool) (t, _) =>
    let r := fenceTile t (some rd) acc.1
    (if r.2 then tileFault t 3 r.1 else r.1, acc.2 || r.2)) (s, false)

/-! ### Control of the tile -/

/-- SYNC: the tile waits at the barrier (R286); it does not fence. -/
def execSync (t : Nat) (s : State) : Host.Outcome State Fault Refusal :=
  tileStep t 0x20 0x20 s fun _ s => tileArrives t .atSync (tileNext t s)

/-- TILE_IDENT: tile index, width, pace, timebase. -/
def execTileIdent (t which : Nat) (s : State) : Host.Outcome State Fault Refusal :=
  if 3 < which then idle s
  else
    tileStep t 0x21 0x21 s fun w s =>
      let v := match which with
        | 0 => t
        | 1 => (Tab.get {} s.tiles.stat t).width
        | 2 => (Tab.get {} s.pace.mons (4 * (t / 64) + t % 16 / 4)).pace
        | _ => now s
      tileNext t (tileX t (opRd w) v s)

/-- TILE_HALT: the end of the tile's share (R93). -/
def execTileHalt (t : Nat) (s : State) : Host.Outcome State Fault Refusal :=
  tileStep t 0x3F 0x3F s fun _ s => setTile t (fun k => { k with state := .halted }) s

end Sys2Proof.Machine
end

