-- ==== Sys2Proof/Machine/Work.lean ====
section
/-! DEFINITION. Tasks and their submissions (R87-R90, R393, R394), the choice of the next work (R301, R398), the dispatch
of an operation (R81-R83, R93, R294), its barriers (R85, R160, R286), its end and what completes with it (R82, R154,
R396), and a residue mismatch (R99). -/

namespace Sys2Proof.Machine

/-! ### TASK_DEFINE and TASK_ENABLE -/

/-- A task has a window, a batch or running work, or an enabled class or an instance names it. -/
def taskBusy (s : State) (i : Nat) : Bool :=
  s.sched.windows.any (fun w => w.task == i) || s.sched.ready.any (fun b => b.task == i)
    || s.sched.running.any (fun r => r.task == i)
    || s.obj.classes.any fun (_, c) => match c with | some c => c.task == i && (c.enabled || c.cur.isSome) | none => false

/-- Check of TASK_DEFINE (R76, R87, R390). -/
def checkTaskDefine (pl : Bytes) (s : State) : List Fail :=
  let id := field pl 0 2
  let compl := field pl 13 1
  reservedFail (pl.take 24) [(0, 16), (16, 1), (24, 8), (32, 16), (48, 8), (56, 8), (64, 32), (96, 8), (104, 8), (128, 54)]
    ++ failIf (id != 0xFFFF && decide (8192 ≤ id)) 0x0104 (some 0)
    ++ failIf (decide (3 < field pl 3 1)) 0x0104 (some 24)
    ++ failIf (field pl 4 2 == 0 || decide (4096 < field pl 4 2)) 0x0104 (some 32)
    ++ failIf (decide (64 < field pl 6 1)) 0x0104 (some 48)
    ++ failIf (field pl 7 1 != 0xFF && decide (7 < field pl 7 1)) 0x0104 (some 56)
    ++ failIf (decide (1000 < field pl 8 4)) 0x0104 (some 64)
    ++ failIf (field pl 12 1 != 0xFF && decide (16 < field pl 12 1)) 0x0104 (some 96)
    ++ failIf (compl != 0xFF && decide (63 < compl)) 0x0104 (some 104)
    ++ failIf (decide (compl ≤ 63) && (complOf s compl).isNone) 0x0107 (some 104)
    ++ failIf (field pl 16 8 % 128 != 0) 0x0105 (some 128)
    ++ failIf (!localRange s (field pl 16 8) (128 * field pl 4 2)) 0x0106 (some 128)
    ++ (if id = 0xFFFF then failIf (firstFree 8192 fun i => (taskOf s i).isSome).isNone 0x0201
        else failIf (match taskOf s id with | some t => t.enabled || taskBusy s id | none => false) 0x0303 (some 0))

/-- TASK_DEFINE: the task is defined disabled. -/
def execTaskDefine (o : Origin) (s : State) : Host.Outcome State Fault Refusal :=
  .next (command o 0x0030 checkTaskDefine (fun pl s =>
    let id := if field pl 0 2 = 0xFFFF then (firstFree 8192 fun i => (taskOf s i).isSome).getD 0 else field pl 0 2
    let orElse (v d : Nat) : Nat := if v = 0 then d else v
    let t : Task := {
      descs := field pl 16 8, count := field pl 4 2, gather := dget pl 16 1 == 1, rows := orElse (field pl 6 1) 64
      timerUs := orElse (field pl 8 4) 20, prio := field pl 3 1
      last := if field pl 7 1 = 0xFF then none else some (field pl 7 1)
      ways := if field pl 12 1 = 0xFF then 4 else field pl 12 1
      compl := if field pl 13 1 = 0xFF then none else some (field pl 13 1), enabled := false }
    answerOk o (natLE 2 id) { s with obj := { s.obj with tasks := setObj s.obj.tasks id (some t) } }) s)

/-- The state with a task changed. -/
def setTask (i : Nat) (f : Task → Task) (s : State) : State :=
  { s with obj := { s.obj with tasks := setObj s.obj.tasks i ((taskOf s i).map f) } }

/-- The failure that a list's unreadable element has. -/
def readFail (r : PodRead) : List Fail := failIf (r.reason != 0) r.reason ++ failIf (r.reason == 0 && r.poison) 0x0110

/-- The check of R81 and R152 over one descriptor, as memory holds it. -/
def descFails (s : State) (d : Bytes) (rd : Remote) : List Fail :=
  checkDesc d ++ (if dOp d = 3 then
    let p := (podRead .module (dExtBase d) 128 rd s).2
    if p.reason ≠ 0 ∨ p.poison then failIf (p.reason != 0) p.reason (some 896) ++ failIf (p.reason == 0) 0x0110 (some 896)
    else checkParam d (slice p.data 0 128) (attShape s d)
      ++ badAt ((obj s.obj.models (dModel d)).isSome && (attShape s d).isNone) 32
  else [])

/-- Check of TASK_ENABLE over every descriptor (R81, R267). -/
def checkTaskEnable (rd : Remote) (pl : Bytes) (s : State) : List Fail :=
  let id := field pl 0 2
  reservedFail (pl.take 3) [(0, 16), (16, 8)]
    ++ failIf (decide (8191 < id)) 0x0104 (some 0) ++ failIf (decide (1 < field pl 2 1)) 0x0104 (some 16)
    ++ (match taskOf s id with
        | none => failIf (decide (id < 8192)) 0x0107 (some 0)
        | some t =>
          failIf (aborting s id) 0x0303 (some 0) ++
          if field pl 2 1 = 1 then
            failIf (overBudget s t.ways) 0x0204
              ++ ((List.range t.count).map fun i =>
                let r := (podRead .module (t.descs + 128 * i) 128 rd s).2
                let fs := if readFail r = [] then descFails s (slice r.data 0 128) rd else readFail r
                fs.map fun f => { f with elem := some i }).flatten
          else [])

/-- A window leaves the open ones and becomes a ready batch (R88); `cause` for the trace, none when its task is disabled
(R90). -/
def closeWindow (task : Nat) (cause : Option Nat) (s : State) : State :=
  match s.sched.windows.find? fun w => w.task == task with
  | none => s
  | some w =>
    let rows := ((w.subs.filterMap (subOf s)).map fun u => u.rows.length).foldl (· + ·) 0
    let b : Batch := { task := task, subs := w.subs, open' := cause == some 2 || cause == some 3 }
    let s := { s with sched := { s.sched with
      windows := s.sched.windows.filter fun w => w.task != task, ready := s.sched.ready ++ [b] } }
    match cause with
    | some c => traceRec 0x03 0 (fld task 0 16 + fld rows 16 7 + fld c 24 2) s
    | none => s

/-- What the Cobbler reads for TASK_ENABLE with the bit set: the task's descriptors. -/
def enableReads (pl : Bytes) (s : State) : List (Nat × Nat) :=
  match taskOf s (field pl 0 2) with
  | some t => if field pl 2 1 = 1 then taskReads s t else []
  | none => []

/-- TASK_ENABLE; disabling closes the task's open window (R90). -/
def execTaskEnable (o : Origin) (rd : Remote) (s : State) : Host.Outcome State Fault Refusal :=
  .next (readingCommand o 0x0031 enableReads rd (checkTaskEnable rd) (fun pl s =>
    let id := field pl 0 2
    let on := field pl 2 1 == 1
    let s := setTask id (fun t => { t with enabled := on }) s
    answerOk o [] (if on then s else closeWindow id none s)) s)

/-! ### Submissions -/

/-- Fields of an intake entry (Table 14.8). -/
def subKind (e : Bytes) : Nat := dget e 0 4
def subCompl (e : Bytes) : Nat := dget e 8 8
def subObj (e : Bytes) : Nat := dget e 32 16
def subRows (e : Bytes) : Nat := dget e 48 7
def subTag (e : Bytes) : Nat := dget e 64 32
def subArg (e : Bytes) : Nat := dget e 96 32
def subAddr (e : Bytes) : Nat := dget e 128 54

/-- Checks that every kind of entry has (R393, R394). -/
def checkEntry (e : Bytes) (s : State) : List Fail :=
  let c := subCompl e
  reservedFail e [(0, 4), (8, 8), (32, 16), (48, 7), (64, 32), (96, 32), (128, 54)]
    ++ failIf (subKind e == 0 || decide (3 < subKind e)) 0x0104 (some 0)
    ++ failIf (decide (63 < c)) 0x0104 (some 8)
    ++ failIf (decide (c ≤ 63) && (complOf s c).isNone) 0x0107 (some 8)
    ++ failIf (match complOf s c with | some k => !k.enabled | none => false) 0x030B (some 8)

/-- The row list of an entry. -/
def rowList (e : Bytes) (rd : Remote) (s : State) : PodRead := (podRead .module (subAddr e) (128 * subRows e) rd s).2
def rowRecs (e : Bytes) (r : PodRead) : List RowRec := (List.range (subRows e)).map fun i =>
  let b := slice r.data (128 * i) 128
  { a := dget b 0 54, c := dget b 64 54, seqe := slice b 64 64 }

/-- What the Cobbler reads for an entry: the row list of a gathered submission and its task's descriptors, or the block of an
awl run. -/
def entryReads (e : Bytes) (s : State) : List (Nat × Nat) :=
  match subKind e with
  | 1 => match taskOf s (subObj e) with
    | some t => if t.gather && decide (subRows e ≤ 64) then [(subAddr e, 128 * subRows e), (t.descs, 128 * t.count)] else []
    | none => []
  | 3 => [(subAddr e, 128)]
  | _ => []

/-- Failures of a row list (R393): reserved bytes, and a sequence list entry in a task without ATTENTION. -/
def checkRows (e : Bytes) (t : Task) (rd : Remote) (s : State) : List Fail :=
  let r := rowList e rd s
  if r.reason ≠ 0 then failIf true r.reason (some 128)
  else if r.poison then failIf true 0x0110 (some 128)
  else
    let att := (taskDescs s t).any fun d => dOp d == 3
    failIf ((List.range (subRows e)).any fun i =>
      let b := slice r.data (128 * i) 128
      reservedFail b ([(0, 54), (64, 54)] ++ if att then [(512, 512)] else []) != []) 0x0103 (some 128)

/-- Checks of a task submission. -/
def checkSubmission (e : Bytes) (rd : Remote) (s : State) : List Fail :=
  let i := subObj e
  checkEntry e s ++ failIf (subArg e != 0) 0x0103 (some 96)
    ++ (match taskOf s i with
        | none => failIf (decide (8191 < i)) 0x0104 (some 32) ++ failIf (decide (i ≤ 8191)) 0x0107 (some 32)
        | some t =>
          failIf (!t.enabled) 0x030B (some 32)
            ++ failIf (s.obj.classes.any fun (_, c) => match c with | some c => c.enabled && c.task == i | none => false)
                0x0308 (some 32)
            ++ (if t.gather then
                  if subRows e = 0 ∨ 64 < subRows e then failIf true 0x0104 (some 48) else checkRows e t rd s
                else failIf (subRows e != 0) 0x0103 (some 48) ++ failIf (subAddr e != 0) 0x0103 (some 128)))

/-- Task submissions accepted and not completed are at their limit (R394). -/
def queueFull (s : State) : Bool := decide (65536 ≤ submissions s)

/-- Rows of submissions. -/
def rowsOf (s : State) (ids : List Nat) : Nat := ((ids.filterMap (subOf s)).map fun u => u.rows.length).foldl (· + ·) 0

/-- A submission put into its window or a ready batch (R88-R90). With an open window and a closed batch that still accepts,
it goes to the window: DESIGN CHOICE (log 162). -/
def placeSub (t : Task) (task id rows : Nat) (s : State) : State :=
  let own (s : State) : State :=
    { s with sched := { s.sched with ready := s.sched.ready ++ [{ task := task, subs := [id], open' := false }] } }
  let open' (s : State) : State :=
    let s := if s.sched.windows.length < 64 then s else
      match s.sched.windows.head? with | some w => closeWindow w.task (some 3) s | none => s
    let s := { s with sched := { s.sched with windows := s.sched.windows ++ [{ task := task, subs := [id] }] } }
    if rows = t.rows then closeWindow task (some 0) s else s
  if !t.gather || decide (t.rows < rows) then own s
  else match s.sched.windows.find? fun w => w.task == task with
    | some w =>
      if t.rows < rowsOf s w.subs + rows then open' (closeWindow task (some 1) s)
      else
        let full := rowsOf s w.subs + rows == t.rows
        let s := { s with sched := { s.sched with windows := s.sched.windows.map fun w =>
          if w.task == task then { w with subs := w.subs ++ [id] } else w } }
        if full then closeWindow task (some 0) s else s
    | none =>
      match s.sched.ready.findIdx? fun b => b.task == task && b.open' && decide (rowsOf s b.subs + rows ≤ t.rows) with
      | some i => { s with sched := { s.sched with ready := s.sched.ready.modify i fun b => { b with subs := b.subs ++ [id] } } }
      | none => open' s

/-- An entry accepted as outstanding work. -/
def acceptEntry (e : Bytes) (rows : List RowRec) (area : Option Nat) (s : State) : State :=
  let u : Sub := { id := s.sched.nextId, kind := subKind e, obj := subObj e, compl := subCompl e, tag := subTag e
                   arg := subArg e, addr := subAddr e, rows := rows, area := area }
  { s with sched := { s.sched with nextId := s.sched.nextId + 1, subs := s.sched.subs ++ [u] } }

/-- A task submission accepted (R87, R394). -/
def acceptSubmission (e : Bytes) (area : Option Nat) (rd : Remote) (s : State) : State :=
  match taskOf s (subObj e) with
  | none => s
  | some t =>
    let rows := if t.gather then rowRecs e (rowList e rd s) else []
    placeSub t (subObj e) s.sched.nextId rows.length (acceptEntry e rows area s)

/-- Check of TASK_SUBMIT. -/
def checkTaskSubmit (rd : Remote) (pl : Bytes) (s : State) : List Fail :=
  let e := slice pl 0 64
  (if subKind e = 1 then checkSubmission e rd s else failIf true 0x0104 (some 0))
    ++ failIf (queueFull s || decide (16 ≤ s.awls.queue.length)) 0x0203

/-- What the Cobbler reads for TASK_SUBMIT. -/
def submitReads (pl : Bytes) (s : State) : List (Nat × Nat) := entryReads (slice pl 0 64) s

/-- TASK_SUBMIT. -/
def execTaskSubmit (o : Origin) (rd : Remote) (s : State) : Host.Outcome State Fault Refusal :=
  .next (readingCommand o 0x0032 submitReads rd (checkTaskSubmit rd)
    (fun pl s => answerOk o [] (acceptSubmission (slice pl 0 64) none rd s)) s)

/-- GATHER_TIMER_EXPIRY: the window closes, and its batch keeps accepting (R88, R89). -/
def execGatherTimerExpiry (task : Nat) (s : State) : Host.Outcome State Fault Refusal := .next (closeWindow task (some 2) s)

/-! ### The end of work -/

/-- Answer of the TASK_ABORT that ended a piece of work. -/
def answerAbort (r : Running) (s : State) : State :=
  match r.abort with
  | some (o, n) => answerOk o (natLE 4 n) s
  | none => s

/-- A started piece of work ends: every submission of it has its own record, in acceptance order (R89, R484), an instance
its own (R302). Page walkers forget at a task boundary (R151). -/
def endWork (r : Running) (status reason tag detail : Nat) (s : State) : State :=
  let s := { s with sched := { s.sched with running := s.sched.running.filter fun x => !(x.subs == r.subs && x.cls == r.cls) } }
  let s := if s.sched.running.isEmpty then
      { s with tiles := { s.tiles with walk := [] } }
    else s
  let outcome (id : Nat) : Nat × Nat × Nat × Nat :=
    if status ≠ 1 then (status, reason, tag, detail)
    else match r.badSubs.find? fun b => b.1 == id with
      | some b => (3, b.2.1, b.2.2.1, b.2.2.2)
      | none => (if r.poison.contains id then 2 else 1, 0, 0, 0)
  let s := r.subs.foldl (fun s id =>
    let k := outcome id
    finishSub id (fun u => { kind := 1, status := k.1, reason := k.2.1, obj := u.obj, opTag := k.2.2.1, tag := u.tag
                             detail := k.2.2.2 }) s) s
  let s := match r.cls with
    | some i => let k := outcome 0; finishInstance i k.1 k.2.1 k.2.2.1 s
    | none => s
  answerAbort r s

/-- A waiting submission aborted (R90). -/
def abortWaiting (ids : List Nat) (s : State) : State :=
  let keep (l : List Nat) : List Nat := l.filter fun i => !ids.contains i
  let s := { s with sched := { s.sched with
    windows := (s.sched.windows.map fun w => { w with subs := keep w.subs }).filter fun w => !w.subs.isEmpty
    ready := (s.sched.ready.map fun b => { b with subs := keep b.subs }).filter fun b => !b.subs.isEmpty } }
  ids.foldl (fun s id => finishSub id (fun u => { kind := 1, status := 4, obj := u.obj, tag := u.tag }) s) s

/-- Tiles of a tile program stopped at their next instruction boundary (R95). -/
def stopTiles (s : State) : State :=
  { s with tiles := { s.tiles with tile := s.tiles.tile.map fun (t, k) =>
      (t, { k with state := if k.state = .running ∨ k.state = .atSync then .halted else k.state }) } }

/-- A submission that a TASK_ABORT names: every one, or those with its tag (R90). -/
def abortHits (s : State) (pl : Bytes) (id : Nat) : Bool :=
  match subOf s id with | some u => dget pl 16 1 == 1 || u.tag == field pl 4 4 | none => false

/-- TASK_ABORT run: waiting submissions at once; a running batch whole, at the end of its operation (R90, R95). -/
def runTaskAbort (o : Origin) (pl : Bytes) (s : State) : State :=
  let task := field pl 0 2
  let hit := abortHits s pl
  let waiting := ((s.sched.windows.filter fun w => w.task == task).map (·.subs)).flatten
    ++ ((s.sched.ready.filter fun b => b.task == task).map (·.subs)).flatten
  let gone := waiting.filter hit
  let run := s.sched.running.find? fun r => r.task == task && r.cls.isNone && r.abort.isNone && r.subs.any hit
  let s := abortWaiting gone s
  match run with
  | none => answerOk o (natLE 4 gone.length) s
  | some r =>
    let n := gone.length + r.subs.length
    let r' := { r with abort := some (o, n) }
    let s := { s with sched := { s.sched with running := s.sched.running.map fun x => if x = r then r' else x } }
    let s := begin' o s
    let busy := s.sched.op.isSome && (s.sched.running.head? == some r')
    if busy then (match s.sched.op with | some op => if dOp op.desc = 4 then stopTiles s else s | none => s)
    else endWork r' 4 0 0 0 s

/-- Check of TASK_ABORT. -/
def checkTaskAbort (pl : Bytes) (s : State) : List Fail :=
  reservedFail (pl.take 8) [(0, 16), (16, 1), (32, 32)] ++ failIf (decide (8191 < field pl 0 2)) 0x0104 (some 0)
    ++ failIf (decide (field pl 0 2 ≤ 8191) && (taskOf s (field pl 0 2)).isNone) 0x0107 (some 0)

/-- TASK_ABORT. -/
def execTaskAbort (o : Origin) (s : State) : Host.Outcome State Fault Refusal :=
  .next (command o 0x0033 checkTaskAbort (runTaskAbort o) s)

/-! ### The choice of the next work (R301, R398) -/

/-- Under LOCKSTEP, a task's Last can be used: it is named, registered and not stale (R294). -/
def usableLast (s : State) (task : Nat) : Option Nat :=
  match (taskOf s task).bind (·.last) with
  | some id => match Tab.get none s.obj.lasts id with
    | some l => if l.stale then none else some id
    | none => none
  | none => none

/-- Work of a task would need another Last than the installed one. -/
def needsInstall (s : State) (task : Nat) : Bool :=
  s.pace.net && match usableLast s task with | some id => s.obj.installed != some id | none => false

/-- Started work of a task, with no operation run. -/
def fresh (task : Nat) (subs : List Nat) (cls : Option Nat) : Running :=
  { task := task, subs := subs, cls := cls, next := 0, poison := [], abort := none, badSubs := [] }

/-- A batch may start: what its submissions depend on has completed, and their areas have room for their records (R395,
R397). -/
def batchReady (s : State) (b : Batch) : Bool :=
  let us := b.subs.filterMap (subOf s)
  us.all (depsDone s) && us.all fun u => match complOf s u.compl with
    | some c => decide (c.inUse + (us.filter fun v => v.compl == u.compl).length ≤ c.size)
    | none => false

/-- Released, unfinished instances by deadline and class: the deadline, the class, its task. -/
def instances (s : State) : List (Nat × Nat × Nat) :=
  s.obj.classes.filterMap fun (i, c) => match c with
    | some c => c.cur.map fun (_, r) => (r + c.budget, i, c.task)
    | none => none

/-- The instance that comes next: the earliest deadline, then the lowest class. One not yet started waits while a mode
change is pending, and for a task boundary when its Last must be installed (log 60). -/
def nextInstance (s : State) : Option (Nat × Nat × Nat) :=
  let started (i : Nat) : Bool := s.sched.running.any fun r => r.cls == some i
  let can := (instances s).filter fun (_, i, t) =>
    started i || (!modePending s && (s.sched.running.isEmpty || !needsInstall s t))
  can.foldl (fun best c => match best with
    | some b => if c.1 < b.1 then some c else some b
    | none => some c) none

/-- The ready batch that starts next: the lowest priority value, then the first ready. -/
def nextBatch (s : State) : Option Batch :=
  let prio (b : Batch) : Nat := match taskOf s b.task with | some t => t.prio | none => 0
  (s.sched.ready.filter (batchReady s)).foldl (fun best b => match best with
    | some x => if prio b < prio x then some b else some x
    | none => some b) none

/-- The work that supplies the next operation, and whether it has started. -/
def nextWork (s : State) : Option (Running × Bool) :=
  match nextInstance s with
  | some (_, i, t) => match s.sched.running.find? fun r => r.cls == some i with
    | some r => some (r, true)
    | none => some (fresh t [] (some i), false)
  | none => match s.sched.running.find? fun r => r.cls.isNone with
    | some r => some (r, true)
    | none => if modePending s then none else (nextBatch s).map fun b => (fresh b.task b.subs none, false)

/-- Work put at the head of the running list; a batch leaves the ready ones and its records are reserved (R397). -/
def takeWork (r : Running) (started : Bool) (s : State) : State :=
  let rest := s.sched.running.filter fun x => !(x == r)
  let s := { s with sched := { s.sched with running := r :: rest
                                            ready := if r.cls.isSome then s.sched.ready else
                                              s.sched.ready.filter fun b => !(b.subs == r.subs) } }
  if started then s else r.subs.foldl (fun s id => startSub id s) s

/-! ### Dispatch -/

/-- The image of a registered Last. -/
def lastImage (s : State) (id : Option Nat) : Bytes := match id.bind (Tab.get none s.obj.lasts) with
  | some l => l.image
  | none => []

/-- A discipline with its Last loaded into the network (Table 10.5, steps 4 to 6). Under LOCKSTEP with no Last the network
arbitrates as under BOUNDED (DESIGN CHOICE, log 165). -/
def loadDiscipline (lockstep : Bool) (id : Option Nat) (s : State) : State :=
  { s with pace := { s.pace with net := lockstep }, obj := { s.obj with installed := id }
           mesh := s.mesh.load (if lockstep then lastImage s id else []) }

/-- Steps 1 and 2 of Table 10.5: the L1s written back and invalidated, new injections held at the welts. -/
def holdMesh (s : State) : State :=
  let s := flushAllL1 s
  { s with mesh := { s.mesh with hold := true } }

/-- Step 6: injection goes on, a change of point that waited for this shows its point (R297), and the commands complete. -/
def endChange (s : State) : State :=
  let point := s.pace.pendPoint
  let net := s.pace.pendNet
  let s := if point.isSome then showPoint s else s
  let s := modeTrace { s with pace := { s.pace with pendNet := none }, mesh := { s.mesh with hold := false, loaded := none } }
  ((point.map (·.by')).toList ++ (net.map (·.by')).toList).foldl (fun s o => answerOk o [] s) s

/-- One move of Table 10.5 toward a discipline and a Last: the injections are held; once no message of REQ, RSP or BULK is on the
mesh the image is loaded; once every slot counter runs the change completes. With no image to load steps 4 and 5 are
skipped. -/
def changeNetwork (g : Bool × Option Nat) (s : State) : State :=
  match s.mesh.loaded with
  | some l =>
    if s.mesh.started then endChange { s with pace := { s.pace with net := l.1 }, obj := { s.obj with installed := l.2 } } else s
  | none =>
    let s := if s.mesh.hold then s else holdMesh s
    let image := if g.1 then lastImage s g.2 else []
    if meshEmpty s.mesh = false then s
    else if image.isEmpty then endChange (loadDiscipline g.1 g.2 s)
    else { s with mesh := { s.mesh.load image with loaded := some g } }

/-- The head of the running list changed. -/
def setHead (f : Running → Running) (s : State) : State :=
  { s with sched := { s.sched with running := match s.sched.running with | r :: rest => f r :: rest | [] => [] } }

/-- The rows that the submissions of a batch supply, in acceptance order. -/
def batchRows (s : State) (r : Running) : List RowRec := ((r.subs.filterMap (subOf s)).map (·.rows)).flatten

/-- Why a descriptor cannot start (R81), 0 for none. The check of TASK_ENABLE is repeated on the bytes that memory holds at
dispatch, so a descriptor changed since then ends its task with a reason of class 0x01: DESIGN CHOICE (log 161), R81 names
only the checks of MODEL_ID and B_BASE here. -/
def dispatchReason (s : State) (k : PodRead) (rd : Remote) : Nat :=
  let d := slice k.data 0 128
  match pickFail (readFail k ++ if readFail k = [] then descFails s d rd else []) with
  | some f => f.reason
  | none =>
    if dOp d ≠ 0 ∧ (obj s.obj.models (dModel d)).isNone then 0x0307
    else if (dOp d = 1 ∨ dOp d = 2) ∧ dHomed d ∧ (homedMatrix s d).isNone then 0x0307
    else 0

/-- The plan of an operation (R83); work without a split has none. -/
def opPlan (s : State) (d : Bytes) (m : Nat) : Plan :=
  if dOp d = 1 ∨ dOp d = 2 then
    if dHomed d then ((homedMatrix s d).bind (·.plan)).getD ⟨0, 0, []⟩
    else makePlan (included s) m (dN d) (dK d) (dSeg d) (dRed d != 0)
  else ⟨0, 0, []⟩

/-- Free contents of a tile's registers beyond x4 at the entry of a tile program (R93 names the first five). -/
def freeRegs (n : Nat) : Tab Nat := (List.range 27).foldl (fun x i => Tab.set 0 x (5 + i) (Config.freeWord (n + i)).toNat) []
def freeVecs (n : Nat) : Tab Nat := (List.range 32).foldl (fun v i =>
  Tab.set 0 v i ((List.range 8).foldl (fun w k => w + (Config.freeWord (n + 27 + 8 * i + k)).toNat * 2 ^ (64 * k)) 0)) []

/-- A tile as an operation finds it: its local buffer is free (R92); a tile program starts at offset 0 (R93). -/
def enterTile (d : Bytes) (n t ord salt : Nat) (k : Tile) : Tile :=
  let k := { k with lb := [], salt := salt, wrote := [] }
  if dOp d = 4 then
    let x := Tab.set 0 (Tab.set 0 (Tab.set 0 (Tab.set 0 (freeRegs salt) 1 t) 2 ord) 3 n) 4 (dExtArg d)
    { k with x := x, v := freeVecs salt, pc := 0, state := .running, loops := [] }
  else { k with state := .idle }

/-- Every included tile entered. -/
def enterTiles (d : Bytes) (tiles : List (Nat × Nat)) (prog : Bytes) (s : State) : State :=
  let n := tiles.length
  let tab := tiles.zipIdx.foldl (fun tab ((t, _), i) =>
    Tab.upd {} tab t (enterTile d n t i (s.fresh + t * 2 ^ 21))) s.tiles.tile
  let prog := if dOp d = 4 then prog else s.tiles.prog
  { s with tiles := { s.tiles with tile := tab, prog := prog }, fresh := s.fresh + 2 ^ 29 }

/-- Rows of an operation: M, or the batch's count in a gathered task, of which M is the maximum where the descriptor
gathers neither A nor C (R87, R152; the rows beyond it are left out, log 102). -/
def opM (d : Bytes) (rows : Option (List RowRec)) : Nat :=
  match rows with
  | none => dM d
  | some rs => if dOp d = 3 ∨ (dAGather d = false ∧ dCGather d = false) then min rs.length (dM d) else rs.length

/-- The array starts: one quarter at once when it comes from idle, no ramp within a turnaround (R71); work displaces the
ballast (R67). -/
def Pace.startArray (p : Pace) : Pace :=
  { p with ballast := false, ramp := 0, moved := 0, active := if p.active = 0 then min 1 p.actLevel else p.active }

/-- A descriptor broadcast on CTL (R284): counted, traced, the array started (R67, R71, R82). -/
def startOp (r : Running) (d : Bytes) (rows : Option (List RowRec)) (att : Option AttState) (prog : Bytes) (s : State) :
    State :=
  let m := opM d rows
  let plan := opPlan s d m
  let tiles := included s
  let op : Op := { desc := d, task := r.task, m := m, rows := rows.getD [], tiles := tiles, plan := plan, phase := 1
                   residue := [], badCells := [], att := att, prog := prog, error := none, start := now s }
  let s := enterTiles d tiles prog { s with
    sched := { s.sched with op := some op, lastTag := dTag d }, pace := s.pace.startArray }
  let s := meshCast 0 2 (tiles.foldl (fun s (t, _) => tally 1 t 0 1 s) (tally 9 0 2 1 s))
  traceRec 0x01 0 (fld (dTag d) 0 16 + fld (dOp d) 16 8 + fld r.task 24 16 + fld plan.gm 40 16 + fld plan.gk 56 16) s

/-- The entries of an ATTENTION whose buckets are still to run: those kept, or the list sorted now (R156). -/
def attEntries (r : Running) (d p : Bytes) (rows : Option (List RowRec)) (rd : Remote) (s : State) :
    State × List AttEntry :=
  if r.entries.isEmpty then
    let raw := rawEntries p rows rd s
    let es := readEntries d p raw.2 rd raw.1
    (logDuplicates d p es.2 es.1, (raw.2.zip es.2).map fun (w, e) =>
      { w with bucket := e.bucket, bad := if isDuplicate p es.2 e then some (0x010E, 0) else w.bad })
  else (s, r.entries)

/-- An ATTENTION dispatched: the entries of its lowest bucket. -/
def startAtt (r : Running) (d : Bytes) (rows : Option (List RowRec)) (rd : Remote) (s : State) : State :=
  let p := slice (podRead .module (dExtBase d) 128 rd s).2.data 0 128
  let rows := rows.map (·.take (dM d))
  let es := attEntries r d p rows rd s
  let b := (es.2.map (·.bucket)).foldl min (2 ^ 20)
  let now' := es.2.filter fun e => e.bucket == b
  let k := startAttention d p now' b rd es.1
  let s := setHead (fun r => { r with entries := es.2.filter fun e => e.bucket != b }) k.1
  startOp r d rows (some k.2) [] s

/-- A TILE_PROGRAM dispatched: its image broadcast on BULK and measured (R93, R285, R470). Its length is not in the descriptor: the whole
program memory is filled (log 54). -/
def startProgram (r : Running) (d : Bytes) (rows : Option (List RowRec)) (rd : Remote) (s : State) : State :=
  let k := podRead .module (dExtBase d) 65536 rd s
  match pickFail (readFail k.2) with
  | some f => endWork r 3 f.reason (dTag d) r.next k.1
  | none =>
    let prog := slice k.2.data 0 65536
    startOp r d rows none prog (meshCast 3 1024 (measure 1 (dTag d) prog k.1))

/-- The next operation of the work at the head (R81, R82, R87). -/
def broadcast (r : Running) (rd : Remote) (s : State) : State :=
  match taskOf s r.task with
  | none => endWork r 3 0x0107 0 r.next s
  | some t =>
    let k := podRead .module (t.descs + 128 * r.next) 128 rd s
    let d := slice k.2.data 0 128
    let s := readAhead (if dOp d = 3 then [(dExtBase d, 128)] else []) rd k.1
    let why := dispatchReason s k.2 rd
    if why ≠ 0 then endWork r 3 why (dTag d) r.next s
    else
      let rows := if t.gather then some (batchRows s r) else none
      match dOp d with
      | 3 => startAtt r d rows rd s
      | 4 => startProgram r d rows rd s
      | _ => startOp r d rows none [] s

/-- DISPATCH_OPERATION: at an operation boundary the dispatcher takes the next operation (R73, R82, R294, R301, R398). The
array holds at idle in THERMAL_HOLD (R436), and while a change of discipline holds the network (Table 10.5). Work that needs
another Last at a task boundary first moves the network toward it (R294). -/
def execDispatchOperation (rd : Remote) (s : State) : Host.Outcome State Fault Refusal :=
  heldRow s fun s =>
  if s.power.phase ≠ .up ∨ s.sched.op.isSome ∨ s.thermal.hold then idle s
  else match nextWork s with
    | none => idle s
    | some (r, started) =>
      let boundary := s.sched.running.isEmpty
      let t := takeWork r started s
      if !started && t.pace.net then
        match usableLast t r.task with
        | none => if s.mesh.hold then idle s else .next (endWork r 3 0x0306 0 0 t)
        | some id =>
          if boundary && t.obj.installed != some id then .next (changeNetwork (true, some id) s)
          else if s.mesh.hold then idle s
          else .next (broadcast r rd t)
      else if s.mesh.hold then idle s
      else .next (broadcast r rd t)

/-! ### Barriers -/

/-- Every tile's program has ended. -/
def programEnded (s : State) (op : Op) : Bool := op.tiles.all fun (t, _) => tileRun s t == .halted || tileRun s t == .faulted

/-- The barrier of SYNC is complete: every included tile has arrived (R95, R286). -/
def syncDone (s : State) (op : Op) : Bool :=
  (op.tiles.any fun (t, _) => tileRun s t == .atSync) && barrierDone (op.tiles.map (·.1)) (tileArrived s)

/-- The arrivals of every tile at a barrier of the array, in turn (R85, R160). -/
def arriveAll (tiles : List Nat) (s : State) : State :=
  tiles.zipIdx.foldl (fun s (t, i) => passArrival tiles (fun x => (tiles.take i).contains x) t s) s

/-- A barrier released (R286): the hub broadcasts the release as CTL. -/
def releaseBarrier (s : State) : State := meshCast 0 1 s

/-- A barrier of the array's own (R85, R160): its tiles arrive, and it is released. -/
def arrayBarrier (op : Op) (s : State) : State := releaseBarrier (arriveAll (op.tiles.map (·.1)) s)

/-- The endpoint that serves a tile's addition to a line: its home, or the port by which it leaves. -/
def addHome (s : State) (line : Nat) : Endpoint :=
  if isLocal s line then (locate s (podOffset line)).home
  else .group (((routePort s (podDevice line) (podOffset line / 128)).getD 0) / 4)

/-- A request of a tile is one whose order the Last fixes: it stays in its cluster, or has a flow (R288, R289). -/
def onSchedule (image : Bytes) (tile : Nat) (home : Endpoint) : Bool :=
  tileCluster tile == home.cluster || flowOf image (tileCluster tile) home.cluster 1 != 0

/-- A list with the members that a test holds for replaced, in turn, by those of another. -/
def refill {α : Type} (p : α → Bool) : List α → List α → List α
  | [], _ => []
  | t :: ts, q => if p t then q.headD t :: refill p ts (q.drop 1) else t :: refill p ts q

/-- The additions of phase 3 in the order in which they reach their homes: as the tiles come under BOUNDED; under LOCKSTEP with
a Last that is not stale the scheduled ones arrive in the order that its slot tables deliver, in every run the same (R290,
R295; log 174). -/
def arrivalOrder (s : State) (op : Op) (adds : List LineAdd) : List LineAdd :=
  let fixed := s.pace.net && match s.obj.installed.bind (Tab.get none s.obj.lasts) with | some l => !l.stale | none => false
  let on (a : LineAdd) : Bool := fixed && onSchedule s.mesh.image (worker op a.tile) (addHome s a.line)
  let mine := adds.filter on
  let took := lockstepOrder s.mesh.image (mine.map fun a => (.tile (worker op a.tile), addHome s a.line))
  refill on adds (took.filterMap fun i => mine[i]?)

/-- ARRAY_BARRIER_RELEASE: the next phase of a K-split, the next level of a merge tree, or SYNC (R85, R160, R286). `order`
is the order in which the tiles of phase 3 arrive where no Last fixes it. -/
def execArrayBarrierRelease (order : List Nat) (rd : Remote) (s : State) : Host.Outcome State Fault Refusal :=
  heldRow s fun s =>
  match s.sched.op with
  | none => idle s
  | some op =>
    if s.thermal.hold then idle s
    else match dOp op.desc, op.att with
      | 3, some a =>
        if itemsDone a && decide (a.level < treeLevels a) then
          .next (setOp (fun op => { op with att := some (mergeNext op.residue a) }) (arrayBarrier op s))
        else idle s
      | 4, _ =>
        if syncDone s op then
          let go (k : Tile) : Tile := { k with state := if k.state = .atSync then .running else k.state }
          let s := releaseBarrier s
          .next { s with tiles := { s.tiles with tile := s.tiles.tile.map fun (t, k) => (t, go k) } }
        else idle s
      | 0, _ => idle s
      | _, _ =>
        if isSplit op = false then idle s
        else match op.phase with
          | 1 =>
            let c := computePartials op s.pace.red rd s
            let op := { op with sums := c.2 }
            let r := storePartials op s.pace.red rd (arrayBarrier op c.1)
            .next (setOp (fun o => { o.fail r.2.1 with sums := c.2, phase := 2, badCells := o.badCells ++ r.2.2 }) r.1)
          | 2 =>
            let r := addPartials op s.pace.red (arrivalOrder s op (partialAdds op s.pace.red order)) rd (arrayBarrier op s)
            .next (setOp (fun op => { op.fail r.2.1 with phase := 3, badCells := op.badCells ++ r.2.2 }) r.1)
          | 3 => .next (setOp (fun op => { op with phase := 4 }) (arrayBarrier op s))
          | _ => idle s

/-- Sectors of lines of this module stamped as poison. -/
def poisonLines (lines : List (Nat × Nat)) (s : State) : State :=
  (lines.filter fun l => isLocal s l.1).foldl (fun s l =>
    (homeWrite .module (podOffset l.1) (List.replicate 128 none) l.2 s).1) s

/-- The results that a tile has given of the operation in progress become poison (R99): what it added in a K-split, the
lines that its program wrote, and the pages that its pipeline folded. -/
def spoilResults (tile : Nat) (op : Op) : Op :=
  { op with
    badCells := op.badCells ++ if isSplit op && decide (3 ≤ op.phase) then workedCells op tile else []
    att := op.att.map (poisonWorker tile) }

/-- ARRAY_RESIDUE: the tile's results are poison, and it is excluded from the next operation on (R99, R485). -/
def execArrayResidue (tile unit : Nat) (s : State) : Host.Outcome State Fault Refusal :=
  match s.sched.op with
  | none => idle s
  | some op =>
    if (op.tiles.any fun (t, _) => t == tile) = false ∨ op.residue.contains tile ∨ 132 ≤ unit ∨ dOp op.desc = 0
        ∨ op.ended.isSome then idle s
    else
      let s := setOp (fun op => spoilResults tile { op with residue := op.residue ++ [tile] }) s
      let s := poisonLines (tileOf s tile).wrote s
      let out (k : TileStat) : TileStat := { k with width := 0, excluded := true, runtime := true }
      let s := reconfigure (fun s => { s with tiles := { s.tiles with stat := Tab.upd {} s.tiles.stat tile out } }) s
      let s := logEvent 0x0103 (0x1000 + tile) (fld (dTag op.desc) 0 16 + fld unit 16 8) (setDegraded s)
      .next (addHint 2 tile 0 0 0 (0x1000 + tile) (degradedReport 0 s))

/-! ### The end of an operation -/

/-- Every included tile has finished. -/
def opDone (s : State) (op : Op) : Bool :=
  match dOp op.desc, op.att with
  | 0, _ => true
  | 3, some a => itemsDone a && a.level == treeLevels a
  | 4, _ => programEnded s op
  | _, _ => !isSplit op || op.phase == 4

/-- MACs of every share counted (Table 18.11). -/
def countMacs (op : Op) (s : State) : State :=
  (opShares op).foldl (fun s h =>
    tally 1 (worker op h.tile) 3 ((h.r1 - h.r0) * (h.c1 - h.c0) * (h.s1 - h.s0) * dSeg op.desc) s) s

/-- Scratch bytes of an ATTENTION. -/
def scratchBytes (a : AttState) : Nat := (a.entries.map fun e => match e.shape with
  | some h => leafCount a.param e * attRows a.param h * recordBytes h.dv
  | none => 0).foldl (· + ·) 0

/-- Results written (R82, R85, R105, R138). -/
def finishOp (op : Op) (rd : Remote) (s : State) : State × OpResult :=
  match dOp op.desc, op.att with
  | 1, _ | 2, _ =>
    let r := finishMatrix op s.pace.red rd s
    let s := r.2.counts.foldl (fun s (t, n) => tally 9 0 4 n (tally 1 t 10 n s)) r.1
    (countMacs op s, { reason := (op.error.getD 0), rows := r.2.rows } |> fun k =>
      if k.reason ≠ 0 then k else { k with reason := r.2.reason })
  | 3, some a =>
    let w := a.entries.foldl (fun (acc : State × OpResult) e =>
      let k := writeEntry op.desc a.param rd acc.1 e
      let res := acc.2
      (k.1, { reason := if res.reason ≠ 0 then res.reason else k.2.1
              rows := if k.2.2 = 0 then res.rows else res.rows ++ [e.index]
              failed := match e.bad with | some (reason, _) => res.failed ++ [(e.index, reason)] | none => res.failed })) (s, {})
    let c := a.entries.foldl (fun (acc : State × Nat) e =>
      let k := commitEntry a.param rd acc.1 e
      (k.1, if acc.2 = 0 then k.2 else acc.2)) (w.1, w.2.reason)
    (if aMode a.param = 2 then c.1 else spoil (aPart a.param) (scratchBytes a) c.1, { w.2 with reason := c.2 })
  | _, _ => (s, { reason := op.error.getD 0 })

/-- The submission that supplied a row or a list entry: by its rows in a gathered batch, else the only one; 0 for an
instance. -/
def ownerOf (s : State) (r : Running) (gather : Bool) (row : Nat) : Nat :=
  if gather then
    (r.subs.foldl (fun (acc : Nat × Option Nat) id =>
      let n := match subOf s id with | some u => u.rows.length | none => 0
      (acc.1 + n, if acc.2.isNone && decide (row < acc.1 + n) then some id else acc.2)) (0, none)).2.getD 0
  else r.subs.headD 0

/-- What the work remembers of an operation. -/
def noteResult (s : State) (r : Running) (gather : Bool) (tag : Nat) (k : OpResult) : Running :=
  let owners := (k.rows.map (ownerOf s r gather)).eraseDups
  let bad := k.failed.map fun (i, reason) => (ownerOf s r gather i, reason, tag, i)
  { r with poison := r.poison ++ owners.filter (fun i => !r.poison.contains i), badSubs := r.badSubs ++ bad }

/-- A tile of the operation has an access that its home has not acknowledged: its end, a fence of every tile, waits (R252). -/
def opUnacked (s : State) (op : Op) : Bool := op.tiles.any fun (t, _) => unacked s t

/-- A tile of the operation has yet to end its fence (R252). -/
def opFencing (s : State) (op : Op) : Bool := op.tiles.any fun (t, _) => fencing s t

/-- The results written and the tiles' lines written back (R82): what the operation left so far. Outputs are written once;
lines that a limit holds back follow (R260). -/
def writeResult (op : Op) (rd : Remote) (s : State) : State × OpResult :=
  let f := match op.ended with | some k => (s, k) | none => finishOp op rd s
  let e := if dOp op.desc = 4 then fenceAll op rd f.1 else (flushAllL1 f.1, false)
  (e.1, if e.2 && f.2.reason == 0 then { f.2 with reason := 0x030D } else f.2)

/-- The operation ends: trace, and what completes with it (R82, R396). -/
def completeOp (op : Op) (r : Running) (rest : List Running) (k : OpResult) (s : State) : State :=
  let gather := match taskOf s op.task with | some t => t.gather | none => false
  let steps := (Config.freeWord s.fresh).toNat % 2 ^ 32
  let s := { s with sched := { s.sched with op := none }, pace := { s.pace with ramp := 0 }, fresh := s.fresh + 1 }
  let s := traceRec 0x02 0 (fld (dTag op.desc) 0 16 + fld steps 32 32 + fld (b2n !k.rows.isEmpty) 64 1
    + fld (b2n (k.reason != 0 || !k.failed.isEmpty)) 65 1) s
  let r := noteResult s r gather (dTag op.desc) k
  let more := !r.entries.isEmpty
  let r := if more then r else { r with next := r.next + 1 }
  let s := { s with sched := { s.sched with running := r :: rest } }
  let count := match taskOf s op.task with | some t => t.count | none => 0
  if k.reason ≠ 0 then endWork r 3 k.reason (dTag op.desc) (if more then r.next else r.next - 1) s
  else if r.abort.isSome then endWork r 4 0 0 0 s
  else if !more && decide (count ≤ r.next) then endWork r 1 0 0 0 s
  else s

/-- OPERATION_END: the results are written; the operation ends once its tiles' fence has ended and every output write is
acknowledged, and waits until then (R82, R252). -/
def execOperationEnd (rd : Remote) (s : State) : Host.Outcome State Fault Refusal :=
  heldRow s fun s =>
  match s.sched.op, s.sched.running with
  | some op, r :: rest =>
    if s.thermal.hold ∨ opDone s op = false ∨ (op.ended = none ∧ opUnacked s op) then idle s
    else
      let w := writeResult op rd s
      .next (if opFencing w.1 op then setOp (fun op => { op with ended := some w.2 }) w.1 else completeOp op r rest w.2 w.1)
  | _, _ => idle s

end Sys2Proof.Machine
end

