-- ==== Sys2Proof/Machine/Lasts.lean ====
section
/-! DEFINITION. Lasts and the network discipline: the check and registration of a Last image (R291-R293), its removal
(R292), and the changes of the discipline, of the installed Last and of the operating point at a task boundary (R62, R294,
R296, R297, Tables 2.7 and 10.5). -/

namespace Sys2Proof.Machine

/-! ### The check of an image (R292) -/

/-- The header breaks Table 10.4. -/
def badHeader (b : Bytes) : Bool :=
  field b 0 2 != 1 || lastSlots b == 0 || lastSlots b % 16 != 0 || decide (4096 < lastSlots b) || lastFlows b == 0
    || decide (511 < lastFlows b) || lastLen b != 1664 + 128 * lastSlots b || field b 24 104 != 0

/-- An entry of a slot table breaks R292. -/
def badSlot (router flows slot e : Nat) : Bool :=
  bits e 63 60 != 0 || (slot % 16 == 15 && e != 0)
    || (List.range 5).any fun o =>
      let i := entryInput e o
      decide (5 < i) || decide (flows < entryFlow e o) || (i != 0 && (!hasPort router o || !hasPort router (i - 1)))
        || (i == 0 && entryFlow e o != 0 && !hasPort router o)

/-- The hops of the dimension-order path (R281): router, input, output. The first fuel counts the routers. -/
def flowPath (dst : Nat) : Nat → Nat → Nat → List (Nat × Nat × Nat)
  | 0, _, _ => []
  | n + 1, router, input =>
    if router % 4 < dst % 4 then (router, input, 1) :: flowPath dst n (router + 1) 4
    else if dst % 4 < router % 4 then (router, input, 3) :: flowPath dst n (router - 1) 2
    else if router / 4 < dst / 4 then (router, input, 2) :: flowPath dst n (router + 4) 1
    else if dst / 4 < router / 4 then (router, input, 0) :: flowPath dst n (router - 4) 3
    else [(router, input, 4)]

/-- Every router of a flow's path forwards it in some slot. A flow within one cluster never enters the mesh (R276) and
has no path. -/
def flowServed (tables : List (List Nat)) (src dst f : Nat) : Bool :=
  src == dst || (flowPath dst 7 src 5).all fun (r, i, o) =>
    (tables.getD r []).any fun e => entryInput e o == i && entryFlow e o == f

/-- The image breaks R292. -/
def badLast (b : Bytes) : Bool :=
  let tables := (List.range 16).map (slotTable b)
  let map := flowMap b
  badHeader b || crc32 (b.drop 128) != lastCrc b
    || map.any (fun e => decide (lastFlows b < e % 512) || e / 512 != 0)
    || tables.zipIdx.any (fun (t, r) => t.zipIdx.any fun (e, slot) => badSlot r (lastFlows b) slot e)
    || map.zipIdx.any fun (e, k) => e % 512 != 0 && !flowServed tables (k / 48) (k / 3 % 16) (e % 512)

/-! ### Load and unload (R292) -/

/-- The image at an address, when its header gives a length that a Last can have; what cannot be read is judged by the
run. -/
def readLast (a : Nat) (rd : Remote) (s : State) : PodRead :=
  let h := (podRead .module a 128 rd s).2
  let b := slice h.data 0 128
  if h.reason ≠ 0 ∨ h.poison ∨ badHeader b then { h with data := b } else (podRead .module a (lastLen b) rd s).2

/-- What the Cobbler reads for it: the header, then the rest. -/
def lastReads (rd : Remote) (pl : Bytes) (s : State) : List (Nat × Nat) :=
  let a := field pl 8 8
  let n := (readLast a rd s).data.length
  (a, 128) :: if 128 < n then [(a + 128, n - 128)] else []

/-- Check of the load form. -/
def checkLastLoad (rd : Remote) (pl : Bytes) (s : State) : List Fail :=
  let a := field pl 8 8
  let k := readLast a rd s
  reservedFail (pl.take 16) [(0, 8), (64, 54)]
    ++ failIf (a % 128 != 0) 0x0105 (some 64) ++ failIf (!podRange s a 128) 0x0106 (some 64)
    ++ (if podRange s a 128 && k.reason == 0 && !k.poison then
          failIf (badLast k.data) 0x010A (some 64) ++ failIf (lastPrint k.data != fingerprint s) 0x0306 (some 64)
        else [])
    ++ failIf (firstFree 8 fun i => (obj s.obj.lasts i).isSome).isNone 0x0201

/-- The load form run: the image is measured and registered. -/
def runLastLoad (o : Origin) (rd : Remote) (pl : Bytes) (s : State) : State :=
  let a := field pl 8 8
  let k := readLast a rd s
  match pickFail (readFail k) with
  | some f => fail o f s
  | none =>
    let b := k.data
    let id := (firstFree 8 fun i => (obj s.obj.lasts i).isSome).getD 0
    let l : LastInfo := { addr := a, slots := lastSlots b, flows := lastFlows b, tag := lastTag b, fp := lastPrint b
                          len := lastLen b, image := b }
    let s := measure 3 (lastTag b) b s
    answerOk o (natLE 1 id) { s with obj := { s.obj with lasts := setObj s.obj.lasts id (some l) } }

/-- SET_NETWORK_MODE, the load form. -/
def execSetNetworkModeLoad (o : Origin) (rd : Remote) (s : State) : Host.Outcome State Fault Refusal :=
  match accepted s o 0x0011 with
  | some a =>
    if field a.payload 0 1 = 1 then .next (readingCommand o 0x0011 (lastReads rd) rd (checkLastLoad rd) (runLastLoad o rd) s)
    else idle s
  | none => idle s

/-- An enabled task, or the task of an enabled class, names a Last. -/
def lastNamed (s : State) (id : Nat) : Bool :=
  (s.obj.tasks.any fun (_, t) => match t with | some t => t.enabled && t.last == some id | none => false)
    || s.obj.classes.any fun (_, c) => match c with
      | some c => c.enabled && ((taskOf s c.task).bind (·.last)) == some id
      | none => false

/-- Check of the unload form. -/
def checkLastUnload (pl : Bytes) (s : State) : List Fail :=
  let id := field pl 2 1
  reservedFail (pl.take 16) [(0, 8), (16, 8)] ++ failIf (decide (7 < id)) 0x0104 (some 16)
    ++ failIf (decide (id ≤ 7) && (obj s.obj.lasts id).isNone) 0x0107 (some 16)
    ++ failIf (s.obj.installed == some id || lastNamed s id) 0x0303 (some 16)

/-- SET_NETWORK_MODE, the unload form. -/
def execSetNetworkModeUnload (o : Origin) (s : State) : Host.Outcome State Fault Refusal :=
  match accepted s o 0x0011 with
  | some a =>
    if field a.payload 0 1 = 2 then
      .next (command o 0x0011 checkLastUnload (fun pl s =>
        answerOk o [] { s with obj := { s.obj with lasts := setObj s.obj.lasts (field pl 2 1) none } }) s)
    else idle s
  | none => idle s

/-! ### The change at a task boundary -/

/-- The Last that the work which comes next would need installed (R294). -/
def comingLast (s : State) : Option Nat :=
  match nextWork s with
  | some (r, false) => usableLast s r.task
  | _ => none

/-- The discipline and the Last that a change at this boundary would leave: under BOUNDED no Last is installed (log 36), under
LOCKSTEP that of the work which comes next. -/
def disciplineGoal (s : State) : Bool × Option Nat :=
  let calm (net : Bool) : State :=
    { s with pace := { s.pace with net := net, pendNet := none, pendPoint := none, pendRed := none, changing := 0 } }
  match s.pace.pendNet with
  | some c => (c.value, if c.value then comingLast (calm true) else none)
  | none => (s.pace.net, if s.pace.net then (comingLast (calm true)).orElse fun _ => s.obj.installed else none)

/-- DISCIPLINE_CHANGE: the pending discipline, or the Last that the next task names (R294, R296), by the moves of Table 10.5. A
change of point at the same boundary goes first, through its step 5 (R297). -/
def execDisciplineChange (s : State) : Host.Outcome State Fault Refusal :=
  if taskBoundary s = false ∨ (s.pace.pendPoint.isSome ∧ s.pace.changing ≠ 2) then idle s
  else
    let g := disciplineGoal s
    if g = (s.pace.net, s.obj.installed) ∧ s.mesh.loaded = none then
      if s.pace.pendNet.isNone ∧ s.pace.changing ≠ 2 ∧ s.mesh.hold = false then idle s else .next (endChange s)
    else .next (changeNetwork g s)

/-! ### The change of the operating point, with that of the network (R62, R297) -/

/-- A change of the network stands at the same boundary: of the discipline, or of the Last for the work that comes next (R294,
R297). -/
def networkChanges (s : State) : Bool :=
  s.pace.pendNet.isSome || disciplineGoal s != (s.pace.net, s.obj.installed)

/-- A change in progress goes on once its leaving ports have drained; with a change of the network at the same boundary it runs
through step 5, and the two complete together (R297). -/
def advancePoint (c : PendPoint) (s : State) : State :=
  if draining s then { s with pace := { s.pace with changing := 1 } }
  else if networkChanges s then
    let t := movePoint c.point s
    { t with pace := { t.pace with changing := 2 } }
  else completePoint c s

/-- OP_POINT_CHANGE: the pending change is judged again, and started or refused (R61, R62). While ports drain it is in
progress, and PORT_PARK of the last of them completes it; a change of the network completes it (R297). -/
def execOpPointChange (s : State) : Host.Outcome State Fault Refusal :=
  match s.pace.pendPoint with
  | none => idle s
  | some c =>
    if taskBoundary s = false ∨ s.pace.changing ≠ 0 then idle s
    else match pickFail (raiseFail s c.point) with
      | some f => .next (refuse c.by' f { s with pace := { s.pace with pendPoint := none } })
      | none => .next (advancePoint c (startPoint c.point c.mask s))

/-- PORT_PARK: a port that leaves the active set, drained of messages and held flits, parks (R329); with the last one
parked a change of point in progress goes on (Table 2.7, step 3). -/
def execPortPark (p : Nat) (s : State) : Host.Outcome State Fault Refusal :=
  if mayPark s p = false then idle s
  else
    let t := parkPort p (controlUnit (.group (p / 4)) s)
    match t.pace.pendPoint with
    | some c => if t.pace.changing = 1 then .next (advancePoint c t) else .next t
    | none => .next t

end Sys2Proof.Machine
end

