-- ==== Sys2Proof/Machine/Pods.lean ====
section
/-! DEFINITION. The pod record, the routing table, and the relay of commands between a head and its members (R343, R347,
R348, R352, Table 12.7). -/

namespace Sys2Proof.Machine

/-! ### POD_CONFIG -/

/-- The window record at an index of POD_CONFIG. -/
def winBytes (pl : Bytes) (i : Nat) : Bytes := slice pl (16 + 32 * i) 32

/-- A window record read (Table 12.4). -/
def readWin (b : Bytes) : Win :=
  { base := dget b 0 48, len := dget b 48 48, read := dget b 96 1 == 1, write := dget b 97 1 == 1, add := dget b 98 1 == 1
    devices := dget b 128 64 }

/-- A range includes control space or a side stack that is out of range (R343). -/
def badWindow (s : State) (w : Win) : Bool :=
  overlaps w.base w.len 0xFF0000000000 (2 ^ 48)
    || (List.range 12).any fun i => (sideOf s i).ledger && overlaps w.base w.len (sideBase + i * 2 ^ 37) (2 ^ 37)

/-- Failures of one window. -/
def checkWindow (s : State) (i : Nat) (b : Bytes) : List Fail :=
  let w := readWin b
  reservedFail b [(0, 48), (48, 48), (96, 3), (128, 64)] (some i)
    ++ failIf (w.base % 4096 != 0) 0x0105 (some 0) (some i) ++ failIf (w.len % 4096 != 0) 0x0105 (some 48) (some i)
    ++ failIf (badWindow s w) 0x010F (some 0) (some i)

/-- Check of POD_CONFIG. -/
def checkPodConfig (pl : Bytes) (s : State) : List Fail :=
  let n := field pl 6 1
  reservedFail (pl.take 16) [(0, 32), (32, 8), (40, 8), (48, 8), (64, 64)]
    ++ failIf (decide (63 < field pl 4 1)) 0x0104 (some 32) ++ failIf (decide (63 < field pl 5 1)) 0x0104 (some 40)
    ++ failIf (decide (16 < n)) 0x0104 (some 48)
    ++ ((List.range (min n 16)).map fun i => checkWindow s i (winBytes pl i)).flatten

/-- POD_CONFIG: the record is stored; its windows are in effect at once, the rest from the next stage 3 on (R347; the head
device too, log 63). -/
def execPodConfig (o : Origin) (s : State) : Host.Outcome State Fault Refusal :=
  .next (command o 0x0090 checkPodConfig (fun pl s =>
    let r : PodRec := {
      id := field pl 0 4, device := field pl 4 1, head := field pl 5 1, members := field pl 8 8
      windows := ((List.range (field pl 6 1)).map fun i => readWin (winBytes pl i)) }
    answerOk o [] { s with pod := { s.pod with stored := r, eff := { s.pod.eff with windows := r.windows } } }) s)

/-! ### ROUTE_SET -/

/-- The route record at an index of ROUTE_SET: device, then the entry of Table 12.5. -/
def routeBytes (pl : Bytes) (i : Nat) : Bytes := slice pl (8 + 24 * i) 24

/-- A route entry read. -/
def readRoute (b : Bytes) : Route :=
  { ports := dget b 64 32, next := dget b 96 6, valid := dget b 102 1 == 1, altPorts := dget b 104 32
    altNext := dget b 136 6, altValid := dget b 142 1 == 1 }

/-- Failures of one route record; an entry filled from HELLO cannot be overwritten (R348; the reason is log 64). -/
def checkRoute (s : State) (i : Nat) (b : Bytes) : List Fail :=
  let d := field b 0 1
  reservedFail b [(0, 8), (64, 40), (104, 39)] (some i) ++ failIf (decide (63 < d)) 0x0104 (some 0) (some i)
    ++ failIf (dget b 103 1 == 1) 0x010F (some 103) (some i)
    ++ failIf (Tab.get {} s.pod.routes d).auto 0x010F (some 0) (some i)

/-- Check of ROUTE_SET. -/
def checkRouteSet (pl : Bytes) (s : State) : List Fail :=
  let n := field pl 0 1
  reservedFail (pl.take 8) [(0, 8)] ++ failIf (n == 0 || decide (64 < n)) 0x0104 (some 0)
    ++ ((List.range (min n 64)).map fun i => checkRoute s i (routeBytes pl i)).flatten

/-- ROUTE_SET: the entries are written and stored with the pod record. -/
def execRouteSet (o : Origin) (s : State) : Host.Outcome State Fault Refusal :=
  .next (command o 0x0092 checkRouteSet (fun pl s =>
    let before := reachable s
    let put (t : Tab Route) : Tab Route := (List.range (field pl 0 1)).foldl (fun t i =>
      let b := routeBytes pl i
      Tab.set {} t (field b 0 1) (readRoute b)) t
    answerOk o [] (routeChanges before
      { s with pod := { s.pod with routes := put s.pod.routes, saved := put s.pod.saved } })) s)

/-! ### Relay (R352) -/

/-- Check of POD_SEND. -/
def checkPodSend (pl : Bytes) (s : State) : List Fail :=
  let d := field pl 0 1
  reservedFail (pl.take 8) [(0, 8)] ++ failIf (decide (63 < d)) 0x0104 (some 0)
    ++ failIf (decide (d ≤ 63) && !bitB s.pod.eff.members d) 0x0602 (some 0)
    ++ failIf (decide (3960 < field pl 20 2)) 0x0104 (some 160)
    ++ failIf (bitB s.pod.eff.members d && (routePorts s d).isEmpty) 0x0601 (some 0)

/-- POD_SEND: the command goes to the member as RELAY_CMD, and waits for its RELAY_RSP. -/
def execPodSend (o : Origin) (s : State) : Host.Outcome State Fault Refusal :=
  .next (command o 0x0091 checkPodSend (fun pl s =>
    let body := slice pl 8 (64 + field pl 20 2)
    let m := s.pod.mseq
    let s := begin' o { s with pod := { s.pod with mseq := (m + 1) % 2 ^ 16 } }
    sendRequest 6 (field pl 0 1) 0 0xB000 0 0 body.length (some (fld 2 0 16 + fld m 16 16)) body (.relay o m) s) s)

/-- A relayed command taken as if it had been posted in a slot of this module (R352, R383): its sequence number is not held
against the slots' table. -/
def takeRelay (m : MboxMsg) (s : State) : State :=
  let h := m.payload
  let o : Origin := .relay m.src m.seq
  let len := field h 12 2
  let a : Accepted := { origin := o, cmd := field h 4 2, seq := field h 8 4, irq := dget h 48 1 == 1
                        payload := slice h 64 (min len 4032), started := false, accepted := now s }
  if s.mail.accepted.any fun x => x.origin == o then s
  else if field h 2 2 ≠ field h 8 4 % 2 ^ 16 then
    answer o 2 0x010D (failReply ⟨0x010D, none, none⟩)
      { s with mail := { s.mail with accepted := s.mail.accepted ++ [a] } }
  else enlist a len s

/-- RELAY_CMD. -/
def execRelayCmd (s : State) : Host.Outcome State Fault Refusal := mailRow 2 takeRelay s

/-- A member's answer: POD_SEND is OK, and replies with what the member answered. -/
def takeRelayRsp (m : MboxMsg) (s : State) : State :=
  let mine (r : Request) : Option Origin := match r.why with
    | .relay o k => if k = m.seq ∧ r.dst = m.src then some o else none
    | _ => none
  match s.pod.reqs.findSome? mine with
  | none => s
  | some o =>
    answerOk o (m.payload.take 4032)
      { s with pod := { s.pod with reqs := s.pod.reqs.filter fun r => (mine r).isNone } }

/-- RELAY_RSP. -/
def execRelayRsp (s : State) : Host.Outcome State Fault Refusal := mailRow 3 takeRelayRsp s

end Sys2Proof.Machine
end

