-- ==== Sys2Proof/Machine/Regions.lean ====
section
/-! DEFINITION. Ranges of stack memory under a command: lending and its end (R235, R236, R238, R239), the request of an awl
run (R240), pins (R266-R268), the dead-fill and discards (R270-R272). -/

namespace Sys2Proof.Machine

/-- Failures of a range of stack memory at a field of a payload (R235, R266, R270): base and length in steps of `unit`. -/
def stackRangeFails (s : State) (pl : Bytes) (o unit : Nat) : List Fail :=
  let b := field pl o 8
  let a := podOffset b
  let n := field pl (o + 8) 8
  let cap := columnBytes * stackW s
  failIf (!isLocal s b || decide (cap ≤ a)) 0x0106 (some (8 * o)) ++ failIf (a % unit != 0) 0x0105 (some (8 * o))
    ++ failIf (n % unit != 0) 0x0105 (some (8 * o + 64)) ++ failIf (n == 0) 0x0104 (some (8 * o + 64))
    ++ failIf (decide (a < cap) && decide (cap < a + n)) 0x0106 (some (8 * o + 64))

/-- Bytes of one block: a line of every shank of the interleave. -/
def blockBytes (s : State) : Nat := stackW s * 128

/-- A line of the range has requests that wait for a fill, or at its shank: they were accepted before (Table 8.5, step 3). -/
def rangeBusy (s : State) (a n : Nat) : Bool :=
  let hit (m : Miss) : Bool := match lineOf s m.slice m.index with
    | some x => decide (a ≤ x) && decide (x < a + n)
    | none => false
  let held (h : HeldAccess) : Bool := decide (a ≤ h.addr) && decide (h.addr < a + n)
  s.cache.misses.any hit || s.cache.late.any hit || s.stack.shanks.any fun (_, k) => k.held.any held

/-- The lines of a slice that lie in a range. -/
def inRange (s : State) (a n : Nat) (slice : Nat) (v : L2Line) : Bool :=
  match lineOf s slice v.index with
  | some x => decide (a ≤ x) && decide (x < a + n)
  | none => false

/-! ### LEND and RETURN -/

/-- A region's record. -/
def lendOf (s : State) (id : Nat) : Option Lend := obj s.obj.lends id

/-- Check of LEND (R235, R386). -/
def checkLend (pl : Bytes) (s : State) : List Fail :=
  let a := podOffset (field pl 0 8)
  let n := field pl 8 8
  reservedFail (pl.take 16) [(0, 54), (64, 64)] ++ stackRangeFails s pl 0 (blockBytes s)
    ++ failIf (overLent s a n || overPin s a n || overDiscard s a n) 0x0304 (some 0)
    ++ failIf (firstFree 64 fun i => (lendOf s i).isSome).isNone 0x0201

/-- LEND: the region is claimed until the next operation boundary (Table 8.5, step 1). -/
def execLend (o : Origin) (s : State) : Host.Outcome State Fault Refusal :=
  .next (command o 0x0060 checkLend (fun pl s =>
    let id := (firstFree 64 fun i => (lendOf s i).isSome).getD 0
    let r : Lend := { base := podOffset (field pl 0 8), len := field pl 8 8, lent := false, by' := o }
    begin' o { s with obj := { s.obj with lends := setObj s.obj.lends id (some r) } }) s)

/-- An update of the slices' lend or discard tables, on CTL (Table 10.2). -/
def updateTables (s : State) : State := meshCast 0 1 s

/-- LEND_PROCEED: at an operation boundary L1s are written back, the slices enter the region, write its dirty lines back
and hold none of it, and LEND completes (Table 8.5, steps 2 to 5), once every one of these writes has reached its tier: while
one must wait at its shank the command does too. -/
def execLendProceed (region : Nat) (s : State) : Host.Outcome State Fault Refusal :=
  match lendOf s region with
  | none => idle s
  | some r =>
    if r.lent ∨ s.sched.op.isSome ∨ rangeBusy s r.base r.len then idle s
    else
      let t := flushAllL1 s
      let t := flushLines (inRange t r.base r.len) t
      if allFenced t = false ∨ rangeBusy t r.base r.len then idle s
      else
        let t := { t with obj := { t.obj with lends := setObj t.obj.lends region (some { r with lent := true, entered := true }) } }
        .next (answerOk r.by' (natLE 1 region) (updateTables t))

/-- A run that names a region is queued or running (R239). -/
def regionUsed (s : State) (id : Nat) : Bool :=
  (s.awls.queue.any fun q => field q.block 0 1 % 64 == id)
    || match s.awls.cur with | some r => field r.block 0 1 % 64 == id | none => false

/-- Check of RETURN. -/
def checkReturn (pl : Bytes) (s : State) : List Fail :=
  let id := field pl 0 1
  failIf (decide (63 < id)) 0x0104 (some 0)
    ++ (match lendOf s id with
        | some r => failIf (!r.lent || regionUsed s id) 0x0303 (some 0)
        | none => failIf (decide (id ≤ 63)) 0x0305 (some 0))

/-- RETURN: the slices clear the region from their lend tables. -/
def execReturnRegion (o : Origin) (s : State) : Host.Outcome State Fault Refusal :=
  .next (command o 0x0061 checkReturn (fun pl s =>
    answerOk o [] (updateTables { s with obj := { s.obj with lends := setObj s.obj.lends (field pl 0 1) none } })) s)

/-! ### AWL_RUN -/

/-- Failures of a run block as memory holds it (Table 8.7). -/
def badRunBlock (s : State) (b : Bytes) : Bool :=
  let prog := field b 4 2
  let arg := field b 6 2
  let res := dget b 192 54
  let budget := field b 32 4
  reservedFail b [(0, 6), (8, 8), (16, 1), (32, 16), (48, 16), (64, 54), (128, 54), (192, 54), (256, 32), (288, 32), (320, 16)]
      != []
    || field b 1 1 == 0 || prog == 0 || prog % 4 != 0 || decide (16384 < prog) || arg % 64 != 0 || decide (32768 < arg)
    || dget b 64 54 % 128 != 0 || dget b 128 54 % 128 != 0 || res % 128 != 0
    || (isLocal s res && overLent s (podOffset res) 32768) || budget == 0 || decide (10000000 < budget)

/-- Failures of a run named at an address; `bit` is the address field's place (R240). -/
def checkRun (a bit : Nat) (rd : Remote) (s : State) : List Fail :=
  if podRange s a 128 = false then failIf true 0x0106 (some bit)
  else
    let k := (podRead .module a 128 rd s).2
    let b := slice k.data 0 128
    if readFail k ≠ [] then (readFail k).map fun f => { f with bit := some bit }
    else
      failIf (badRunBlock s b) 0x010B (some bit)
        ++ failIf (match lendOf s (field b 0 1 % 64) with | some r => !r.lent | none => true) 0x0305 (some bit)

/-- The queue of runs is full (R240). -/
def runsFull (s : State) : Bool := decide (16 ≤ s.awls.queue.length)

/-- A run accepted: a work entry and its block in the queue. -/
def acceptRun (u : Sub) (rd : Remote) (s : State) : State :=
  let b := slice (podRead .module u.addr 128 rd s).2.data 0 128
  { s with
    sched := { s.sched with nextId := s.sched.nextId + 1, subs := s.sched.subs ++ [u] }
    awls := { s.awls with queue := s.awls.queue ++ [{ sub := u.id, block := b }] } }

/-- Failures of a completion area named at a field. -/
def areaFails (s : State) (c bit : Nat) : List Fail :=
  failIf (decide (63 < c)) 0x0104 (some bit) ++ failIf (decide (c ≤ 63) && (complOf s c).isNone) 0x0107 (some bit)
    ++ failIf (match complOf s c with | some k => !k.enabled | none => false) 0x030B (some bit)

/-- Check of AWL_RUN. -/
def checkAwlRun (rd : Remote) (pl : Bytes) (s : State) : List Fail :=
  reservedFail (pl.take 16) [(0, 54), (64, 8), (96, 32)] ++ checkRun (field pl 0 8) 0 rd s ++ areaFails s (field pl 8 1) 64
    ++ failIf (runsFull s) 0x0203

/-- What the Cobbler reads for AWL_RUN: the run's block. -/
def runReads (pl : Bytes) (_ : State) : List (Nat × Nat) := [(field pl 0 8, 128)]

/-- AWL_RUN. -/
def execAwlRun (o : Origin) (rd : Remote) (s : State) : Host.Outcome State Fault Refusal :=
  .next (readingCommand o 0x0062 runReads rd (checkAwlRun rd) (fun pl s =>
    let u : Sub := { id := s.sched.nextId, kind := 3, obj := 0, compl := field pl 8 1, tag := field pl 12 4, arg := 0
                     addr := field pl 0 8, rows := [], area := none }
    answerOk o [] (acceptRun u rd s)) s)

/-! ### Pins -/

/-- Lines of a range of stack memory. -/
def rangeLines (a n : Nat) : List Nat := (List.range (n / 128)).map fun i => a + 128 * i

/-- Most lines pinned in a set with one more pin. -/
def pinnedWith (s : State) (id a n : Nat) : Nat :=
  pinnedMax { s with obj := { s.obj with pins := setObj s.obj.pins id (some (a, n)) } }

/-- Check of PIN (R266, R238). -/
def checkPin (pl : Bytes) (s : State) : List Fail :=
  let a := podOffset (field pl 0 8)
  let n := field pl 8 8
  let id := firstFree 64 fun i => (obj s.obj.pins i).isSome
  reservedFail (pl.take 16) [(0, 54), (64, 64)] ++ stackRangeFails s pl 0 (blockBytes s)
    ++ failIf (overLent s a n || overPin s a n || overDiscard s a n) 0x0304 (some 0)
    ++ failIf id.isNone 0x0201 ++ failIf (decide (pinBudget s < pinnedWith s (id.getD 64) a n)) 0x0204

/-- One line made present and pinned. A line of a retired shank or a failed tier is lost (R177, R181). -/
def pinLine (s : State) (a : Nat) : State :=
  match locate s a with
  | .stack t l =>
    if placeLost s (.stack t l) then s
    else
      let f := fillLine t l a s
      allocate t l { f.2 with pinned := true } f.1
  | _ => s

/-- A command's control of every slice, on CTL (Table 10.2). -/
def controlSlices (s : State) : State := (List.range 256).foldl (fun s t => controlUnit (.slice t) s) s

/-- PIN: the ways are reserved, present lines pinned and the others filled. -/
def execPin (o : Origin) (s : State) : Host.Outcome State Fault Refusal :=
  heldRow s fun s =>
  .next (command o 0x0070 checkPin (fun pl s =>
    let a := podOffset (field pl 0 8)
    let n := field pl 8 8
    let id := (firstFree 64 fun i => (obj s.obj.pins i).isSome).getD 0
    let s := { s with obj := { s.obj with pins := setObj s.obj.pins id (some (a, n)) } }
    answerOk o (natLE 1 id) ((rangeLines a n).foldl pinLine (controlSlices s))) s)

/-- Check of UNPIN (R268, R238). -/
def checkUnpin (pl : Bytes) (s : State) : List Fail :=
  match obj s.obj.pins (field pl 0 1) with
  | none => failIf true 0x0107 (some 0)
  | some (a, n) => failIf (overLent s a n) 0x0304 (some 0)

/-- UNPIN: the range's lines are ordinary at once. -/
def execUnpin (o : Origin) (s : State) : Host.Outcome State Fault Refusal :=
  .next (command o 0x0071 checkUnpin (fun pl s =>
    let id := field pl 0 1
    let r := (obj s.obj.pins id).getD (0, 0)
    let lines := s.cache.lines.map fun (k, v) =>
      (k, if v.valid && inRange s r.1 r.2 (k / 8192) v then { v with pinned := false } else v)
    answerOk o [] (controlSlices { s with obj := { s.obj with pins := setObj s.obj.pins id none }, cache := { s.cache with lines := lines } }))
    s)

/-! ### Dead-fill and discards -/

/-- DISCARD_CFG, the configuration form; an unknown form is refused here. -/
def execDiscardCfg (o : Origin) (s : State) : Host.Outcome State Fault Refusal :=
  match accepted s o 0x0072 with
  | none => idle s
  | some a =>
    let form := field a.payload 0 1
    if form = 0 then
      .next (command o 0x0072
        (fun pl _ => reservedFail (pl.take 24) [(0, 8), (8, 8)] ++ failIf (decide (3 < field pl 1 1)) 0x0104 (some 8))
        (fun pl s => answerOk o [] { s with obj := { s.obj with deadFill := field pl 1 1 } }) s)
    else if form = 1 then idle s
    else .next (refuse o ⟨0x0104, some 0, none⟩ s)

/-- Check of the range form (R270). -/
def checkDiscard (pl : Bytes) (s : State) : List Fail :=
  let a := podOffset (field pl 8 8)
  let n := field pl 16 8
  reservedFail (pl.take 24) [(0, 8), (64, 54), (128, 64)] ++ stackRangeFails s pl 8 128
    ++ failIf (overLent s a n || overDiscard s a n) 0x0304 (some 64)

/-- DISCARD: the range is claimed until the next operation boundary (Table 9.8, step 1). -/
def execDiscard (o : Origin) (s : State) : Host.Outcome State Fault Refusal :=
  match accepted s o 0x0072 with
  | none => idle s
  | some a =>
    if field a.payload 0 1 = 1 then
      .next (command o 0x0072 checkDiscard (fun pl s =>
        let d : Discard := { by' := o, base := podOffset (field pl 8 8), len := field pl 16 8 }
        begin' o { s with obj := { s.obj with discards := s.obj.discards ++ [d] } }) s)
    else idle s

/-- The dead bit of every sector of a line set in the tier (R192). -/
def Stack.killLine (k : Stack) (a : Nat) : Stack :=
  { k with mark := (List.range 4).foldl (fun t i => Tab.upd {} t (a / 32 + i) fun m => { m with dead := 7 }) k.mark }

/-- A line of a discarded range as a slice holds it from then on: gone, or dead where it is pinned (R270). -/
def deadLine (v : L2Line) : L2Line :=
  { v with secs := List.replicate 4 { dead := true } }

/-- A range dropped by the slices and marked dead in the tiers (Table 9.8, steps 3 and 4). -/
def killRange (a n : Nat) (s : State) : State :=
  let hit (k : Nat) (v : L2Line) : Bool := v.valid && inRange s a n (k / 8192) v
  let lines := (s.cache.lines.filter fun (k, v) => !(hit k v && !v.pinned)).map fun (k, v) =>
    (k, if hit k v then deadLine v else v)
  { s with cache := { s.cache with lines := lines }, stack := (rangeLines a n).foldl Stack.killLine s.stack }

/-- DISCARD_PROCEED: at an operation boundary the range is dropped and dead, and DISCARD completes (Table 9.8, steps 2 to
5). Requests that reached a slice before are lost with the line: they end before the drop. -/
def execDiscardProceed (o : Origin) (s : State) : Host.Outcome State Fault Refusal :=
  match s.obj.discards.find? fun d => d.by' == o with
  | none => idle s
  | some d =>
    if s.sched.op.isSome ∨ rangeBusy s d.base d.len then idle s
    else
      let t := flushAllL1 s
      let s' := s
      let s := killRange d.base d.len (updateTables t)
      .next (if allFenced t = false ∨ rangeBusy t d.base d.len then s' else answerOk o [] { s with obj := { s.obj with discards := s.obj.discards.filter fun x => !(x.by' == o) } })

end Sys2Proof.Machine
end

