-- ==== Sys2Proof/Machine/Streams.lean ====
section
/-! DEFINITION. The data path (chapter 14): streams and their transfers (R390, R395), intake areas and the taking of their
entries (R392-R394), completion areas and their host counts (R392, R397). -/

namespace Sys2Proof.Machine

/-! ### Streams -/

/-- A stream's record. -/
def streamOf (s : State) (i : Nat) : Option Stream := obj s.obj.streams i

/-- Outstanding work names a stream. -/
def streamUsed (s : State) (i : Nat) : Bool := s.sched.subs.any fun u => u.kind == 2 && u.obj == i

/-- Check of STREAM_DEFINE. -/
def checkStreamDefine (pl : Bytes) (s : State) : List Fail :=
  let n := field pl 4 4
  let size := field pl 24 4
  let ok := n != 0 && decide (n ≤ 65536) && size != 0 && decide (size ≤ 2 ^ 26)
  reservedFail (pl.take 28) [(0, 8), (8, 8), (32, 32), (64, 64), (128, 54), (192, 32)]
    ++ failIf (decide (1 < field pl 1 1)) 0x0104 (some 8) ++ failIf (n == 0 || decide (65536 < n)) 0x0104 (some 32)
    ++ failIf (field pl 8 8 % 128 != 0) 0x0105 (some 64)
    ++ failIf (ok && !podRange s (field pl 16 8) (n * size)) 0x0106 (some 128)
    ++ failIf (size % 128 != 0) 0x0105 (some 192) ++ failIf (size == 0 || decide (2 ^ 26 < size)) 0x0104 (some 192)
    ++ failIf (match streamOf s (field pl 0 1) with | some k => k.enabled || streamUsed s (field pl 0 1) | none => false)
        0x0303 (some 0)

/-- STREAM_DEFINE: the stream is defined disabled. -/
def execStreamDefine (o : Origin) (s : State) : Host.Outcome State Fault Refusal :=
  .next (command o 0x0080 checkStreamDefine (fun pl s =>
    let k : Stream := { out := field pl 1 1 == 1, count := field pl 4 4, host := field pl 8 8, dev := field pl 16 8
                        size := field pl 24 4, enabled := false }
    answerOk o [] { s with obj := { s.obj with streams := setObj s.obj.streams (field pl 0 1) (some k) } }) s)

/-- Check of STREAM_ENABLE: the whole object when the bit is set, its use when it is cleared (R390). -/
def checkStreamEnable (pl : Bytes) (s : State) : List Fail :=
  let i := field pl 0 1
  failIf (decide (1 < field pl 1 1)) 0x0104 (some 8)
    ++ (match streamOf s i with
        | none => failIf true 0x0107 (some 0)
        | some k =>
          if field pl 1 1 = 1 then failIf (!podRange s k.dev (k.count * k.size)) 0x0106
          else failIf (k.enabled && streamUsed s i) 0x0303 (some 0))

/-- STREAM_ENABLE. -/
def execStreamEnable (o : Origin) (s : State) : Host.Outcome State Fault Refusal :=
  .next (command o 0x0081 checkStreamEnable (fun pl s =>
    let i := field pl 0 1
    let k := (streamOf s i).map fun k => { k with enabled := field pl 1 1 == 1 }
    answerOk o [] { s with obj := { s.obj with streams := setObj s.obj.streams i k } }) s)

/-- The pieces of a range cut at multiples of `w`. -/
def cutRange (w : Nat) : Nat → Nat → Nat → List (Nat × Nat)
  | 0, _, _ => []
  | k + 1, a, n =>
    if n = 0 then []
    else
      let m := min n (w - a % w)
      (a, m) :: cutRange w k (a + m) (n - m)

/-- A piece of an OUT transfer sent, with EP set on what is poison (R483), and with Relaxed Ordering where it is enabled
(R370). A piece lies in one 128-byte line, so every Max_Payload_Size allows it. -/
def sendPiece (host : Nat) (r : PodRead) (s : State) : State := hostWrite host r.data r.poison s.pcie.cfg.relaxed s

/-- One line of an OUT transfer: read at its home, sent to the host; sector by sector where some of it is poison. -/
def sendLine (id dev host : Nat) (rd : Remote) (s : State) (p : Nat × Nat) : State :=
  let k := podRead .module p.1 p.2 rd s
  if k.2.reason ≠ 0 then setSub id (fun u => { u with bad := if u.bad = 0 then k.2.reason else u.bad }) k.1
  else if k.2.poison = false then sendPiece (host + (p.1 - dev)) k.2 k.1
  else
    (cutRange 32 5 p.1 p.2).foldl (fun s q =>
      sendPiece (host + (q.1 - dev)) (podRead .module q.1 q.2 rd s).2 s) (setSub id (fun u => { u with poison := true }) k.1)

/-- STREAM_TRANSFER: an entry whose dependencies have completed starts. An IN transfer reads the host's buffer, an OUT
transfer sends the device's; one that needs the host waits for Bus Master Enable (R370, R395). -/
def execStreamTransfer (sub : Nat) (rd : Remote) (s : State) : Host.Outcome State Fault Refusal :=
  heldRow s fun s =>
  match subOf s sub with
  | none => idle s
  | some u =>
    if u.kind ≠ 2 ∨ u.started ∨ u.fin.isSome ∨ mayStart s u = false ∨ ready s = false ∨ canIssue s = false then idle s
    else match streamOf s u.obj with
      | none => idle s
      | some k =>
        let s := startSub sub s
        let host := k.host + u.arg * k.size
        let dev := k.dev + u.arg * k.size
        if k.out then .next ((cutRange 128 (k.size / 128 + 1) dev k.size).foldl (sendLine sub dev host rd) s)
        else .next (askHost host k.size (.stream sub) s)

/-- Reads of the host for a transfer that have not been answered. -/
def transferReads (s : State) (sub : Nat) : Bool :=
  let mine (r : OutRead) : Bool := r.why == .stream sub
  s.pcie.reads.any mine || s.pcie.waiting.any mine

/-- Data of an IN transfer that has arrived, written at its home (R395). -/
def takeStream (sub addr : Nat) (bs : Bytes) (rd : Remote) (s : State) : State :=
  match subOf s sub with
  | none => s
  | some u => match streamOf s u.obj with
    | none => s
    | some k =>
      let w := podWrite (k.dev + (addr - k.host)) bs rd s
      if w.2 = 0 then w.1 else setSub sub (fun u => { u with bad := if u.bad = 0 then w.2 else u.bad }) w.1

/-- STREAM_TRANSFER_DONE: every read has been answered and every write acknowledged; the record is written (R395, R483). -/
def execStreamTransferDone (sub : Nat) (s : State) : Host.Outcome State Fault Refusal :=
  match subOf s sub with
  | none => idle s
  | some u =>
    if u.kind ≠ 2 ∨ u.started = false ∨ u.fin.isSome ∨ transferReads s sub then idle s
    else
      .next (finishSub sub (fun u =>
        { kind := 4, status := if u.bad ≠ 0 then 3 else if u.poison then 2 else 1, reason := u.bad, obj := u.obj
          tag := u.tag }) s)

/-! ### Area definitions -/

/-- Reserved bits of an area's definition (R15); `param` is the width of the field that only its kind has. -/
def areaReserved (pl : Bytes) (param : Nat) : List Fail :=
  reservedFail (pl.take 16) [(0, 8), (8, 8), (16, 8), (24, 8), (32, param), (64, if field pl 1 1 == 1 then 54 else 64)]

/-- Failures that both kinds of area share. -/
def checkArea (pl : Bytes) (s : State) (entry param : Nat) (busy : Bool) : List Fail :=
  let log2 := field pl 2 1
  let device := field pl 1 1 == 1
  let base := field pl 8 8
  areaReserved pl param ++ failIf (decide (63 < field pl 0 1)) 0x0104 (some 0) ++ failIf (decide (1 < field pl 1 1)) 0x0104 (some 8)
    ++ failIf (decide (log2 < 4) || decide (16 < log2)) 0x0104 (some 16) ++ failIf (decide (1 < field pl 3 1)) 0x0104 (some 24)
    ++ failIf (base % 4096 != 0) 0x0105 (some 64)
    ++ failIf (device && !localRange s base (64 + entry * 2 ^ (max 4 (min 16 log2)))) 0x0106 (some 64)
    ++ failIf busy 0x0303 (some 0)

/-- An intake area's record, and the state with it changed. -/
def intakeOf (s : State) (i : Nat) : Option Intake := obj s.obj.intakes i
def setIntake (i : Nat) (f : Intake → Intake) (s : State) : State :=
  { s with obj := { s.obj with intakes := setObj s.obj.intakes i ((intakeOf s i).map f) } }

/-- Outstanding work came from an intake area, or a read of it is outstanding. -/
def intakeUsed (s : State) (i : Nat) : Bool :=
  (s.sched.subs.any fun u => u.area == some i) || ((intakeOf s i).map (·.busy)).getD false

/-- Check of INTAKE_DEFINE: clearing the enable bit needs no check but of use (R390). -/
def checkIntakeDefine (pl : Bytes) (s : State) : List Fail :=
  let i := field pl 0 1
  let on := ((intakeOf s i).map (·.enabled)).getD false
  if on && field pl 3 1 == 0 then areaReserved pl 16 ++ failIf (intakeUsed s i) 0x0303 (some 0)
  else checkArea pl s 64 16 (on || intakeUsed s i) ++ failIf (decide (100 < field pl 4 2)) 0x0104 (some 32)

/-- INTAKE_DEFINE. -/
def execIntakeDefine (o : Origin) (s : State) : Host.Outcome State Fault Refusal :=
  .next (command o 0x0082 checkIntakeDefine (fun pl s =>
    let i := field pl 0 1
    let on := ((intakeOf s i).map (·.enabled)).getD false
    if on then answerOk o [] (setIntake i (fun k => { k with enabled := false }) s)
    else
      let k : Intake := { device := field pl 1 1 == 1, log2 := field pl 2 1
                          pollUs := if field pl 4 2 = 0 then 2 else field pl 4 2, base := field pl 8 8
                          enabled := field pl 3 1 == 1 }
      answerOk o [] { s with obj := { s.obj with intakes := setObj s.obj.intakes i (some k) } }) s)

/-- Outstanding work, held records or an enabled class name a completion area (R390, R397). -/
def complUsed (s : State) (i : Nat) : Bool :=
  (s.sched.subs.any fun u => u.compl == i)
    || s.obj.classes.any fun (_, c) => match c with
      | some c => (c.enabled || c.cur.isSome || !c.held.isEmpty) && ((taskOf s c.task).bind (·.compl)) == some i
      | none => false

/-- Check of COMPLETION_DEFINE. -/
def checkCompletionDefine (pl : Bytes) (s : State) : List Fail :=
  let i := field pl 0 1
  let v := field pl 4 1
  let on := ((complOf s i).map (·.enabled)).getD false
  if on && field pl 3 1 == 0 then areaReserved pl 8 ++ failIf (complUsed s i) 0x0303 (some 0)
  else checkArea pl s 32 8 (on || complUsed s i) ++ failIf (v == 1 || decide (63 < v)) 0x0104 (some 32)

/-- COMPLETION_DEFINE. -/
def execCompletionDefine (o : Origin) (s : State) : Host.Outcome State Fault Refusal :=
  .next (command o 0x0083 checkCompletionDefine (fun pl s =>
    let i := field pl 0 1
    let on := ((complOf s i).map (·.enabled)).getD false
    if on then answerOk o [] (setCompl i (fun k => { k with enabled := false }) s)
    else
      let k : Compl := { device := field pl 1 1 == 1, log2 := field pl 2 1, vector := field pl 4 1, base := field pl 8 8
                         enabled := field pl 3 1 == 1 }
      answerOk o [] { s with obj := { s.obj with compls := setObj s.obj.compls i (some k) } }) s)

/-! ### Entries -/

/-- Checks of an intake entry of any kind (R393-R395). -/
def checkIntake (e : Bytes) (rd : Remote) (s : State) : List Fail :=
  match subKind e with
  | 1 => checkSubmission e rd s
  | 2 =>
    checkEntry e s ++ failIf (subRows e != 0) 0x0103 (some 48) ++ failIf (subAddr e != 0) 0x0103 (some 128)
      ++ (match streamOf s (subObj e) with
          | none => failIf (decide (255 < subObj e)) 0x0104 (some 32) ++ failIf (decide (subObj e ≤ 255)) 0x0107 (some 32)
          | some k => failIf (!k.enabled) 0x030B (some 32) ++ failIf (decide (k.count ≤ subArg e)) 0x0104 (some 96))
  | 3 =>
    checkEntry e s ++ failIf (subObj e != 0) 0x0103 (some 32) ++ failIf (subRows e != 0) 0x0103 (some 48)
      ++ failIf (subArg e != 0) 0x0103 (some 96) ++ checkRun (subAddr e) 128 rd s
  | _ => checkEntry e s

/-- CMPL.KIND of an entry by its own kind. -/
def complKind (kind : Nat) : Nat := match kind with | 2 => 4 | 3 => 3 | _ => 1

/-- An entry that fails its check is not run: its area takes a record with ERROR (R394); with no enabled area named the
record is dropped (log 65). -/
def failEntry (e : Bytes) (reason : Nat) (s : State) : State :=
  if ((complOf s (subCompl e)).map (·.enabled)).getD false then
    let id := s.sched.nextId
    finishSub id (fun u =>
      { kind := complKind u.kind, status := 3, reason := reason, obj := u.obj, tag := u.tag }) (acceptEntry e [] none s)
  else s

/-- One entry taken from an area (R394). -/
def takeEntry (area : Nat) (e : Bytes) (rd : Remote) (s : State) : State :=
  let s := readAhead (entryReads e s) rd (tally 9 0 7 1 s)
  match pickFail (checkIntake e rd s) with
  | some f => failEntry e f.reason s
  | none =>
    match subKind e with
    | 1 => acceptSubmission e (some area) rd s
    | 2 => acceptEntry e [] (some area) s
    | _ =>
      acceptRun { id := s.sched.nextId, kind := 3, obj := 0, compl := subCompl e, tag := subTag e, arg := 0
                  addr := subAddr e, rows := [], area := some area } rd s

/-- Entries posted and not taken; a host count more than the ring ahead counts as none (log 65). -/
def posted (k : Intake) : Nat :=
  let n := (k.host + 2 ^ 32 - k.taken) % 2 ^ 32
  if 2 ^ k.log2 < n then 0 else n

/-- The Cobbler stops taking entries (R394). -/
def intakeStopped (s : State) : Bool := queueFull s || runsFull s

/-- The module count of an intake area written. -/
def writeTaken (area : Nat) (s : State) : State :=
  match intakeOf s area with
  | some k => areaWrite k.device (k.base + 8) (natLE 4 k.taken) s
  | none => s

/-- Entries taken in order from the bytes read, as far as the Cobbler goes on; then the module count. -/
def takeEntries (area : Nat) (rd : Remote) : List Bytes → State → State
  | [], s => writeTaken area s
  | e :: es, s =>
    if intakeStopped s then writeTaken area s
    else takeEntries area rd es (setIntake area (fun k => { k with taken := (k.taken + 1) % 2 ^ 32 }) (takeEntry area e rd s))

/-- The bytes cut into entries. -/
def entriesOf (n : Nat) (bs : Bytes) : List Bytes := (List.range n).map fun i => slice bs (64 * i) 64

/-- Entries that one read of an area may bring: at most 16, in one piece of the ring and of the host's memory. -/
def roundSize (s : State) (k : Intake) : Nat :=
  let i := k.taken % 2 ^ k.log2
  let a := k.base + 64 + 64 * i
  let n := min (min 16 (posted k)) (2 ^ k.log2 - i)
  if k.device then n else min n (min ((4096 - a % 4096) / 64) (max 128 s.pcie.cfg.maxRead / 64))

/-- The next round of an area in host memory asked for. -/
def askEntries (area : Nat) (s : State) : State :=
  match intakeOf s area with
  | none => s
  | some k =>
    let n := roundSize s k
    if n = 0 ∨ intakeStopped s ∨ k.enabled = false then setIntake area (fun k => { k with busy := false }) s
    else
      askHost (k.base + 64 + 64 * (k.taken % 2 ^ k.log2)) (64 * n) (.intakeEntries area k.taken n)
        (setIntake area (fun k => { k with busy := true }) s)

/-- A host count seen in a header word; halves that disagree leave the old one (Table 14.7). -/
def countOf (old word : Nat) : Nat :=
  if word / 2 ^ 32 % 2 ^ 32 = 2 ^ 32 - 1 - word % 2 ^ 32 then word % 2 ^ 32 else old

/-- A round taken from an area in device memory. An entry that reads as poison is taken and has no record (log 65). -/
def takeDevice (area : Nat) (rd : Remote) (s : State) : State :=
  match intakeOf s area with
  | none => s
  | some k =>
    let h := podRead .module k.base 8 rd s
    if h.2.reason ≠ 0 ∨ h.2.poison then h.1
    else
      let s := setIntake area (fun k => { k with host := countOf k.host (field h.2.data 0 8) }) h.1
      match intakeOf s area with
      | none => s
      | some k =>
        let n := roundSize s k
        if n = 0 then s
        else
          let r := (List.range n).foldl (fun (acc : State × List PodRead) i =>
            let e := podRead .module (k.base + 64 + 64 * (k.taken % 2 ^ k.log2 + i)) 64 rd acc.1
            (e.1, acc.2 ++ [e.2])) (s, [])
          let good := (r.2.takeWhile fun e => e.reason == 0 && !e.poison).map fun e => slice e.data 0 64
          if good.length = n then takeEntries area rd good r.1
          else
            let s := takeEntries area rd good r.1
            if intakeStopped s then s
            else writeTaken area (setIntake area (fun k => { k with taken := (k.taken + 1) % 2 ^ 32 }) (tally 9 0 7 1 s))

/-- INTAKE_POLL: the header of an enabled area is read; in device memory the new entries are taken at once, in host memory
once the reads have been answered (R394). -/
def execIntakePoll (area : Nat) (rd : Remote) (s : State) : Host.Outcome State Fault Refusal :=
  heldRow s fun s =>
  match intakeOf s area with
  | none => idle s
  | some k =>
    if k.enabled = false ∨ ready s = false ∨ k.busy ∨ intakeStopped s then idle s
    else if k.device then .next (takeDevice area rd s)
    else .next (askHost k.base 8 (.intakeHeader area) (setIntake area (fun k => { k with busy := true }) s))

/-! ### Host counts of completion areas -/

/-- A host count seen in a completion area: records are freed, and what waited for space is written (R397). A count beyond
what was written is ignored (log 65). -/
def seeHostCount (area word : Nat) (s : State) : State :=
  match complOf s area with
  | none => s
  | some k =>
    let h := countOf k.host word
    if (k.written + 2 ^ 32 - h) % 2 ^ 32 ≤ k.size then
      let s := setCompl area (fun k => { k with host := h }) s
      flushArea area k.order.length s
    else s

/-- COMPLETION_AREA_HOST_COUNT: the Cobbler reads the host count of an area: in device memory at once; in host memory
`host` is the header word that its read brings, or the read is only asked for. -/
def execCompletionAreaHostCount (area : Nat) (host : Option Nat) (s : State) : Host.Outcome State Fault Refusal :=
  heldRow s fun s =>
  match complOf s area with
  | none => idle s
  | some k =>
    if k.enabled = false ∨ ready s = false then idle s
    else if k.device then
      let r := podRead .module k.base 8 [] s
      .next (if r.2.reason ≠ 0 ∨ r.2.poison then r.1 else seeHostCount area (field r.2.data 0 8) r.1)
    else match host with
      | some w => if canIssue s then .next (seeHostCount area w s) else idle s
      | none =>
        let mine (r : OutRead) : Bool := r.why == .complHeader area
        if s.pcie.reads.any mine || s.pcie.waiting.any mine then idle s
        else .next (askHost k.base 8 (.complHeader area) s)

end Sys2Proof.Machine
end

