-- ==== Sys2Proof/Machine/Reset.lean ====
section
/-! DEFINITION. Resets (Table 15.10): what is lost with the core rails, the start of bring-up (R405, R409, R420, R421),
what a reset does to a firmware update (Table 17.5), and Function Level Reset (Table 13.11, R377). -/

namespace Sys2Proof.Machine

/-! ### Firmware slots under a reset -/

/-- A slot's image replaced. -/
def Firmware.putSlot (f : Firmware) (n : Nat) (i : Image) : Firmware :=
  if n = 0 then { f with slotA := i } else { f with slotB := i }

/-- The slot that does not run, into which staging writes (R457). -/
def Firmware.inactive (f : Firmware) : Nat := 1 - f.running

/-- The staged image given up: the inactive slot is empty and no update is in progress (R462). -/
def Firmware.discard (f : Firmware) : Firmware :=
  { f.putSlot f.inactive .empty with staged := [], step := 0, stagedVer := 0 }

/-- An update meets a reset (Table 17.5). -/
def Firmware.atReset (f : Firmware) (flr : Bool) : Firmware :=
  if f.step = 0 then f
  else if f.step ≤ 3 then { f.discard with interrupted := true }
  else if flr then f
  else { f with step := 0, stagedVer := 0 }

/-- FW_UPDATE_INTERRUPTED for an update that a reset met before its commit. -/
def logInterrupted (step kind : Nat) (s : State) : State :=
  if 1 ≤ step ∧ step ≤ 3 then logEvent 0x0B05 0 (fld step 0 3 + fld kind 4 3) s else s

/-! ### What is lost with the core rails -/

/-- Ports as they stand without power: only the cables remain (R313). -/
def idlePorts (t : Tab Port) : Tab Port :=
  t.filterMap fun (p, k) => if k.cable then some (p, { cable := true }) else none

/-- Everything that the core rails carry is gone (R28, R412, R421): work, objects, memory, caches, tiles, awls, ports'
sessions, the PCIe function and its settings. Non-volatile memory, fuses, the standby domain, the pins and the telemetry
set, with the Warnings that it shows, stay (R404). -/
def cleared (s : State) : State :=
  { s with
    power := { s.power with coreRails := false, stageFailed := false, coolantWait := false, timebaseOn := false
                            imageUp := false, startWait := false }
    pace := { power := s.pace.power, powHist := s.pace.powHist }
    pcie := {}
    mail := {}
    obj := {}
    sched := {}
    tiles := {}
    stack := {}
    cache := {}
    mesh := {}
    awls := {}
    ports := idlePorts s.ports
    pod := { stored := s.pod.stored, eff := s.pod.eff, saved := s.pod.saved }
    thermal := { reading := s.thermal.reading, temp := s.thermal.temp, warn := s.thermal.warn }
    coolant := { inlet := s.coolant.inlet, outlet := s.coolant.outlet, flow := s.coolant.flow, warning := s.coolant.warning }
    fw := { s.fw with stageMeas := [], list := [], reg := [], overflow := 0, fullLog := false, more := [], ending := 0 }
    trace := {}
    sram := []
    tele := { s.tele with page := [], snap := 0 } }

/-- Bring-up begins at stage 0 (R405, R409, R420, R421, R476). -/
def beginBringup (kind : Nat) (s : State) : State :=
  let step := s.fw.step
  let s := cleared s
  let gen := (s.bring.resetGen + 1) % 2 ^ 32
  let first : StageReport := { result := 1, resetGen := gen }
  let bring : BringUp := { s.bring with
    reports := [(0, first)], resetGen := gen, lastReset := kind, retired := [], trainFails := [], fwFails := []
    fwRepeat := false, podChanged := false, stageNs := 0 }
  let s := { s with
    power := { s.power with phase := .bringup 0, seatOff := false }, bring := bring, ev := {}
    fw := s.fw.atReset false }
  logInterrupted step kind (logEvent 0x0B01 0 (fld kind 0 3 + fld gen 32 32) s)

/-- A reset that reruns bring-up; none in OFF or SHUTDOWN_LATCHED (Table 14.10, R374, R422). -/
def rerun (kind : Nat) (s : State) : State :=
  match s.power.phase with
  | .bringup _ | .up => beginBringup kind s
  | _ => s

/-- The effects of a cold reset on the standby domain: the telemetry set is cleared, and the shutdown cause comes from
the newest valid record (R404, R452). -/
def coldStandby (s : State) : State :=
  let r := (s.shut.ring.filterMap id).head?
  { s with
    tele := {}
    thermal := {}
    coolant := {}
    pace := {}
    ev := {}
    shut := { s.shut with cause := (r.map (·.cause)).getD 0, unit := (r.map (·.unit)).getD 0, writing := none } }

/-! ### Function Level Reset -/

/-- Configuration space and the direct registers of the function at their reset values, sticky bits kept; reads of host
memory in flight and messages are forgotten, and records wait for Bus Master Enable (Table 13.11, steps 2, 4 and 5). -/
def resetFunction (s : State) : State :=
  let ptm : Ptm := { s.pcie.ptm with enabled := false, interval := 100, align := false }
  let d : Pcie := {}
  { s with pcie := { s.pcie with
      cfg := { d.cfg with aerMask := s.pcie.cfg.aerMask, aerSev := s.pcie.cfg.aerSev }, heldMsix := []
      msixOn := false, funcMask := false, table := [], pba := [], mods := [], gathered := []
      bar2Code := d.bar2Code, win := {}, ptm := ptm, eccLow := none, winLow := none, l2Low := none, ptmLow := none
      tbLatch := none, reads := [], waiting := [], bar2Held := [], d3 := false } }

/-- Mailbox slots at their reset values: commits not yet accepted are gone, and accepted commands answer nowhere
(Table 13.11, step 3). -/
def resetSlots (s : State) : State :=
  { s with mail := { s.mail with slots := [], accepted := s.mail.accepted.map fun a =>
      match a.origin with | .slot _ => { a with mute := true } | .relay _ _ => a } }

/-- The memory as it stands, with nothing that makes an access wait. -/
def calm (s : State) : State :=
  { s with stack := { s.stack with
      shanks := s.stack.shanks.map fun (t, k) => (t, { k with fault := none, doubt := false, copying := none, held := [] })
      sides := s.stack.sides.map fun (i, k) =>
        (i, { k with state := if k.state = 2 then 0 else k.state, copying := none, held := [] }) } }

/-- The C, C-scale and RED_BASE regions of an operation that a reset stops hold undefined bytes (R104). -/
def spoilOp (op : Op) (exact : Bool) (s : State) : State :=
  let d := op.desc
  match dOp d, op.att with
  | 1, _ | 2, _ =>
    let s := (List.range op.m).foldl (fun s r =>
      spoil (rowAddr 0 (dCGather d) (dCBase d) (dCStride d) r (opC op) [] (calm s)).2.1 (vecBytes (dFmtC d) (dN d)) s) s
    let s := if isMx (dFmtC d) then spoil (dCScale d) (op.m * ((dN d + 31) / 32)) s else s
    if isSplit op then spoil (dRed d) (op.m * dN d * if exact then 128 else 4) s else s
  | 3, some a =>
    a.entries.foldl (fun s e => match e.shape with
      | some h => spoil (eOut e.raw) (attRows a.param h * if aMode a.param = 1 then recordBytes h.dv else vecBytes (dFmtC d) h.dv) s
      | none => s) s
  | _, _ => s

/-- The operation in progress stops (R104): the L1s' lines are discarded (R258), the tiles idle, and the array's ramp down
begins (R71). -/
def stopOp (s : State) : State :=
  match s.sched.op with
  | none => s
  | some op =>
    let s := spoilOp op s.pace.red s
    { s with sched := { s.sched with op := none }, pace := { s.pace with ramp := 0 }
             tiles := { s.tiles with tile := s.tiles.tile.map fun (t, k) => (t, { k with state := .idle, l1 := [], plru := [] }) } }

/-- The completion of a work entry that a reset aborts. -/
def abortedRec (s : State) (u : Sub) : Rec :=
  match u.kind with
  | 2 => { kind := 4, status := 5, obj := u.obj, tag := u.tag }
  | 3 =>
    let tag := match s.awls.cur with
      | some r => if r.sub = u.id then field r.block 40 2 else 0
      | none => 0
    let queued := (s.awls.queue.find? fun q => q.sub == u.id).map fun q => field q.block 40 2
    { kind := 3, status := 5, opTag := queued.getD tag, tag := u.tag }
  | _ => { kind := 1, status := 5, obj := u.obj, tag := u.tag }

/-- Every piece of work ends with ABORTED_BY_RESET (R421, R248): the classes are disabled, then started work ends, instances,
and what waits. -/
def abortWork (s : State) : State :=
  let classes := s.obj.classes.map (·.1)
  let s := classes.foldl (fun s i => setClass i (fun c => { c with enabled := false }) s) (stopOp s)
  let s := s.sched.running.foldl (fun s r => endWork r 5 0 0 0 s) s
  let s := classes.foldl (fun s i => finishInstance i 5 0 0 s) s
  let ids := (s.sched.subs.filter fun u => u.fin.isNone).map (·.id)
  let s := ids.foldl (fun s id => finishSub id (abortedRec s) s) s
  let lends := s.obj.lends.filter fun (_, l) => match l with | some l => !l.lent | none => false
  { s with
    sched := { s.sched with windows := [], ready := [], running := [] }
    awls := { s.awls with queue := [], cur := none, awl := [], bus := [] }
    obj := { s.obj with lends := lends, intakes := s.obj.intakes.map fun (i, k) => (i, k.map fun k => { k with busy := false }) } }

/-- The module's own outstanding requests dropped (R342, R355); a command that waits for one fails. -/
def dropRequests (s : State) : State :=
  let who := s.pod.reqs.filterMap fun r => match r.why with | .relay o _ => some o | .frames o => some o | _ => none
  let s := { s with pod := { s.pod with reqs := s.pod.reqs.filter (·.why == .carried), colls := [], bad := [] }, obj := { s.obj with extending := [] } }
  who.foldl (fun s o => fail o ⟨0x0601, none, none⟩ s) s

/-- A chunk that was being read from host memory fails (R371, R462). -/
def dropChunks (old s : State) : State :=
  ((old.pcie.reads ++ old.pcie.waiting).filterMap fun r => match r.why with | .fwChunk o => some o | _ => none).eraseDups.foldl
    (fun s o => fail o ⟨0x0110, none, none⟩ s) s

/-- The mode returns to FULL/BOUNDED/FAST at the boundary that the aborted tasks leave; a mode change that waited there
has completed first (R377, R297; DEDUCED, log 68). -/
def resetMode (s : State) : State :=
  let done := (s.pace.pendPoint.map (·.by')).toList ++ (s.pace.pendNet.map (·.by')).toList ++ (s.pace.pendRed.map (·.by')).toList
  let s := done.foldl (fun s o => answerOk o [] s) { s with pace := { s.pace with pendPoint := none, pendNet := none, pendRed := none } }
  let same := s.pace.point == 0 && !s.pace.net && !s.pace.red
  let s := if s.pace.point = 0 ∧ s.pace.changing = 0 then s else applyPoint 0 0 s
  let s := loadDiscipline false none s
  let s := { s with pace := { s.pace with red := false } }
  if same then s else modeTrace s

/-- FW commands accepted and not yet answered. -/
def fwCommands (s : State) : Nat :=
  (s.mail.accepted.filter fun a => a.cmd == 0x00A0 || a.cmd == 0x00A1 || a.cmd == 0x00A2).length

/-- A FW command has been carried out: the last of those that an FLR let end is followed by Table 17.5 (R466). -/
def afterFw (old s : State) : State :=
  if fwCommands old ≤ fwCommands s ∨ s.fw.ending = 0 then s
  else
    let left := s.fw.ending - 1
    let s := { s with fw := { s.fw with ending := left } }
    if left = 0 then logInterrupted s.fw.step 2 { s with fw := s.fw.atReset true } else s

/-- An FLR, and Hot Reset and DL_Down with the same effect (R376, R377, R421, Table 17.5). It keeps memory, so every dirty L2
line is written back (R258). -/
def flrReset (s : State) : State :=
  let step := s.fw.step
  let gen := (s.bring.resetGen + 1) % 2 ^ 32
  let s1 := { (resetSlots (resetFunction s)) with bring := { s.bring with resetGen := gen, lastReset := 2 } }
  let s1 := resetMode (dropRequests (cleanLines (abortWork (dropChunks s s1))))
  let n := fwCommands s1
  if n = 0 then
    let s1 := { s1 with fw := s1.fw.atReset true }
    logInterrupted step 2 (logEvent 0x0B01 0 (fld 2 0 3 + fld gen 32 32) s1)
  else logEvent 0x0B01 0 (fld 2 0 3 + fld gen 32 32) { s1 with fw := { s1.fw with ending := n } }

/-- The host's link carries a reset: it is up, which it can be from stage 1 on. -/
def linkHears (s : State) : Bool := s.pcie.link && s.power.coreRails

/-- FLR. -/
def execFlr (s : State) : Host.Outcome State Fault Refusal := configWrite flrReset s

/-- HOT_RESET: as an FLR; the link then retrains (R376). -/
def execHotReset (s : State) : Host.Outcome State Fault Refusal :=
  if linkHears s then
    let s := flrReset s
    .next { s with pcie := { s.pcie with link := false, training := true } }
  else idle s

/-- DL_DOWN: as an FLR; the link then retrains (R376). -/
def execDlDown (s : State) : Host.Outcome State Fault Refusal :=
  if linkHears s then
    let s := flrReset s
    .next { s with pcie := { s.pcie with link := false, training := true } }
  else idle s

/-! ### STACK_RESET -/

/-- STACK_RESET: DONE, then the reset (R423). The confirmation word is checked; no element or further field exists. -/
def execStackReset (o : Origin) (s : State) : Host.Outcome State Fault Refusal :=
  match accepted s o 0x00D0 with
  | none => idle s
  | some a =>
    if field a.payload 0 4 = 0x53544B52 then .next (rerun 3 (answerOk o [] s))
    else .next (refuse o ⟨0x0104, some 0, none⟩ s)

end Sys2Proof.Machine
end

