-- ==== Sys2Proof/Machine/Firmware.lean ====
section
/-! DEFINITION. Firmware images and their verification (R457-R460), the update commands (R462-R464), ATTEST (R471) and
LEDGER_READ with its clear form (R415-R418). -/

namespace Sys2Proof.Machine

/-! ### Images -/

/-- Largest image (R462, Table 17.3). -/
def imageMax : Nat := 2 ^ 24

/-- Bytes of the tile firmware (Table 17.3). -/
def tileFwLen : Nat := 49152

/-- FWIMG.ROLLBACK, FWIMG.IMAGE_LEN and FWIMG.TILE_OFFSET. -/
def imgRollback (bs : Bytes) : Nat := field bs 12 1
def imgLen (bs : Bytes) : Nat := field bs 16 4
def imgTile (bs : Bytes) : Nat := field bs 20 4

/-- Structure and lengths of an image of `n` bytes (Table 17.3, first point of R459). -/
def imageShape (bs : Bytes) (n : Nat) : Bool :=
  field bs 0 4 == 0x4D574649 && field bs 4 2 == 1 && field bs 6 2 == 0 && decide (imgRollback bs ≤ 64)
    && field bs 13 3 == 0 && field bs 28 4 == 0 && field bs 96 32 == 0 && field bs 644 380 == 0
    && imgLen bs % 4096 == 0 && decide (8192 ≤ imgLen bs) && decide (imgLen bs ≤ imageMax) && imgLen bs == n
    && imgTile bs % 4096 == 0 && field bs 24 4 == tileFwLen && decide (imgTile bs + tileFwLen ≤ imgLen bs)

/-- The root public key that an image's header carries: modulus and exponent, 516 bytes (Table 17.3). -/
def imgKey (bs : Bytes) : Bytes := slice bs 128 516

/-- Key digest, signature under that key and body digest (R459). -/
def imageSigned (bs : Bytes) : Bool :=
  sha512 (imgKey bs) == Config.rootDigest && signatureOk (imgKey bs) (slice bs 0 1024) (slice bs 1024 512)
    && sha512 (slice bs 4096 (imgLen bs - 4096)) == slice bs 32 64

/-- The reason for which an image does not verify, in the order of R463; 0 when it does. -/
def imageFault (rollback : Nat) (bs : Bytes) (n : Nat) : Nat :=
  if imageShape bs n = false then 0x0104
  else if imageSigned bs = false then 0x0401
  else if imgRollback bs < rollback then 0x0402
  else 0

/-- The image of a slot verifies (R459). Of the image of manufacture only the rollback level can fail (log 8). -/
def Image.verifies (i : Image) (rollback : Nat) : Bool :=
  match i with
  | .empty => false
  | .factory => decide (rollback ≤ imgRollback i.data)
  | .bytes bs => imageFault rollback bs bs.length == 0

/-- A selector written into the older copy, with its generation raised (R460). -/
def Firmware.select (f : Firmware) (active : Nat) (trial : Bool) (count : Nat) : Firmware :=
  { f with oldSel := f.sel, sel := { active := active, trial := trial, count := count, gen := f.sel.gen + 1 } }

/-! ### FW_STAGE -/

/-- A FW command is in progress (R386): a chunk that is being read from host memory. -/
def fwBusy (s : State) : Bool := s.mail.accepted.any fun a => a.started && (a.cmd == 0x00A0 || a.cmd == 0x00A1 || a.cmd == 0x00A2)

/-- Chunk bytes, offset, LAST and DISCARD of a FW_STAGE payload. -/
def stageLen (pl : Bytes) : Nat := field pl 12 4
def stageOffset (pl : Bytes) : Nat := field pl 16 4
def stageLast (pl : Bytes) : Bool := bitB (field pl 20 1) 0
def stageDiscard (pl : Bytes) : Bool := bitB (field pl 20 1) 1

/-- Check of FW_STAGE. With DISCARD the other fields say nothing. -/
def checkFwStage (pl : Bytes) (s : State) : List Fail :=
  let host := field pl 8 1 == 1
  let n := stageLen pl
  reservedFail (pl.take 21) [(0, if host then 64 else 54), (64, 8), (96, 32), (128, 32), (160, 2)]
    ++ (if stageDiscard pl then failIf (s.fw.step == 4) 0x030A
        else
          failIf (decide (1 < field pl 8 1)) 0x0104 (some 64)
            ++ failIf (n == 0 || decide (imageMax < n) || decide (imageMax < s.fw.staged.length + n)) 0x0104 (some 96)
            ++ failIf (decide (2 ≤ s.fw.step)) 0x030A ++ failIf (stageOffset pl != s.fw.staged.length) 0x030A (some 128)
            ++ failIf (fwBusy s) 0x0303 ++ failIf (!host && !podRange s (field pl 0 8) n) 0x0106 (some 0))

/-- An update begins: the inactive slot is erased (R462). -/
def Firmware.start (f : Firmware) : Firmware :=
  { f.putSlot f.inactive .empty with staged := [], step := 1, stagedVer := 0, interrupted := false }

/-- A chunk that has arrived whole joins the staged bytes; the last one ends staging (R462). -/
def takeChunk (o : Origin) (last : Bool) (bs : Bytes) (s : State) : State :=
  answerOk o [] { s with fw := { s.fw with staged := s.fw.staged ++ bs, step := if last then 2 else s.fw.step, chunk := [] } }

/-- FW_STAGE run. -/
def runFwStage (o : Origin) (rd : Remote) (pl : Bytes) (s : State) : State :=
  if stageDiscard pl then answerOk o [] { s with fw := s.fw.discard }
  else
    let s := if stageOffset pl = 0 then { s with fw := s.fw.start } else s
    if field pl 8 1 = 1 then
      askHost (field pl 0 8) (stageLen pl) (.fwChunk o)
        (begin' o { s with fw := { s.fw with chunk := [], chunkBad := false } })
    else
      let r := podRead .module (field pl 0 8) (stageLen pl) rd s
      if r.2.reason ≠ 0 then fail o ⟨r.2.reason, some 0, none⟩ r.1
      else if r.2.poison then fail o ⟨0x0110, some 0, none⟩ r.1
      else takeChunk o (stageLast pl) (slice r.2.data 0 (stageLen pl)) r.1

/-- FW_STAGE. -/
def execFwStage (o : Origin) (rd : Remote) (s : State) : Host.Outcome State Fault Refusal :=
  heldRow s fun s =>
  .next (afterFw s (command o 0x00A0 checkFwStage (runFwStage o rd) s))

/-! ### FW_VERIFY and FW_COMMIT -/

/-- Checks of FW_VERIFY, FW_COMMIT and ATTEST. -/
def checkFwVerify (_ : Bytes) (s : State) : List Fail := failIf (s.fw.step != 2) 0x030A ++ failIf (fwBusy s) 0x0303
def checkFwCommit (pl : Bytes) (s : State) : List Fail :=
  reservedFail (pl.take 1) [(0, 1)] ++ failIf (s.fw.step != 3) 0x030A ++ failIf (fwBusy s) 0x0303
def checkAttest (pl : Bytes) (s : State) : List Fail :=
  reservedFail (pl.take 72) [(0, 512), (512, 54)] ++ failIf (field pl 64 8 % 128 != 0) 0x0105 (some 512)
    ++ failIf (!podRange s (field pl 64 8) (96 * 1024)) 0x0106 (some 512)

/-- FW_VERIFY: the staged image passes, or it is discarded (R463). -/
def execFwVerify (o : Origin) (s : State) : Host.Outcome State Fault Refusal :=
  .next (afterFw s (command o 0x00A1 checkFwVerify (fun _ s =>
    let r := imageFault s.fw.rollback s.fw.staged s.fw.staged.length
    if r = 0 then
      let v := field s.fw.staged 8 4
      answerOk o (natLE 4 v) { s with fw := { s.fw with step := 3, stagedVer := v } }
    else fail o ⟨r, none, none⟩ { s with fw := s.fw.discard }) s))

/-- The commit: the staged image is selected for a trial (R464). -/
def Firmware.commit (f : Firmware) (old : Nat) : Firmware :=
  { (f.putSlot f.inactive (.bytes f.staged)).select f.inactive true 0 with staged := [], step := 4, oldVer := old }

/-- FW_COMMIT; `flashOk` says whether the inactive slot hashes to its digest again. -/
def execFwCommit (o : Origin) (flashOk : Bool) (s : State) : Host.Outcome State Fault Refusal :=
  .next (afterFw s (command o 0x00A2 checkFwCommit (fun pl s =>
    if flashOk then
      let s := answerOk o [] { s with fw := s.fw.commit (fwActive s) }
      if bitB (field pl 0 1) 0 then rerun 3 s else s
    else fail o ⟨0x0401, none, none⟩ { s with fw := s.fw.discard }) s))

/-! ### ATTEST -/

/-- A runtime list entry (Table 17.8), 80 bytes. -/
def Meas.bytes (m : Meas) : Bytes :=
  slice m.digest 0 64 ++ natLE 16 (fld m.kind 0 8 + fld m.tag 16 16 + fld m.count 32 32 + fld m.first 64 64)

/-- A stage measurement as it reads: 64 zero bytes until the stage has passed (R469). -/
def stageMeasure (s : State) (n : Nat) : Bytes := slice (Tab.get [] s.fw.stageMeas n) 0 64

/-- The certificates, each behind its length (R471). -/
def certParts : Bytes :=
  natLE 4 Config.deviceCert.length ++ Config.deviceCert ++ natLE 4 Config.caCert.length ++ Config.caCert

/-- Bytes of a quote. -/
def quoteLen (s : State) : Nat := 1024 + 80 * s.fw.list.length + certParts.length

/-- The quote body (Table 17.7), 512 bytes. -/
def quoteBody (nonce : Bytes) (s : State) : Bytes :=
  let full := decide (1024 ≤ s.fw.list.length) && s.fw.overflow != 0
  natLE 64 (fld 0x41545351 0 32 + fld 1 32 16 + fld (quoteLen s) 64 32 + fld s.fw.list.length 96 32
      + fld serialNumber 128 64 + fld s.bring.resetGen 192 32 + fld (fwActive s) 224 32 + fld Config.romVersion.toNat 256 32
      + fld s.fw.rollback 288 8 + fld s.fw.running 296 1 + fld (b2n (s.fw.sel.trial && s.fw.step != 4)) 297 1
      + fld (b2n (s.fw.step == 4)) 298 1 + fld (b2n full) 299 1 + fld (now s) 320 64 + fld s.fw.overflow 384 32)
    ++ slice nonce 0 64 ++ ((List.range 5).map (stageMeasure s)).flatten ++ slice s.fw.reg 0 64

/-- The whole quote (R471). -/
def quote (nonce : Bytes) (s : State) : Bytes :=
  let body := quoteBody nonce s ++ (s.fw.list.map Meas.bytes).flatten
  body ++ slice (Config.sign body) 0 512 ++ certParts

/-- ATTEST. -/
def execAttest (o : Origin) (s : State) : Host.Outcome State Fault Refusal :=
  .next (command o 0x00A3 checkAttest (fun pl s =>
    answerStored o (natLE 4 (quoteLen s)) (field pl 64 8) (quote (slice pl 0 64) s) s) s)

/-! ### LEDGER_READ -/

/-- A ledger entry (Table 15.6), 16 bytes. -/
def LedgerEntry.bytes (e : LedgerEntry) : Bytes :=
  let b := natLE 12 (fld e.kind 0 4 + fld e.stage 4 4 + fld e.unit 8 8 + fld e.sub 16 8 + fld e.bank 24 8 + fld e.row 32 32
    + fld e.gen 64 32)
  b ++ natLE 4 (crc32 b)

/-- Entries that a read of the ledger writes. -/
def ledgerPart (pl : Bytes) (s : State) : List LedgerEntry := (s.bring.ledger.drop (field pl 4 4)).take (field pl 8 4)

/-- Check of the read form; a form that is neither is out of range. The destination counts when something is written. -/
def checkLedgerRead (pl : Bytes) (s : State) : List Fail :=
  match field pl 0 1 with
  | 0 =>
    reservedFail (pl.take 24) [(0, 8), (32, 32), (64, 32), (128, 54)]
      ++ (match (ledgerPart pl s).length with
          | 0 => []
          | n => destFail s (field pl 16 8) (16 * n) 128)
  | _ => failIf true 0x0104 (some 0)

/-- LEDGER_READ: entries in ledger order (R415). -/
def execLedgerRead (o : Origin) (s : State) : Host.Outcome State Fault Refusal :=
  match accepted s o 0x00A4 with
  | none => idle s
  | some a =>
    if field a.payload 0 1 = 1 then idle s
    else
      .next (command o 0x00A4 checkLedgerRead (fun pl s =>
        let es := ledgerPart pl s
        let reply := natLE 4 es.length ++ natLE 4 s.bring.ledger.length
        if es.isEmpty then answerOk o reply s
        else answerStored o reply (field pl 16 8) (es.map LedgerEntry.bytes).flatten s) s)

/-- What is wrong with a service token (R417, Table 15.8), its signature judged under the key of the running image's header
(R468). -/
def tokenFail (t : Bytes) (s : State) : List Fail :=
  failIf (field t 6 2 != 0 || field t 28 36 != 0) 0x0103 (some 128)
    ++ failIf (field t 0 4 != 0x4C454447 || field t 4 2 != 1) 0x0104 (some 128)
    ++ failIf (!signatureOk (imgKey (s.fw.slot s.fw.running).data) (slice t 0 64) (slice t 64 512)) 0x0401 (some 128)
    ++ failIf (field t 8 8 != serialNumber || field t 16 4 != s.bring.ledger.length || field t 20 4 != s.bring.clearGen
        || decide (field t 24 4 < s.bring.resetGen)) 0x0403 (some 128)

/-- Check of the clear form. -/
def checkLedgerClear (rd : Remote) (pl : Bytes) (s : State) : List Fail :=
  let a := field pl 16 8
  let r := (podRead .module a 576 rd s).2
  reservedFail (pl.take 28) [(0, 8), (128, 54), (192, 32)] ++ failIf (field pl 24 4 != 576) 0x0102 (some 192)
    ++ failIf (s.fw.step != 0) 0x0303
    ++ (if podRange s a 576 = false then failIf true 0x0106 (some 128)
        else if r.reason ≠ 0 then failIf true r.reason (some 128)
        else if r.poison then failIf true 0x0110 (some 128)
        else tokenFail r.data s)

/-- The ledger cleared: an empty one of the next generation becomes the current copy (R418). -/
def clearLedger (s : State) : State :=
  let b := s.bring
  let gen := (b.clearGen + 1) % 2 ^ 32
  logEvent 0x0B04 0 (fld gen 0 32 + fld b.ledger.length 32 32)
    { s with bring := { b with ledger := [], clearGen := gen, oldCopy := b.ledger, oldGen := b.clearGen } }

/-- What the Cobbler reads for the clear form: its token. -/
def tokenReads (pl : Bytes) (_ : State) : List (Nat × Nat) := [(field pl 16 8, 576)]

/-- LEDGER_READ in its clear form. -/
def execLedgerClear (o : Origin) (rd : Remote) (s : State) : Host.Outcome State Fault Refusal :=
  match accepted s o 0x00A4 with
  | none => idle s
  | some a =>
    if field a.payload 0 1 = 1 then
      .next (readingCommand o 0x00A4 tokenReads rd (checkLedgerClear rd)
        (fun _ s => answerOk o [] (clearLedger s)) s)
    else idle s

end Sys2Proof.Machine
end

