-- ==== Sys2Proof/Machine/Power.lean ====
section
/-! DEFINITION. The power input (R28, R32, R35-R37), the latched shutdown and its record (R26, R36, R378, R448-R452), and
the PCIe link's own events (R27, R357, R374, R375). Voltages are in mV, currents in mA. -/

namespace Sys2Proof.Machine

/-! ### Latched shutdown -/

/-- Precedence of causes detected within one microsecond (R36). -/
def causeRank (cause : Nat) : Nat := match cause with | 1 => 0 | 2 => 1 | 3 => 2 | _ => 3

/-- The TS-2040 code of a native cause (Table 16.8). -/
def cause2040 (cause : Nat) : Nat := match cause with | 1 => 2 | 2 => 4 | 3 => 3 | _ => 1

/-- The record of a shutdown at its latch; its count is set when it is written (Table 16.10). -/
def shutdownRecord (cause unit peak : Nat) (s : State) : SdRec :=
  { cause2040 := cause2040 cause, peak := peak, inlet := degC s.coolant.inlet, vin := s.power.vin / 10
    resetGen := s.bring.resetGen, count := 0, cause := cause, unit := unit, flow := flowField s, time := now s }

/-- The first cause detected latches: the event, the emergency register, the alert, `therm_trip_n`; every rail but the
standby rail turns off, with all that it carries (R26, R378, R448, R450). What the sensors and the event window showed
stays in the standby domain. -/
def latchFirst (cause unit peak : Nat) (s : State) : State :=
  let r := shutdownRecord cause unit peak s
  let at' := now s
  let s := alert 0 (logEvent 0x0C01 0 (fld cause 0 8 + fld unit 8 8) s)
  let c := cleared s
  { c with
    power := { c.power with phase := .latched, thermTrip := true }
    thermal := s.thermal, coolant := s.coolant
    shut := { c.shut with cause := cause, unit := unit, latchAt := at', writing := some r } }

/-- SHUTDOWN_LATCHED renamed after a cause that stands before it (R36). -/
def renameLatch (data : Nat) (r : EvtRec) : EvtRec := if r.code = 0x0C01 then { r with data := data } else r

/-- A cause of the same microsecond that stands before the one recorded takes its place (R36). -/
def latchBetter (cause : Nat) (s : State) : State :=
  let r := shutdownRecord cause 0 0 s
  let fix := renameLatch (fld cause 0 8)
  let w := s.shut.writing.map fun o => { r with resetGen := o.resetGen, time := o.time }
  { s with
    shut := { s.shut with cause := cause, unit := 0, writing := w }
    ev := { s.ev with window := s.ev.window.map fun (k, v) => (k, v.map fix)
                      early := s.ev.early.map fix, recent := s.ev.recent.map fix } }

/-- A shutdown cause detected, `same` within the microsecond of the latch (R36). -/
def latch (cause unit peak : Nat) (same : Bool) (s : State) : State :=
  match s.power.phase with
  | .latched => if same && decide (causeRank cause < causeRank s.shut.cause) then latchBetter cause s else s
  | _ => latchFirst cause unit peak s

/-- A record entered into the ring of 16, newest first; none when its CRC fails (R451, R452). -/
def Shutdown.push (k : Shutdown) (r : Option SdRec) : Shutdown :=
  { k with ring := (r :: k.ring).take 16, writing := none }

/-- The pending record written whole (R451). -/
def Shutdown.record (k : Shutdown) (r : SdRec) : Shutdown :=
  let n := min 255 (k.count + 1)
  { (k.push (some { r with count := n })) with count := n }

/-- Whether a write that the loss of the standby rail may cut short ends in time: the spec says only that it may not
(R452). -/
def writeEnds (s : State) : Bool := (Config.freeWord s.fresh).getLsbD 0

/-- SHUTDOWN_RECORD_WRITE: with the input at or above 20 V the write ends (R452). -/
def execShutdownRecordWrite (s : State) : Host.Outcome State Fault Refusal :=
  match s.shut.writing with
  | none => idle s
  | some r =>
    if s.power.standby = false then idle s
    else if 20000 ≤ s.power.vin ∨ writeEnds s then .next { s with shut := s.shut.record r, fresh := s.fresh + 1 }
    else .next { s with shut := s.shut.push none, fresh := s.fresh + 1 }

/-! ### The input -/

/-- The start wait of R37 runs while its conditions hold. -/
def waits (vin : Nat) (p : Power) : Bool := p.phase == .off && p.standby && p.seatClosed && decide (49000 ≤ vin)

/-- The input voltage as the module now sees it. -/
def setVin (vin : Nat) (s : State) : State := { s with power := { s.power with vin := vin } }

/-- Beyond 72 V, the transient rating of Table 1.5, R32 gives no assurance. -/
def overRating (vin : Nat) : Bool := decide (72000 < vin)

/-- The input may rise: the module is off, or its standby rail was lost with the shutdown latch kept (log 150). -/
def mayPowerUp (p : Power) : Bool := p.phase == .off || (p.phase == .latched && !p.standby)

/-- POWER_APPLICATION: the input rises with the sense closed. From 20 V the standby rail starts, from 49 V the start wait
runs once the standby rail is up (R28, R37, Table 1.7). Under a kept latch only the standby rail can start. -/
def execPowerApplication (vin : Nat) (s : State) : Host.Outcome State Fault Refusal :=
  if overRating vin then .fault .beyondAbsoluteMaximum
  else if mayPowerUp s.power = false ∨ s.power.seatClosed = false ∨ vin < 20000 then idle s
  else .next { s with power := { s.power with vin := vin, startWait := waits vin s.power } }

/-- STANDBY_RAIL_REGULATION: `standby_pg` rises and the straps are sampled (R25, R28). -/
def execStandbyRailRegulation (straps : Nat) (s : State) : Host.Outcome State Fault Refusal :=
  if s.power.standby ∨ s.power.vin < 20000 ∨ s.power.seatClosed = false then idle s
  else
    let p := { s.power with standby := true, smbAddr := 0x58 + straps % 4, perstHigh := s.power.perstN }
    .next { s with power := { p with startWait := waits p.vin p } }

/-- START_WAIT_EXPIRY: bring-up begins as after a cold reset (R37, R405). -/
def execStartWaitExpiry (s : State) : Host.Outcome State Fault Refusal :=
  if s.power.startWait && waits s.power.vin s.power then .next (beginBringup 0 s) else idle s

/-- START_WAIT_RESTART: the input below 49 V, or the sense open; the wait runs again once its conditions hold (R37). -/
def execStartWaitRestart (vin : Nat) (seatOpen : Bool) (s : State) : Host.Outcome State Fault Refusal :=
  if overRating vin then .fault .beyondAbsoluteMaximum
  else if s.power.phase ≠ .off ∨ s.power.standby = false then idle s
  else
    let p := { s.power with vin := vin, seatClosed := !seatOpen }
    .next { s with power := { p with startWait := waits vin p } }

/-- OFF with the core rails off: all work and memory lost (R28). DEGRADED stays until the reset that rebuilds (R10). -/
def railsOff (s : State) : State :=
  let flags : Events := { degraded := s.ev.degraded, why := s.ev.why }
  let s := cleared s
  { s with power := { s.power with phase := .off }, ev := flags }

/-- The sense opens with the core rails up: only the standby rail stays, and the closing will be a cold reset (R28). -/
def seatDown (s : State) : State :=
  let s := railsOff s
  { s with power := { s.power with seatOff := true } }

/-- SEAT_SENSE_OPEN. -/
def execSeatSenseOpen (s : State) : Host.Outcome State Fault Refusal :=
  if s.power.seatClosed = false then idle s
  else
    let s := { s with power := { s.power with seatClosed := false, startWait := false } }
    .next (if s.power.coreRails then seatDown s else s)

/-- SEAT_SENSE_CLOSE: the start wait runs; after `seatDown` the closing is a cold reset (R28, Table 15.10). -/
def execSeatSenseClose (s : State) : Host.Outcome State Fault Refusal :=
  if s.power.seatClosed then idle s
  else
    let s := { s with power := { s.power with seatClosed := true } }
    let s := if s.power.seatOff ∧ s.power.phase = .off then coldStandby { s with power := { s.power with seatOff := false } } else s
    .next { s with power := { s.power with startWait := waits s.power.vin s.power } }

/-- INPUT_REMOVED: the latch clears, a cold reset (R28, R404, R421). -/
def execInputRemoved (vin : Nat) (s : State) : Host.Outcome State Fault Refusal :=
  if overRating vin then .fault .beyondAbsoluteMaximum
  else if 20000 ≤ vin ∧ s.power.seatClosed then idle s
  else
    let s := coldStandby (cleared s)
    .next { s with power := { s.power with
      phase := .off, vin := vin, iin := 0, standby := false, thermTrip := false, seatOff := false, smbAddr := 0 } }

/-- INPUT_UNDERVOLTAGE: below 47 V for more than 2 ms with the core rails up (Table 1.7). -/
def execInputUndervoltage (vin : Nat) (sameMicrosecond : Bool) (s : State) : Host.Outcome State Fault Refusal :=
  if 47000 ≤ vin ∨ s.power.standby = false ∨ (s.power.coreRails = false ∧ s.power.phase ≠ .latched) then idle s
  else .next (latch 3 0 0 sameMicrosecond (setVin vin s))

/-- A shutdown cause of the input: it latches from any state but OFF (Table 14.10; DEDUCED, log 69). -/
def latchInput (cause : Nat) (same : Bool) (s : State) : State :=
  if s.power.phase = .off then s else latch cause 0 0 same s

/-- INPUT_OVERVOLTAGE: above 63 V for more than 1 ms, watched while the standby rail is up (R35). -/
def execInputOvervoltage (vin : Nat) (sameMicrosecond : Bool) (s : State) : Host.Outcome State Fault Refusal :=
  if overRating vin then .fault .beyondAbsoluteMaximum
  else if vin ≤ 63000 ∨ s.power.standby = false then idle s
  else .next (latchInput 1 sameMicrosecond (setVin vin s))

/-- INPUT_OVERCURRENT: above 78 A for more than 1 ms. -/
def execInputOvercurrent (iin : Nat) (sameMicrosecond : Bool) (s : State) : Host.Outcome State Fault Refusal :=
  if iin ≤ 78000 ∨ s.power.standby = false then idle s
  else .next (latchInput 2 sameMicrosecond { s with power := { s.power with iin := iin } })

/-- STANDBY_RAIL_LOST: below 20 V the standby rail is lost, with whatever rails still ran; a record being written may be
cut short (R452). A loss shorter than the 100 ms of a removal keeps the shutdown latch with `therm_trip_n`, the
telemetry set, the samples and DEGRADED, and leaves any other state in OFF (DESIGN CHOICE, log 150: the spec is silent). -/
def execStandbyRailLost (vin : Nat) (s : State) : Host.Outcome State Fault Refusal :=
  if 20000 ≤ vin ∨ s.power.standby = false then idle s
  else
    let s := match s.shut.writing with
      | some r => { s with shut := if writeEnds s then s.shut.record r else s.shut.push none, fresh := s.fresh + 1 }
      | none => s
    let s := match s.power.phase with
      | .bringup _ | .up => railsOff s
      | _ => s
    .next { s with power := { s.power with standby := false, startWait := false, vin := vin } }

/-! ### The PCIe link -/

/-- PERST_PULSE: a PERST# reset; none in SHUTDOWN_LATCHED, and none before `perst_n` has been high (R374). -/
def execPerstPulse (s : State) : Host.Outcome State Fault Refusal :=
  let low (p : Power) : Power := { p with perstN := false }
  let s' := { s with power := low s.power, pcie := { s.pcie with link := false, training := false } }
  if s.power.perstHigh then .next (rerun 1 s') else .next s'

/-- PERST_DEASSERT: the port begins to train, or does so once VPHY is up (R375). -/
def execPerstDeassert (s : State) : Host.Outcome State Fault Refusal :=
  .next { s with
    power := { s.power with perstN := true, perstHigh := s.power.standby }
    pcie := { s.pcie with training := s.power.coreRails && !s.pcie.link } }

/-- Speeds 2.5 to 64.0 GT/s as codes 1 to 6, and widths (Table 13.1). -/
def linkForm (speed width : Nat) : Bool := decide (1 ≤ speed) && decide (speed ≤ 6) && [1, 2, 4, 8, 16].contains width

/-- PCIE_LINK_UP: training ends at a speed, a width and with or without Flit mode, without which 32.0 GT/s is the highest; a
reduced link is logged once a training (R356, R357). -/
def execPcieLinkUp (speed width : Nat) (flit : Bool) (s : State) : Host.Outcome State Fault Refusal :=
  if s.pcie.training = false ∨ s.power.coreRails = false ∨ s.power.perstN = false ∨ linkForm speed width = false then idle s
  else
    let speed := if flit then speed else min speed 5
    let s := { s with pcie := { s.pcie with link := true, training := false, speed := speed, width := width, flit := flit } }
    .next (flushHost (if speed < 6 ∨ width < 16 then logEvent 0x0A01 0x9000 (fld speed 0 4 + fld width 4 5) s else s))

end Sys2Proof.Machine
end

