-- ==== Sys2Proof/Machine/Thermal.lean ====
section
/-! DEFINITION. Sensors, thresholds, the thermal governor and THERMAL_HOLD (R424-R439, R448, R453). Temperatures are in
thousandths of a degree. Groups: hot spots 0-31, tiers 32-39, side stacks 40-51. -/

namespace Sys2Proof.Machine

/-! ### Groups and thresholds -/

/-- Table 16.2. -/
def warnAt (g : Nat) : Int := if g < 32 then 95000 else 85000
def throttleAt (g : Nat) : Int := if g < 32 then 105000 else 95000
def shutdownAt (g : Nat) : Int := if g < 32 then 118000 else 105000

/-- A group's number; none for the coolant and for groups that do not exist. -/
def groupIndex : Group → Option Nat
  | .hot h => if h < 32 then some h else none
  | .tier m => if 1 ≤ m ∧ m ≤ 8 then some (31 + m) else none
  | .side i => if i < 12 then some (40 + i) else none
  | .coolant => none

/-- EVT.SOURCE of a group: a hot spot's cluster, the tier, the side stack (Table 16.1). -/
def groupSource (g : Nat) : Nat :=
  if g < 32 then 0x2000 + g / 2 else if g < 40 then 0x4000 + (g - 31) else 0x6000 + (g - 40)

/-- The numbers of a group's sensors. -/
def groupSensors (g : Nat) : List Nat :=
  if g < 32 then [2 * g, 2 * g + 1]
  else if g < 40 then (List.range 16).map fun i => 64 + 16 * (g - 32) + i
  else (List.range 4).map fun i => 192 + 4 * (g - 40) + i

/-- The number of a sensor; none for one that does not exist. -/
def sensorKey (r : Reading) : Option Nat :=
  match r.group, groupIndex r.group with
  | .coolant, _ => if r.idx < 2 then some (240 + r.idx) else none
  | _, some g => (groupSensors g)[r.idx]?
  | _, none => none

/-- Source and index of SENSOR_FAILED (Table 18.4): a hot spot's sensors are counted within the cluster (log 67). -/
def sensorPlace (k : Nat) : Nat × Nat :=
  if k < 64 then (0x2000 + k / 4, k % 4)
  else if k < 192 then (0x4001 + (k - 64) / 16, (k - 64) % 16)
  else if k < 240 then (0x6000 + (k - 192) / 4, (k - 192) % 4)
  else (0x0000, k - 240)

/-! ### Sensors -/

/-- A sensor has failed. -/
def failedSensor (s : State) (k : Nat) : Bool := Tab.get false s.thermal.failed k

/-- A sensor drops out (R426): logged once; a hot spot's pair is flagged. -/
def failSensor (k : Nat) (s : State) : State :=
  if failedSensor s k then s
  else
    let s := { s with thermal := { s.thermal with
      failed := Tab.set false s.thermal.failed k true
      flagged := if k < 64 then Tab.set false s.thermal.flagged (k / 2) true else s.thermal.flagged } }
    logEvent 0x0C07 (sensorPlace k).1 (fld (sensorPlace k).2 0 8) s

/-- A reading taken: out of range or missing, the sensor has failed (R426). A failed sensor is not read again. -/
def takeReading (s : State) (r : Reading) : State :=
  match sensorKey r with
  | none => s
  | some k =>
    if failedSensor s k then s
    else match r.value with
      | none => failSensor k s
      | some v =>
        if v < -20000 ∨ 150000 < v then failSensor k s
        else { s with thermal := { s.thermal with reading := Tab.set 0 s.thermal.reading k v } }

/-- A group's temperature (R425-R427, R439). -/
def judgeGroup (s : State) (g : Nat) : Int :=
  let t := s.thermal
  let live := (groupSensors g).filter fun k => !Tab.get false t.failed k
  let vs := live.map fun k => Tab.get 0 t.reading k
  if 32 ≤ g && g < 40 && Tab.get false t.suspect (g - 32) then Tab.get 0 t.estimate (g - 32) + 5000
  else match vs with
    | [] => Tab.get 0 t.present g + 5000
    | [v] => v
    | [a, b] => if g < 32 && !Tab.get false t.flagged g then (a + b) / 2 else max a b
    | vs => hottest vs

/-- Every group judged anew. -/
def judgeAll (s : State) : State :=
  { s with thermal := { s.thermal with temp := Tab.setMany 0 s.thermal.temp (List.range 52) (judgeGroup s) } }

/-! ### Warnings and notices -/

/-- A group's Warning raised or cleared (R429). -/
def setWarning (g : Nat) (up : Bool) (s : State) : State :=
  let s := { s with thermal := { s.thermal with warn := Tab.set false s.thermal.warn g up } }
  let s := logEvent 0x0C03 (groupSource g) (fld (degC (groupTemp s g)) 0 8 + fld (b2n up) 8 1) s
  raise 1 (if up then alert 1 s else s)

/-- A group's prediction 8 ms ahead. -/
def aheadOf (s : State) (g : Nat) : Int := Tab.get 0 s.thermal.ahead g

/-- THERMAL_THROTTLE, at most once in 100 ms for a group (R433). -/
def logThrottle (g : Nat) (up : Bool) (s : State) : State :=
  let last := Tab.get 0 s.thermal.throtLog g
  if last ≠ 0 ∧ now s < last - 1 + 10 ^ 8 then s
  else
    let d := fld (degC (groupTemp s g)) 0 8 + fld (degC (aheadOf s g)) 8 8 + fld (b2n up) 16 1
    logEvent 0x0C04 (groupSource g) d { s with thermal := { s.thermal with throtLog := Tab.set 0 s.thermal.throtLog g (now s + 1) } }

/-- A Throttle condition arises or clears. It arises when a group's temperature reaches the threshold (R428) and with the
governor's first action on the group (R433; log 79). -/
def setThrottle (g : Nat) (up : Bool) (s : State) : State :=
  logThrottle g up { s with thermal := { s.thermal with throttle := Tab.set false s.thermal.throttle g up } }

/-- Throttle conditions that arise from the temperature alone (R428). -/
def throttleAll (s : State) : State :=
  (List.range 52).foldl (fun s g =>
    if !Tab.get false s.thermal.throttle g && decide (throttleAt g ≤ groupTemp s g) then setThrottle g true s else s) s

/-- Warnings that arise (R428). -/
def warnAll (s : State) : State :=
  (List.range 52).foldl (fun s g =>
    if !Tab.get false s.thermal.warn g && decide (warnAt g ≤ groupTemp s g) then setWarning g true s else s) s

/-- A notice (R453): once, and again only after a fall of 5 degrees. Entry 0 is the base die, 1 to 8 the tiers. -/
def notice (n limit : Nat) (temp : Int) (src : Nat) (s : State) : State :=
  let was := Tab.get false s.thermal.noticed n
  let set (b : Bool) (s : State) : State := { s with thermal := { s.thermal with noticed := Tab.set false s.thermal.noticed n b } }
  if limit = 0 then s
  else if !was && decide ((limit : Int) * 1000 ≤ temp) then logEvent 0x0C02 src (fld (degC temp) 0 8) (set true s)
  else if was && decide (temp ≤ (limit : Int) * 1000 - 5000) then set false s
  else s

/-- The hot spot that is hottest. -/
def hotSpot (s : State) : Nat :=
  (List.range 32).foldl (fun b h => if groupTemp s b < groupTemp s h then h else b) 0

/-- Every notice. -/
def noticeAll (s : State) : State :=
  let s := notice 0 s.thermal.nBase (tempBase s) (groupSource (hotSpot s)) s
  (List.range 8).foldl (fun s i => notice (1 + i) s.thermal.nTier (groupTemp s (32 + i)) (groupSource (32 + i)) s) s

/-- Refresh bands that rise with a tier's temperature, at once (R182, R183). -/
def bandsUp (s : State) : State :=
  (List.range 8).foldl (fun s i =>
    let b := bandOf (groupTemp s (32 + i))
    if !(tierOf s i).forced && decide ((tierOf s i).band < b) then setBand i b false s else s) s

/-! ### Coolant temperatures (R445) -/

/-- A coolant Warning raised (R444): pump to 100 %, event, alert 1, vector 1. -/
def raiseCoolantWarning (s : State) : State :=
  let k := s.coolant
  let s := { s with coolant := { k with pump := 100 } }
  raise 1 (alert 1 (logEvent 0x0C09 0 (fld (flowField s) 0 16 + fld (degC k.inlet) 16 8 + fld (degC k.outlet) 24 8 + fld 1 32 1) s))

/-- The Warning of R445, which lasts until the next bring-up. -/
def stickyWarning (s : State) : State :=
  let s' := { s with coolant := { s.coolant with sticky := true } }
  if coolantWarn s then s' else raiseCoolantWarning s'

/-- Rise of the coolant at a power and a flow: power / (flow x 67 W/(K.L/min)) (R445). -/
def coolantRise (watts flow : Nat) : Int := ((watts * 1000000 / (flow * 67) : Nat) : Int)

/-- The inlet and outlet as the module takes them (R445). A temperature that the rule does not give is free. -/
def coolantTemps (s : State) : State :=
  let k := s.coolant
  let read (i : Nat) : Int := Tab.get 0 s.thermal.reading (240 + i)
  let rise := coolantRise s.pace.power k.flow
  let some' := k.flow ≠ 0 ∧ failedSensor s 242 = false
  let free := (Config.freeWord s.fresh).toInt
  let set (a b : Int) (s : State) : State := { s with coolant := { s.coolant with inlet := a, outlet := b } }
  match failedSensor s 240, failedSensor s 241 with
  | false, false => set (read 0) (read 1) s
  | false, true => if some' then set (read 0) (read 0 + rise) s else { (set (read 0) free s) with fresh := s.fresh + 1 }
  | true, false => if some' then set (read 1 - rise) (read 1) s else { (set free (read 1) s) with fresh := s.fresh + 1 }
  | true, true =>
    if some' then set 40000 (40000 + rise) s
    else if failedSensor s 242 then { (set free (Config.freeWord (s.fresh + 1)).toInt s) with fresh := s.fresh + 2 }
    else { (set 40000 free s) with fresh := s.fresh + 1 }

/-! ### Latched shutdown (R448) -/

/-- Consecutive samples of each group at its shutdown threshold. -/
def countHot (s : State) : State :=
  let n (g : Nat) : Nat := if shutdownAt g ≤ groupTemp s g then min 2 (Tab.get 0 s.thermal.hot g + 1) else 0
  { s with thermal := { s.thermal with hot := Tab.setMany 0 s.thermal.hot (List.range 52) n } }

/-- Cause and unit of a group's shutdown (Tables 16.8, 16.10). -/
def shutdownCause (g : Nat) : Nat × Nat :=
  if g < 32 then (0x10, g / 2) else if g < 40 then (0x11, g - 31) else (0x12, g - 40)

/-- The first group, base die before tiers before side stacks, that has reached its threshold twice latches, from any state
but OFF (Table 14.10). -/
def latchHot (s : State) : State :=
  match (List.range 52).find? fun g => Tab.get 0 s.thermal.hot g == 2 with
  | some g =>
    if s.power.phase = .off then s else latch (shutdownCause g).1 (shutdownCause g).2 (degC (groupTemp s g)) false s
  | none => s

/-- The highest temperature of every timing domain (Table 18.12). -/
def noteHighest (s : State) : State :=
  (List.range 36).foldl (fun s n => setGauge 6 n 6 (fun g => max (degC (domainTemp s n)) (g.getD 0)) s) s

/-- SENSOR_SAMPLE (R424): readings, temperatures, Warnings, Throttle conditions, bands, notices and the shutdown threshold.
The standby rail feeds the sensors (Table 2.5). -/
def execSensorSample (rs : List Reading) (s : State) : Host.Outcome State Fault Refusal :=
  if s.power.standby = false then idle s
  else
    let s := rs.foldl takeReading s
    let s := noteHighest (coolantTemps (judgeAll s))
    let s := if failedSensor s 240 || failedSensor s 241 then stickyWarning s else s
    let s := warnAll s
    .next (latchHot (countHot (if s.power.coreRails then noticeAll (bandsUp (throttleAll s)) else s)))

/-- SENSOR_DISAGREE: a pair has differed by more than 6 degrees for 100 ms (R425). -/
def execSensorDisagree (h : Nat) (s : State) : Host.Outcome State Fault Refusal :=
  let a := Tab.get 0 s.thermal.reading (2 * h)
  let b := Tab.get 0 s.thermal.reading (2 * h + 1)
  if 32 ≤ h ∨ s.power.standby = false ∨ Tab.get false s.thermal.flagged h ∨ (a ≤ b + 6000 ∧ b ≤ a + 6000) then idle s
  else
    let s := { s with thermal := { s.thermal with flagged := Tab.set false s.thermal.flagged h true
                                                  temp := Tab.set 0 s.thermal.temp h (max a b) } }
    .next (logEvent 0x0C06 (groupSource h) (fld h 0 5 + fld (degC a) 8 8 + fld (degC b) 16 8) s)

/-- A tier reads within 3 degrees of its uncorrected estimate; numbers outside 0 to 7 stand for the base die and for no tier,
which count as doing so (R439). -/
def tierAgrees (s : State) (i : Nat) : Bool :=
  let e := Tab.get 0 s.thermal.estimate i
  let t := groupTemp s (32 + i)
  decide (8 ≤ i) || (decide (t ≤ e + 3000) && decide (e ≤ t + 3000))

/-- The neighbours of tier M(i + 1) agree with their estimates. -/
def neighboursAgree (s : State) (i : Nat) : Bool := (i == 0 || tierAgrees s (i - 1)) && tierAgrees s (i + 1)

/-- TIER_SENSOR_SUSPECT: a tier has read more than 8 degrees below its estimate for 1 s, and its neighbours agree with theirs
(R439). -/
def execTierSensorSuspect (m : Nat) (estimate : Int) (s : State) : Host.Outcome State Fault Refusal :=
  if m = 0 ∨ 8 < m ∨ s.power.coreRails = false ∨ Tab.get false s.thermal.suspect (m - 1)
      ∨ estimate ≤ groupTemp s (31 + m) + 8000 ∨ neighboursAgree s (m - 1) = false then idle s
  else
    let was := groupTemp s (31 + m)
    let s := { s with thermal := { s.thermal with
      suspect := Tab.set false s.thermal.suspect (m - 1) true
      estimate := Tab.set 0 s.thermal.estimate (m - 1) estimate
      temp := Tab.set 0 s.thermal.temp (31 + m) (estimate + 5000) } }
    .next (logEvent 0x0C08 (groupSource (31 + m)) (fld (degC was) 0 8 + fld (degC estimate) 8 8) (setBand (m - 1) 2 true s))

/-! ### The thermal governor (R431-R434) -/

/-- A group's target (R431). -/
def targetOf (s : State) (g : Nat) : Int := throttleAt g - ((Tab.get 0 s.thermal.gap g : Nat) : Int)

/-- Least activity level that the governors leave, in quarters. -/
def actRoom (s : State) : Nat := actLimit s.pace.point - 1

/-- What an action first lowers from: the present value (Table 16.4). -/
def coreOff (s : State) (c : Nat) : Nat := coreTarget s.pace.point - Tab.get 0 s.pace.vcore c
def tierOff (s : State) (i : Nat) : Nat := tierTarget s.pace.point - Tab.get 0 s.pace.vtier i

/-- Room of a group's first action, in mV: from its rail's target to the floor. -/
def railRoom (s : State) (g : Nat) : Nat :=
  if g < 32 then coreTarget s.pace.point - 600 else if g < 40 then tierTarget s.pace.point - 950 else 0
def coreRoom (s : State) : Nat := coreTarget s.pace.point - 600

/-- One step of a rail action: 5 mV from where it is held, or from the present value at its first step. -/
def railStep (held now' room : Nat) : Nat := min room ((if held = 0 then now' else held) + 5)

/-- One step of the activity action. -/
def actStep (s : State) (h : Held) : Held :=
  let at' := if h.act = 0 then actLimit s.pace.point - s.pace.actLevel else h.act
  { h with act := min (actRoom s) (at' + 1) }

/-- The next step of a side stack's limit below its present one: 70 %, then 40 %. -/
def limStep (s : State) (h : Held) : Nat :=
  let now' := min (sideLimit s.pace.point) (match h.lim with | 0 => 100 | 1 => 70 | _ => 40)
  if 70 < now' then 1 else 2

/-- A side stack's limit stands above the last step. -/
def limOpen (s : State) (h : Held) : Bool := decide (h.lim < 2) && decide (40 < sideLimit s.pace.point)

/-- The first open action of a group (R432, Table 16.4); `act` and `lim` say whether those paces allow a step now. -/
def lower (s : State) (g : Nat) (act lim : Bool) (h : Held) : Held :=
  if g < 32 then
    if h.rail < railRoom s g then { h with rail := railStep h.rail (coreOff s (g / 2)) (railRoom s g) }
    else if act && decide (h.act < actRoom s) then actStep s h else h
  else if g < 40 then
    if h.rail < railRoom s g then { h with rail := railStep h.rail (tierOff s (g - 32)) (railRoom s g) }
    else if h.core < coreRoom s then { h with core := railStep h.core (allCoreOff s.pace) (coreRoom s) }
    else if act && decide (h.act < actRoom s) then actStep s h else h
  else if lim && limOpen s h then { h with lim := limStep s h } else h

/-- The last action released by one step (R433). -/
def release (s : State) (g : Nat) (act lim : Bool) (h : Held) : Held :=
  if 0 < h.act then (if act then { h with act := h.act - 1 } else h)
  else if 0 < h.core then { h with core := min (coreRoom s) h.core - 5 }
  else if 0 < h.rail then { h with rail := min (railRoom s g) h.rail - 5 }
  else if 0 < h.lim ∧ lim then
    { h with lim := if sideLimit s.pace.point ≤ 70 then 0 else h.lim - 1 }
  else h

/-- What the governor does for one group at a tick. -/
def governGroup (act : Bool) (s : State) (g : Nat) : State :=
  let lim := g < 40 || Tab.get 0 s.thermal.limWait (g - 40) == 0
  let h := heldOf s g
  let p := aheadOf s g
  let t := targetOf s g
  let h' := if t < p then lower s g act lim h
    else if p ≤ t - 2000 ∧ s.pace.emerg = false then release s g act lim h
    else h
  let wait (k : Thermal) : Thermal := { k with
    acts := Tab.set {} k.acts g h'
    actWait := if h'.act = h.act then k.actWait else 4
    limWait := if h'.lim = h.lim then k.limWait else Tab.set 0 k.limWait (g - 40) 40 }
  let s := { s with thermal := wait s.thermal }
  if t < p ∧ h' ≠ h ∧ Tab.get false s.thermal.throttle g = false then setThrottle g true s else s

/-! ### THERMAL_HOLD (R435-R438) -/

/-- The hold is entered: 0 on a prediction, 1 on COOLANT_LOSS. -/
def enterHold (cause tts : Nat) (s : State) : State :=
  if s.thermal.hold then { s with thermal := { s.thermal with holdLoss := s.thermal.holdLoss || cause == 1 } }
  else
    let s := rampDown { s with thermal := { s.thermal with hold := true, holdLoss := cause == 1, tts := tts } }
    let s := logEvent 0x0C05 0 (1 + fld cause 1 1 + fld tts 32 32) s
    govern 1 2 (raise 1 (alert 2 s))

/-- The conditions of R437. -/
def holdEnds (s : State) : Bool :=
  !s.coolant.loss && (List.range 52).all fun g =>
    decide (groupTemp s g ≤ throttleAt g - 5000) && decide (Tab.get 0 s.thermal.idle g < throttleAt g)

/-- The rail actions of Table 16.4 of a group, all at their limits. -/
def floorActs (s : State) (g : Nat) (h : Held) : Held :=
  { h with rail := railRoom s g, core := if 32 ≤ g ∧ g < 40 then coreRoom s else h.core }

/-- What the power governor holds when a hold ends: the floors and the least activity, which it releases as the allowance
lets it (R437, R66; DESIGN CHOICE, log 176). -/
def holdPower (s : State) : State :=
  { s with pace := { s.pace with govRail := coreRoom s, govAct := actRoom s } }

/-- The hold ends: targets restart at the present temperatures, and the floors are the governor's rail actions, with which
the groups' Throttle conditions arise (R431, R433, R437). -/
def leaveHold (s : State) : State :=
  let cause := b2n s.thermal.holdLoss
  let k := s.thermal
  let acts := Tab.setMany {} k.acts (List.range 40) fun g => floorActs s g (heldOf s g)
  let gap := Tab.setMany 0 k.gap (List.range 52) fun g => (throttleAt g - groupTemp s g).toNat
  let s := wakeAwls (holdPower { s with thermal := { k with
    hold := false, holdLoss := false, tts := 0xFFFFFFFF, acts := acts, gap := gap } })
  let s := (List.range 40).foldl (fun s g =>
    if Tab.get false s.thermal.throttle g || heldOf s g == ({} : Held) then s else setThrottle g true s) s
  raise 1 (logEvent 0x0C05 0 (fld cause 1 1 + fld 0xFFFFFFFF 32 32) s)

/-- Time to shutdown as published: none within 600 s reads all ones (R438). -/
def ttsOf (ms : Option Nat) : Nat :=
  match ms with
  | some n => if n ≤ 600000 then n else 0xFFFFFFFF
  | none => 0xFFFFFFFF

/-- One group's outputs of the model. -/
def takePrediction (s : State) (p : Prediction) : State :=
  match groupIndex p.group with
  | none => s
  | some g =>
    let k := s.thermal
    let sus := 32 ≤ g && g < 40 && Tab.get false k.suspect (g - 32)
    { s with thermal := { k with
        ahead := Tab.set 0 k.ahead g p.ahead, idle := Tab.set 0 k.idle g p.idle, present := Tab.set 0 k.present g p.present
        estimate := if 32 ≤ g ∧ g < 40 then Tab.set 0 k.estimate (g - 32) p.uncorrected else k.estimate
        temp := if sus then Tab.set 0 k.temp g (p.uncorrected + 5000) else k.temp } }

/-- A tick's passing: targets rise, and the paces of Table 16.4 count down. -/
def countDown (s : State) : State :=
  let k := s.thermal
  { s with thermal := { k with
      gap := Tab.setMany 0 k.gap (k.gap.map (·.1)) fun g => Tab.get 0 k.gap g - 1
      actWait := k.actWait - 1
      limWait := Tab.setMany 0 k.limWait (k.limWait.map (·.1)) fun i => Tab.get 0 k.limWait i - 1 } }

/-- THERMAL_MODEL_TICK. -/
def execThermalModelTick (ps : List Prediction) (ttsMs : Option Nat) (s : State) : Host.Outcome State Fault Refusal :=
  if s.power.coreRails = false then idle s
  else
    let s := countDown (ps.foldl takePrediction s)
    let act := s.thermal.actWait == 0
    let s := (List.range 52).foldl (governGroup act) s
    if s.thermal.hold then
      let s := { s with thermal := { s.thermal with tts := ttsOf ttsMs } }
      .next (govern 2 2 (if holdEnds s then leaveHold s else s))
    else if (List.range 52).any fun g => decide (shutdownAt g - 3000 ≤ aheadOf s g) then .next (enterHold 0 (ttsOf ttsMs) s)
    else .next (govern 2 2 s)

/-- THRESHOLD_CLEAR: 100 ms at or below a threshold less 5 degrees (R428, R433). -/
def execThresholdClear (g : Group) (throttle : Bool) (s : State) : Host.Outcome State Fault Refusal :=
  match groupIndex g with
  | none => idle s
  | some g =>
    if s.power.standby = false then idle s
    else if throttle then
      if Tab.get false s.thermal.throttle g && decide (heldOf s g = ({} : Held)) && decide (groupTemp s g ≤ throttleAt g - 5000) then
        .next (setThrottle g false s)
      else idle s
    else if Tab.get false s.thermal.warn g && decide (groupTemp s g ≤ warnAt g - 5000) then .next (setWarning g false s)
    else idle s

/-! ### THERMAL_CFG and reports -/

/-- 0, or within limits. -/
def zeroOr (lo hi v : Nat) : Bool := v == 0 || (decide (lo ≤ v) && decide (v ≤ hi))

/-- Check of THERMAL_CFG. -/
def checkThermalCfg (pl : Bytes) (_ : State) : List Fail :=
  reservedFail (pl.take 8) [(0, 8), (8, 8), (32, 32)]
    ++ failIf (!zeroOr 60 94 (field pl 0 1)) 0x0104 (some 0) ++ failIf (!zeroOr 60 84 (field pl 1 1)) 0x0104 (some 8)
    ++ failIf (!zeroOr 10 60000 (field pl 4 4)) 0x0104 (some 32)

/-- THERMAL_CFG (R453). -/
def execThermalCfg (o : Origin) (s : State) : Host.Outcome State Fault Refusal :=
  .next (command o 0x00C0 checkThermalCfg (fun pl s =>
    let k := { s.thermal with nBase := field pl 0 1, nTier := field pl 1 1, reportMs := field pl 4 4, noticed := [] }
    noticeAll (answerOk o [] { s with thermal := k })) s)

/-- THERMAL_REPORT (R453). -/
def execThermalReport (s : State) : Host.Outcome State Fault Refusal :=
  if s.thermal.reportMs = 0 ∨ s.power.coreRails = false then idle s
  else
    let k := s.coolant
    .next (logEvent 0x0C0C 0 (fld (degC (tempBase s)) 0 8 + fld (degC (tempTier s)) 8 8 + fld (degC (tempSide s)) 16 8
      + fld (degC k.inlet) 24 8 + fld (degC k.outlet) 32 8 + fld (flowField s) 40 16 + fld k.pump 56 8 + fld k.valve 64 8) s)

end Sys2Proof.Machine
end

