-- ==== Sys2Proof/Machine/BringUp.lean ====
section
/-! DEFINITION. The bring-up stages and their reports (R405-R409), the boot chain of stage 0 (R461), the fitting and the
ledger (R410-R416), the coolant wait (R41), the stage measurements (R469), READY with the confirmation of a trial image
(R465), and the Cobbler watchdog (R422). -/

namespace Sys2Proof.Machine

/-! ### Reports -/

/-- A stage's report changed. -/
def setReport (n : Nat) (f : StageReport → StageReport) (s : State) : State :=
  { s with bring := { s.bring with reports := Tab.upd {} s.bring.reports n f } }

/-- A stage starts (R409). -/
def startStage (n : Nat) (s : State) : State :=
  setReport n (fun r => { r with result := 1, resetGen := s.bring.resetGen })
    { s with power := { s.power with phase := .bringup n, stageFailed := false }, bring := { s.bring with stageNs := 0 } }

/-- A stage is running: it has started and has not ended. -/
def inStage (s : State) (n : Nat) : Bool := s.power.phase == .bringup n && !s.power.stageFailed

/-- A stage ends failed: the module stays where it is (R406). -/
def failStage (n cause us : Nat) (s : State) : State :=
  let s := setReport n (fun r => { r with result := 4, cause := cause, us := us % 2 ^ 32, ledger := s.bring.ledger.length }) s
  logEvent 0x0B02 0 (fld n 0 8 + fld cause 16 16) { s with power := { s.power with stageFailed := true } }

/-- A stage ends with a pass result (Table 15.3). -/
def passStage (n us : Nat) (s : State) : State :=
  setReport n (fun r => { r with
    result := if r.added ≠ 0 ∨ r.excluded ≠ 0 ∨ r.reduced ≠ 0 then 3 else 2
    us := us % 2 ^ 32, ledger := s.bring.ledger.length }) s

/-- A stage's measurement (R469). -/
def measureStage (n : Nat) (bs : Bytes) (s : State) : State :=
  let d := sha512 bs
  { s with fw := { s.fw with stageMeas := Tab.set [] s.fw.stageMeas n d } }

/-! ### Stage 0 -/

/-- A selector after the ROM's reading of its trial count (step 2 of Table 17.4), and whether the ROM reverted. -/
def Firmware.countTrial (f : Firmware) : Firmware × Bool :=
  if f.sel.trial = false then (f, false)
  else if 3 ≤ f.sel.count then (f.select (1 - f.sel.active) false 0, true)
  else (f.select f.sel.active true (f.sel.count + 1), false)

/-- What FW_REVERTED reports: version left, version now active, whether verification failed. -/
structure Revert where
  left   : Nat
  active : Nat
  bad    : Bool
  deriving DecidableEq, Repr

/-- The boot chain (R461): the selector as it leaves it, and a revert; none when no image verifies. `ok` says of each
slot that the flash holds it intact. -/
def Firmware.boot (f : Firmware) (ok : Nat → Bool) : Option (Firmware × Option Revert) :=
  let old := f.sel.active
  let c := f.countTrial
  let g := c.1
  let good (n : Nat) : Bool := ok n && (g.slot n).verifies g.rollback
  let ver (n : Nat) : Nat := (g.slot n).version
  let a := g.sel.active
  if good a then some (g, if c.2 then some ⟨ver old, ver a, false⟩ else none)
  else if good (1 - a) then some (g.select (1 - a) false 0, some ⟨ver a, ver (1 - a), true⟩)
  else none

/-- A confirmed image raises the rollback counter to its level (step 5 of Table 17.4, R465). -/
def Firmware.advance (f : Firmware) : Firmware :=
  let level := min 64 (imgRollback (f.slot f.sel.active).data)
  if f.sel.trial = false ∧ f.rollback < level then { f with rollback := level } else f

/-- What the rails' ramp brings (R405, R461): the timebase still at 0, operating voltages, the PCIe port out of reset; the
events that firmware logs in stage 1 (R461, R422). -/
def rampUp (rev : Option Revert) (s : State) : State :=
  let s := { s with
    power := { s.power with coreRails := true }
    timebase := 0
    pace := { s.pace with allow := idlePower 0 }
    pcie := { s.pcie with training := s.power.perstN } }
  let s := govern 3 3 s
  let s := match rev with
    | some r => logEvent 0x0B07 0 (fld r.left 0 32 + fld r.active 32 32 + fld (b2n r.bad) 64 1) s
    | none => s
  match s.bring.watchdog with
  | some m => logEvent 0x0B03 0xB000 (fld (b2n m) 0 1) { s with bring := { s.bring with watchdog := none } }
  | none => s

/-- The selector that a start uses: of the copies whose CRC holds the one of higher generation, which then counts as the newer
(R460); with neither, slot A without a trial (DESIGN CHOICE, log 177). -/
def Firmware.pickSelector (f : Firmware) (c : FlashCheck) : Firmware :=
  match c.sel, c.other with
  | true, true => if f.sel.gen < f.oldSel.gen then { f with sel := f.oldSel, oldSel := f.sel } else f
  | true, false => f
  | false, true => { f with sel := f.oldSel, oldSel := f.sel }
  | false, false => { f with sel := {} }

/-- A list less the entries at some places. -/
def dropAt (bad : List Nat) (es : List LedgerEntry) : List LedgerEntry :=
  (es.zipIdx.filter fun (_, i) => !bad.contains i).map (·.1)

/-- The ledger copy that a start uses (R416): entries whose CRC fails are ignored; the higher clear generation, and within one
the higher count. -/
def BringUp.pickLedger (b : BringUp) (c : FlashCheck) : BringUp :=
  let a := dropAt c.bad b.ledger
  let o := dropAt c.otherBad b.oldCopy
  if b.clearGen < b.oldGen ∨ (b.clearGen = b.oldGen ∧ a.length < o.length) then
    { b with ledger := o, clearGen := b.oldGen, oldCopy := a, oldGen := b.clearGen }
  else { b with ledger := a, oldCopy := o }

/-- STAGE_0_END: `flash` says which slots the flash holds intact, and what of the selector's and the ledger's copies. The core
rails come up at the start of stage 1, where R28 acts on an open seat sense. -/
def execStage0End (flash : FlashCheck) (us : Nat) (s : State) : Host.Outcome State Fault Refusal :=
  if inStage s 0 = false then idle s
  else
    let s := { s with fw := s.fw.pickSelector flash, bring := s.bring.pickLedger flash }
    match s.fw.boot (fun n => if n = 0 then flash.slotA else flash.slotB) with
    | none => .next (failStage 0 0x0101 us { s with fw := s.fw.countTrial.1 })
    | some (f, rev) =>
      let f := f.advance
      let n := f.sel.active
      let data := (f.slot n).data
      let s := { s with fw := { f with running := n }, power := { s.power with imageUp := true } }
      let s := measureStage 0 (natLE 4 Config.romVersion.toNat ++ slice data 0 1536) s
      let s := setReport 0 (fun r => { r with detail := fld n 0 1 + fld (fwActive s) 8 32 }) s
      let s := rampUp rev (startStage 1 (passStage 0 us s))
      .next (if s.power.seatClosed then s else seatDown s)

/-! ### Stage 1 -/

/-- Every rail of Table 15.4. -/
def allRails : Nat := 2 ^ 27 - 1

/-- The records kept for the end of stage 1 enter the window, with what they raise (R476, R477). -/
def openWindow (s : State) : State :=
  let early := s.ev.early
  let window := early.foldl (fun w r => Tab.insert w (r.seq % 256) (some r)) s.ev.window
  early.foldl (fun s r => announce r s) { s with ev := { s.ev with window := window, early := [] } }

/-- Flow that stage 2 needs, in mL/min (R41). -/
def flowNeeded : Nat := 2500

/-! ### The fitting -/

/-- The ledger as the fitting extends it: entries added, and whether one found no place. -/
structure Fit where
  bring : BringUp
  added : Nat := 0
  full  : Bool := false
  deriving DecidableEq, Repr

/-- The ledger names a unit. -/
def BringUp.names (b : BringUp) (h : Hint) : Bool :=
  b.ledger.any fun e => e.kind == h.kind && e.unit == h.unit && e.sub == h.sub && e.bank == h.bank && e.row == h.row

/-- An entry for a unit that failed and that the ledger does not name (R414); it goes to both copies (R416). -/
def Fit.add (stage : Nat) (f : Fit) (h : Hint) : Fit :=
  let b := f.bring
  if b.names h then f
  else if b.ledger.length < ledgerMax then
    let e : LedgerEntry := ⟨h.kind, stage, h.unit, h.sub, h.bank, h.row, b.resetGen⟩
    let other := (b.oldCopy ++ [e]).take ledgerMax
    { f with bring := { b with ledger := b.ledger ++ [e], oldCopy := other }, added := f.added + 1 }
  else { f with full := true }

/-- The hints of some kinds taken up and erased: how many, and how many failed again and are in the ledger (R411). -/
def takeHints (kinds : List Nat) (fails : List Hint) (b : BringUp) : BringUp × Nat × Nat :=
  let mine := b.hints.filter fun h => kinds.contains h.kind
  ({ b with hints := b.hints.filter fun h => !kinds.contains h.kind }, mine.length,
    (mine.filter fun h => fails.contains h && b.names h).length)

/-- The failures of a stage entered, and its hints taken up, with the counts in its report. -/
def fit (stage : Nat) (kinds : List Nat) (fails : List Hint) (s : State) : State × Bool :=
  let f := fails.foldl (Fit.add stage) ({ bring := s.bring } : Fit)
  let h := takeHints kinds fails f.bring
  (setReport stage (fun r => { r with added := r.added + f.added, retested := r.retested + h.2.1
                                      confirmed := r.confirmed + h.2.2 }) { s with bring := h.1 }, f.full)

/-- Groups of a shank that have failed: those the ledger names, and those found now. -/
def failedMask (b : BringUp) (fails : List Hint) (t : Nat) : Nat :=
  mask32 17 fun g => b.names ⟨3, t, g, 0, 0⟩ || fails.contains ⟨3, t, g, 0, 0⟩

/-- The event of a shank in which a group failed now (Table 6.7, Table 18.7). The spec leaves open whether groups known from
the ledger alone give an event at this start, and how several groups that fail in one training are reported: the model
logs none for the former and one event, that names the last group, for the latter (DESIGN CHOICE, log 190). -/
def fitShankEvent (fails : List Hint) (s : State) (t : Nat) : State :=
  match (fails.filter fun h => h.kind == 3 && h.unit == t).getLast? with
  | none => s
  | some h =>
    let k := shankOf s t
    match k.mode with
    | 0 => logEvent 0x0301 (0x3000 + t) (fld h.sub 0 5) s
    | 1 => logEvent 0x0302 (0x3000 + t) (fld h.sub 0 5 + fld k.healthy 8 5) s
    | _ => logEvent 0x0303 (0x3000 + t) (fld k.healthy 8 5) s

/-- A remap of the ledger loaded, or REMAP_EXHAUSTED once for its unit (R197, R199, R213). -/
def loadRemap (s : State) (e : LedgerEntry) : State :=
  let row := (e.sub, e.bank, e.row)
  match e.kind with
  | 4 =>
    let k := shankOf s e.unit
    if mayRemap k.remaps 8 e.sub e.bank e.row then setShank e.unit (fun k => { k with remaps := k.remaps ++ [row] }) s
    else if k.exhausted then s
    else
      logEvent 0x030C (0x3000 + e.unit) (fld k.remaps.length 0 8 + fld 1 8 1)
        (setShank e.unit (fun k => { k with exhausted := true }) s)
  | 7 =>
    let k := sideOf s e.unit
    if mayRemap k.remaps 16 e.sub e.bank e.row then setSide e.unit (fun k => { k with remaps := k.remaps ++ [row] }) s
    else if k.exhausted then s
    else
      logEvent 0x030C (0x6000 + e.unit) (fld k.remaps.length 0 8 + fld 1 8 1)
        (setSide e.unit (fun k => { k with exhausted := true }) s)
  | _ => s

/-- Remap entries in use. -/
def remapsLoaded (s : State) : Nat :=
  ((List.range 256).map fun t => (shankOf s t).remaps.length).foldl (· + ·) 0
    + ((List.range 12).map fun i => (sideOf s i).remaps.length).foldl (· + ·) 0

/-- Failures of shank groups in training that the ledger does not name. -/
def groupFails (b : BringUp) (groups : List (Nat × Nat)) : List Hint :=
  ((groups.filter fun (t, g) => decide (t < 256) && decide (g < 17)).map fun (t, g) => (⟨3, t, g, 0, 0⟩ : Hint)).filter
    fun h => !b.names h

/-- The shanks train (Table 6.5): the ledger's groups are set aside and its remaps loaded, the failures given (shank, group)
enter the ledger, the groups take their roles, and `VALID` is set. -/
def trainShanks (groups : List (Nat × Nat)) (s : State) : State :=
  let fails := groupFails s.bring groups
  let b := s.bring
  let r := fit 2 [3] fails { s with bring := { s.bring with trainFails := groups } }
  let shank (t : Nat) : Shank := { shankOf r.1 t with failed := failedMask b fails t, valid := true, calMv := tierTarget r.1.pace.point }
  let s := { r.1 with stack := { r.1.stack with shanks := Tab.setMany {} [] (List.range 256) shank } }
  let s := (b.ledger.filter fun e => e.kind == 4).foldl loadRemap s
  let s := startCounting 2 (List.range 256) (startCounting 3 (List.range 256) s)
  (List.range 256).foldl (fitShankEvent fails) s

/-- Stage 2 begins (R41), from which flow samples count (R440): with too little flow it waits with the pump at 100 %; else the shanks train. -/
def enterStage2 (groups : List (Nat × Nat)) (s : State) : State :=
  let s := startStage 2 s
  let s := { s with coolant := { s.coolant with hist := [] } }
  if s.coolant.flow < flowNeeded then
    { s with power := { s.power with coolantWait := true }, coolant := { s.coolant with pump := 100 } }
  else trainShanks groups s

/-- `VPHY` is in regulation: the timebase starts, at 0 (R407). The row that ends stage 1 tells it (log 28). -/
def startTimebase (rails : Nat) (s : State) : State :=
  { s with power := { s.power with timebaseOn := bitB rails 26 } }

/-- STAGE_1_END: `rails` in regulation, `networkOk` the self-test's result. -/
def execStage1End (rails : Nat) (networkOk : Bool) (groups : List (Nat × Nat)) (us : Nat) (s : State) :
    Host.Outcome State Fault Refusal :=
  if inStage s 1 = false then idle s
  else
    let r := rails % 2 ^ 27
    let s := setReport 1 (fun k => { k with detail := r }) (startTimebase r s)
    if r ≠ allRails then .next (failStage 1 0x0201 us s)
    else if networkOk = false then .next (failStage 1 0x0202 us s)
    else
      let s := measureStage 1 (Config.stageTables (s.fw.slot s.fw.running).data) (passStage 1 us s)
      let s := startCounting 9 [0] (startCounting 4 (List.range 16) s)
      .next (enterStage2 groups (openWindow s))

/-- COOLANT_WAIT_MET: stage 2 resumes; after the failed report of R41 it is in progress again (R409). -/
def execCoolantWaitMet (groups : List (Nat × Nat)) (waitMs : Nat) (s : State) : Host.Outcome State Fault Refusal :=
  if s.power.phase = .bringup 2 ∧ s.power.coolantWait = true ∧ flowNeeded ≤ s.coolant.flow then
    .next (trainShanks groups (setReport 2 (fun r => { r with result := 1, cause := 0, waitMs := waitMs % 2 ^ 32 })
      { s with power := { s.power with coolantWait := false, stageFailed := false } }))
  else idle s

/-- COOLANT_WAIT_TIMEOUT: 30 s without flow; the stage reports FAILED and goes on waiting (R41). -/
def execCoolantWaitTimeout (s : State) : Host.Outcome State Fault Refusal :=
  if inStage s 2 ∧ s.power.coolantWait = true then
    .next (failStage 2 0x0301 0 (setReport 2 (fun r => { r with waitMs := 30000 }) s))
  else idle s

/-- Failures of tiers and side stacks that the ledger does not name (Table 15.5). -/
def unitFails (b : BringUp) (tiersGood sidesGood : Nat) : List Hint :=
  (((List.range 8).filter fun i => !bitB tiersGood i).map fun i => (⟨5, 0, i + 1, 0, 0⟩ : Hint)).filter
      (fun h => !b.names h)
    ++ (((List.range 12).filter fun i => !bitB sidesGood i).map fun i => (⟨6, i, 0, 0, 0⟩ : Hint)).filter
      (fun h => !b.names h)

/-- Failures of rows on shanks that are not retired and side stacks that are online. -/
def rowFails (b : BringUp) (retired offline : List Nat) (rows sideRows : List RowDefect) : List Hint :=
  ((rows.filter fun r => decide (r.unit < 256) && decide (1 ≤ r.sub) && decide (r.sub ≤ 8) && decide (r.bank < 16)
      && decide (r.row < 800) && !retired.contains r.unit).map fun r => (⟨4, r.unit, r.sub, r.bank, r.row⟩ : Hint)).filter
      (fun h => !b.names h)
    ++ ((sideRows.filter fun r => decide (r.unit < 12) && decide (r.sub < 32) && decide (r.bank < 16)
      && decide (r.row < 2 ^ 17) && !offline.contains r.unit).map fun r => (⟨7, r.unit, r.sub, r.bank, r.row⟩ : Hint)).filter
      (fun h => !b.names h)

/-- The row failures of this bring-up as entries, whether the ledger had a place for them or not: all are set aside (R414). -/
def rowEntries (gen : Nat) (fails : List Hint) : List LedgerEntry :=
  ((fails.filter fun h => h.kind == 4 || h.kind == 7).eraseDups).map fun h => ⟨h.kind, 2, h.unit, h.sub, h.bank, h.row, gen⟩

/-- Tiers and side stacks as the fitting leaves them. -/
def placeUnits (fails : List Hint) (b : BringUp) (offline : List Nat) (s : State) : State :=
  let tier (i : Nat) : Tier :=
    { tierOf s i with failed := b.names ⟨5, 0, i + 1, 0, 0⟩ || fails.contains ⟨5, 0, i + 1, 0, 0⟩ }
  let side (i : Nat) : Side :=
    { sideOf s i with state := b2n (offline.contains i), valid := !offline.contains i
                      ledger := s.bring.names ⟨6, i, 0, 0, 0⟩ }
  { s with stack := { s.stack with tiers := Tab.setMany {} [] (List.range 8) tier
                                   sides := Tab.setMany {} [] (List.range 12) side } }

/-- Why stage 2 ends failed; 0 when it passes. -/
def stage2Cause (s : State) (retired offline : List Nat) (full : Bool) : Nat :=
  if 16 < retired.length then 0x0302
  else if (List.range 8).any fun i => (tierOf s i).failed then 0x0303
  else if 4 < offline.length then 0x0304
  else if full then 0x0002
  else 0

/-- Bytes of a pod window and of a route entry in the measurement of stage 3 (Tables 12.4 and 12.5; log 71). -/
def Win.bytes (w : Win) : Bytes :=
  natLE 32 (fld w.base 0 48 + fld w.len 48 48 + fld (b2n w.read) 96 1 + fld (b2n w.write) 97 1 + fld (b2n w.add) 98 1
    + fld w.devices 128 64)
def Route.bytes (r : Route) : Bytes :=
  natLE 16 (fld r.ports 0 32 + fld r.next 32 6 + fld (b2n r.valid) 38 1 + fld (b2n r.auto) 39 1 + fld r.altPorts 40 32
    + fld r.altNext 72 6 + fld (b2n r.altValid) 78 1)

/-- What stage 3 measures (Table 17.6). -/
def podBytes (p : Pod) : Bytes :=
  natLE 4 p.eff.id ++ natLE 1 p.eff.device ++ natLE 1 p.eff.head ++ natLE 8 p.eff.members
    ++ ((List.range 16).map fun i => (p.eff.windows.getD i {}).bytes).flatten
    ++ ((List.range 64).map fun d => (Tab.get {} p.routes d).bytes).flatten

/-- Stage 3 begins (R347, R313): the stored pod record takes effect, routes of ROUTE_SET return, ports of the active set
move to DETECT and the others to PARKED. -/
def enterStage3 (s : State) : State :=
  let changed := s.pod.stored != s.pod.eff
  let s := startStage 3 { s with bring := { s.bring with podChanged := changed }
                                 pod := { s.pod with eff := s.pod.stored, routes := s.pod.saved } }
  let s := startCounting 5 (List.range 32) s
  (List.range 32).foldl (fun s p => setPortState p (if bitB s.pace.portSet p then 1 else 6) s) s

/-- STAGE_2_END: what the memory tests after the training found, the interleave (R204) and the remaps built from it. The
stage fails for a full ledger when a failure, of the training's groups too, found no place in it. -/
def execStage2End (rows : List RowDefect) (tiersGood sidesGood : Nat) (sideRows : List RowDefect) (us : Nat) (s : State) :
    Host.Outcome State Fault Refusal :=
  if inStage s 2 = false ∨ s.power.coolantWait = true then idle s
  else
    let b := s.bring
    let fails := unitFails b tiersGood sidesGood
    let retired := (List.range 256).filter fun t => (shankOf s t).mode == 2
    let offline := (List.range 12).filter fun i => b.names ⟨6, i, 0, 0, 0⟩ || fails.contains ⟨6, i, 0, 0, 0⟩
    let fails := fails ++ rowFails b retired offline rows sideRows
    let r := fit 2 [4, 5, 6, 7] fails s
    let full := r.2 || !(groupFails r.1.bring b.trainFails).isEmpty
    let s := { r.1 with bring := { r.1.bring with retired := retired } }
    let s := startCounting 7 ((List.range 12).filter fun i => !offline.contains i) (placeUnits fails b offline s)
    let s := (offline.filter fun i => fails.contains ⟨6, i, 0, 0, 0⟩).foldl (fun s i => logEvent 0x0403 (0x6000 + i) 0 s) s
    let new := rowEntries s.bring.resetGen fails
    let s := (b.ledger.filter fun e => e.kind == 7).foldl loadRemap s
    let s := (new.filter fun e => e.kind == 7).foldl loadRemap s
    let s := (new.filter fun e => e.kind == 4).foldl loadRemap s
    let tiers := mask32 8 fun i => !(tierOf s i).failed
    let sides := mask32 12 fun i => !offline.contains i
    let half := ((List.range 256).filter fun t => (shankOf s t).mode == 1).length
    let s := setReport 2 (fun k => { k with
      excluded := retired.length + offline.length, reduced := half
      detail := fld (stackW s) 0 16 + fld sides 16 12 + fld tiers 28 8 + fld (remapsLoaded s) 36 16 }) s
    let cause := stage2Cause s retired offline full
    if cause ≠ 0 then .next (failStage 2 cause us s)
    else
      let s := passStage 2 us s
      .next (enterStage3 (measureStage 2 (natLE 2 (stackW s) ++ (s.bring.ledger.map LedgerEntry.bytes).flatten) s))

/-! ### Stages 3 and 4 -/

/-- A port that stage 3 waits for: it trains for the first time, or its cable is in and it has yet to (R314). -/
def portPending (k : Port) : Bool := (k.state == 2 && k.attempts == 0) || (k.state == 1 && k.cable && !k.tried)

/-- The tile firmware sent to every tile, and again while some tile's check has failed, three times at most (R413): each time
48 KiB, 768 flits of BULK. -/
def sendFirmware (crcFails : List (Nat × Nat)) (s : State) : State :=
  (List.range (1 + min 2 ((crcFails.map (·.2)).foldl max 0))).foldl (fun s _ => meshCast 3 768 s) s

/-- STAGE_3_END: link work ends once every port that trains is ACTIVE or has failed once (R314), or with its budget (R406).
`crcFails` tells which tiles' firmware check will fail and how often (R413). -/
def execStage3End (crcFails : List (Nat × Nat)) (us : Nat) (s : State) : Host.Outcome State Fault Refusal :=
  if inStage s 3 = false ∨ (us < 200000 ∧ s.ports.any (fun (_, k) => portPending k)) then idle s
  else
    let active := mask32 32 fun p => (port s p).state == 3
    let out := ((List.range 32).filter fun p => (port s p).tried && (port s p).state != 3).length
    let s := setReport 3 (fun k => { k with
      excluded := out
      detail := fld active 0 32 + fld s.pod.eff.device 32 6 + fld (b2n s.bring.podChanged) 38 1 }) s
    let s := startStage 4 (measureStage 3 (podBytes s.pod) (passStage 3 us s))
    let bad := (crcFails.filter fun (t, n) => decide (t < 256) && decide (3 ≤ n)).map (·.1)
    let again := crcFails.any fun (_, n) => decide (1 ≤ n)
    .next (sendFirmware crcFails { s with bring := { s.bring with fwFails := bad, fwRepeat := again } })

/-- Failures of stage 4 that the ledger does not name: tiles whose firmware never checked, dot-product units, other units
of a tile (Table 15.5). A tile that the ledger names is set aside. -/
def tileFails (b : BringUp) (units : List (Nat × Nat)) (tiles : List Nat) : List Hint :=
  let out (t : Nat) : Bool := b.names ⟨2, t, 0, 0, 0⟩ || b.fwFails.contains t || decide (256 ≤ t)
  ((b.fwFails.filter fun t => !b.names ⟨2, t, 0, 0, 0⟩).map fun t => (⟨2, t, 0, 0, 0⟩ : Hint))
    ++ ((units.filter fun (t, u) => !out t && decide (u < 132)).map fun (t, u) => (⟨1, t, u, 0, 0⟩ : Hint)).filter
      (fun h => !b.names h)
    ++ ((tiles.filter fun t => !out t).map fun t => (⟨2, t, 0, 0, 0⟩ : Hint))

/-- One tile as the fitting leaves it, with its events (R98): `b` is the ledger before the stage. -/
def placeTile (b : BringUp) (fails : List Hint) (s : State) (t : Nat) : State :=
  let known := (List.range 132).filter fun u => b.names ⟨1, t, u, 0, 0⟩
  let found := ((fails.filter fun h => h.kind == 1 && h.unit == t).map (·.sub)).eraseDups
  let old := b.names ⟨2, t, 0, 0, 0⟩
  let test := fails.contains ⟨2, t, 0, 0, 0⟩
  let all := known ++ found
  let out := old || test || decide (8 < all.length)
  let s := found.zipIdx.foldl (fun s (u, i) =>
    logEvent 0x0101 (0x1000 + t) (fld u 0 8 + fld (128 - (known.length + i + 1)) 8 8) s) s
  let cause := if b.fwFails.contains t then 3 else if 8 < all.length then 1 else 2
  let fresh := !found.isEmpty || test
  let s := if out && fresh then logEvent 0x0102 (0x1000 + t) (fld cause 0 4) s else s
  let k : TileStat := { width := if out then 0 else 128 - all.length, excluded := out, new := fresh, bypassed := all }
  { s with tiles := { s.tiles with stat := Tab.set {} s.tiles.stat t k } }

/-- Tiles included. -/
def includedTiles (s : State) : Nat := ((List.range 256).filter fun t => (Tab.get {} s.tiles.stat t).width != 0).length

/-- The first READY on a trial image confirms it (R465): selector, fuses, event. -/
def confirm (s : State) : State :=
  if s.fw.sel.trial then
    let f := (s.fw.select s.fw.sel.active false 0).advance
    logEvent 0x0B06 0 (fld f.oldVer 0 32 + fld (fwActive s) 32 32 + fld f.rollback 64 8) { s with fw := f }
  else s

/-- Memory as the end of bring-up leaves it (R412): every byte 0, no sector dead or stamped, every bucket empty, no L2 line
held. -/
def zeroMemory (s : State) : State :=
  let k := s.stack
  { s with
    stack := { k with mem := [], mark := [], adds := []
                      shanks := k.shanks.map fun (t, h) => (t, { h with bucket := 0, ceHold := false, held := [] })
                      sides := k.sides.map fun (i, h) => (i, { h with bucket := 0, ceHold := false, held := [] }) }
    cache := { s.cache with lines := [], misses := [], late := [] } }

/-- STAGE_4_END: the tile fitting's failures, TILE_STAT, and READY. -/
def execStage4End (units : List (Nat × Nat)) (tiles : List Nat) (us : Nat) (s : State) : Host.Outcome State Fault Refusal :=
  if inStage s 4 = false then idle s
  else
    let b := s.bring
    let fails := tileFails b units tiles
    let r := fit 4 [1, 2] fails s
    let s := startCounting 1 (List.range 256) ((List.range 256).foldl (placeTile b fails) r.1)
    let n := includedTiles s
    let narrow := ((List.range 256).filter fun t =>
      let w := (Tab.get {} s.tiles.stat t).width
      w != 0 && decide (w < 128)).length
    let s := setReport 4 (fun k => { k with
      excluded := 256 - n, reduced := narrow
      detail := fld (totalWidth s) 0 32 + fld n 32 16 + fld (b2n s.bring.fwRepeat) 48 1 }) s
    if n < 240 then .next (failStage 4 0x0501 us s)
    else if r.2 then .next (failStage 4 0x0002 us s)
    else
      let data := (s.fw.slot s.fw.running).data
      let s := measureStage 4 (slice data (imgTile data) tileFwLen ++ configRecord s) (passStage 4 us s)
      .next (confirm (zeroMemory { s with power := { s.power with phase := .up } }))

/-! ### Budgets and the watchdog -/

/-- Budgets of Table 15.1, in µs. -/
def stageBudget (n : Nat) : Nat := nth [40000, 30000, 600000, 200000, 250000] n

/-- STAGE_BUDGET_TIMEOUT (R406): the wait under R41 does not count, and stage 3 always passes. Whether `VPHY` is in regulation
when stage 1 runs out of time is open, and with it whether the timebase has started (log 28). -/
def execStageBudgetTimeout (s : State) : Host.Outcome State Fault Refusal :=
  match s.power.phase with
  | .bringup n =>
    if n = 3 ∨ s.power.stageFailed ∨ s.power.coolantWait then idle s
    else
      let s := if n = 1 then
          { s with power := { s.power with timebaseOn := (Config.freeWord s.fresh).getLsbD 0 }, fresh := s.fresh + 1 }
        else s
      .next (failStage n 0x0001 (stageBudget n) s)
  | _ => idle s

/-- COBBLER_WATCHDOG: the module resets, to log the trigger in stage 1; in SHUTDOWN_LATCHED the Cobbler restarts alone,
which changes nothing that the model holds (R422). -/
def execCobblerWatchdog (lockstepMismatch : Bool) (s : State) : Host.Outcome State Fault Refusal :=
  match s.power.phase with
  | .bringup _ | .up => .next (rerun 4 { s with bring := { s.bring with watchdog := some lockstepMismatch } })
  | _ => idle s

end Sys2Proof.Machine
end

