-- ==== Sys2Proof/Machine/Coolant.lean ====
section
/-! DEFINITION. The coolant loop (R440-R447): flow samples and estimates, pump and valve, the coolant Warning and
COOLANT_LOSS. Flow is in mL/min. -/

namespace Sys2Proof.Machine

/-! ### Flow -/

/-- Flow as it is estimated once the flow sensor has failed (R445). -/
def estimateFlow (s : State) : Nat :=
  let dt := s.coolant.outlet - s.coolant.inlet
  if failedSensor s 240 || failedSensor s 241 || decide (dt < 1000) then 2500
  else s.pace.power * 1000000 / (dt.toNat * 67)

/-- A flow sample entered: the last 10 s of samples, and the flow cap (R440, R443). -/
def enterFlow (f : Nat) (s : State) : State :=
  { s with coolant := { s.coolant with
      flow := f, hist := (f :: s.coolant.hist).take 10000, capOn := decide (f < 3000)
      capW := if f < 3000 then 1200 * f / 1000 else 0 } }

/-- FLOW_SAMPLE: the sensor's reading; once it has failed, the estimate, whose samples count from there (R424, R440,
R445). -/
def execFlowSample (reading : Option Nat) (s : State) : Host.Outcome State Fault Refusal :=
  if s.power.standby = false then idle s
  else
    let new := reading.isNone && !failedSensor s 242
    let s := if new then
        let s := failSensor 242 s
        stickyWarning { s with coolant := { s.coolant with flowEst := true, hist := [] } }
      else s
    match reading, failedSensor s 242 with
    | some f, false => .next (enterFlow f s)
    | _, _ => .next (enterFlow (estimateFlow s) s)

/-! ### Pump and valve -/

/-- Sums of the flow samples: of y, and of x*y where the j-th sample back lies at x = -j. -/
def flowSums : Nat → List Nat → Int × Int
  | _, [] => (0, 0)
  | j, y :: ys => let r := flowSums (j + 1) ys; (r.1 + y, r.2 - j * y)

/-- The least-squares line over 10,000 samples of 1 ms, 10 s after the newest, lies below 4.0 L/min (R440). -/
def flowFalls (h : List Nat) : Bool :=
  let n : Int := 10000
  let sx : Int := -(n * (n - 1) / 2)
  let sxx : Int := (n - 1) * n * (2 * n - 1) / 6
  let d := n * sxx - sx * sx
  let r := flowSums 0 h
  h.length == 10000 && decide (r.1 * d + (n * r.2 - sx * r.1) * (n * n - sx) < 4000 * n * d)

/-- Pump demand stands at 100 % (R440). -/
def pumpFull (s : State) : Bool := coolantWarn s || s.coolant.loss || s.power.coolantWait

/-- Pump demand after a cycle (R440). -/
def nextPump (s : State) : Nat :=
  let k := s.coolant
  let dt := k.outlet - k.inlet
  let v := if pumpFull s then 100
    else if k.flow < 4000 ∨ flowFalls k.hist ∨ 14000 < dt then k.pump + 2
    else if 4400 < k.flow ∧ dt < 12000 then k.pump - 1
    else k.pump
  min 100 (max k.pumpMin v)

/-- The least of a list of margins. -/
def leastOf : List Int → Int
  | [] => 0
  | [m] => m
  | m :: ms => min m (leastOf ms)

/-- Margin of a range of groups: the lowest target less prediction (R442). -/
def margin (s : State) (gs : List Nat) : Int := leastOf (gs.map fun g => targetOf s g - aheadOf s g)

/-- Share to the microchannels after a cycle: one point at most, held during COOLANT_LOSS (R442). -/
def nextValve (s : State) : Nat :=
  let k := s.coolant
  let v := k.valve
  let base := margin s (List.range 32)
  let mem := margin s ((List.range 20).map (32 + ·))
  if k.loss then v
  else if k.fixed then approach 1 v k.share
  else if v < 40 then v + 1
  else if 80 < v then v - 1
  else if base < mem - 3000 then min 80 (v + 1)
  else if mem + 3000 < base then max 40 (v - 1)
  else v

/-- The coolant controller runs from the start of stage 2 (R440). -/
def coolantRuns (s : State) : Bool :=
  s.power.coreRails && match s.power.phase with | .bringup n => decide (2 ≤ n) | .up => true | _ => false

/-- COOLANT_CYCLE. -/
def execCoolantCycle (tachHz : Nat) (s : State) : Host.Outcome State Fault Refusal :=
  if coolantRuns s then
    .next { s with coolant := { s.coolant with pump := nextPump s, valve := nextValve s, tach := tachHz } }
  else idle s

/-- PUMP_TACH_LOST: once a bring-up (R441). -/
def execPumpTachLost (s : State) : Host.Outcome State Fault Refusal :=
  if s.coolant.tachLog ∨ s.coolant.pump < 30 ∨ coolantRuns s = false then idle s
  else .next (logEvent 0x0C0B 0 (fld s.coolant.pump 0 8) { s with coolant := { s.coolant with tachLog := true, tach := 0 } })

/-! ### Warning and loss -/

/-- COOLANT_WARNING: 1 s below 3.0 L/min, or above 40 degrees (R444). -/
def execCoolantWarning (s : State) : Host.Outcome State Fault Refusal :=
  if coolantRuns s = false ∨ coolantWarn s ∨ (3000 ≤ s.coolant.flow ∧ s.coolant.inlet ≤ 40000) then idle s
  else .next (raiseCoolantWarning { s with coolant := { s.coolant with warning := true } })

/-- COOLANT_WARNING_CLEAR: 1 s at or above 3.2 L/min and at or below 38 degrees; the Warning of R445 stays. -/
def execCoolantWarningClear (s : State) : Host.Outcome State Fault Refusal :=
  let k := s.coolant
  if k.warning = false ∨ k.sticky ∨ k.flow < 3200 ∨ 38000 < k.inlet then idle s
  else
    let s := { s with coolant := { k with warning := false } }
    .next (raise 1 (logEvent 0x0C09 0 (fld (flowField s) 0 16 + fld (degC k.inlet) 16 8 + fld (degC k.outlet) 24 8) s))

/-- COOLANT_LOSS: 20 ms below 0.4 L/min (R447, Table 16.7). -/
def execCoolantLoss (s : State) : Host.Outcome State Fault Refusal :=
  if coolantRuns s = false ∨ s.coolant.loss ∨ 400 ≤ s.coolant.flow then idle s
  else
    let s := { s with coolant := { s.coolant with loss := true, pump := 100 } }
    let s := logEvent 0x0C0A 0 (fld (flowField s) 0 16 + fld 1 16 1) s
    .next (enterHold 1 0xFFFFFFFF (rampDown s))

/-- COOLANT_LOSS_CLEAR: 1 s at or above 2.5 L/min (R447). -/
def execCoolantLossClear (s : State) : Host.Outcome State Fault Refusal :=
  if s.coolant.loss = false ∨ s.coolant.flow < 2500 then idle s
  else
    let s := { s with coolant := { s.coolant with loss := false } }
    .next (logEvent 0x0C0A 0 (fld (flowField s) 0 16) s)

/-! ### COOLANT_CFG -/

/-- Check of COOLANT_CFG. The share is judged in fixed mode, and whenever one is given (log 70). -/
def checkCoolantCfg (pl : Bytes) (_ : State) : List Fail :=
  let share := field pl 2 1
  failIf (decide (100 < field pl 0 1)) 0x0104 (some 0) ++ failIf (decide (1 < field pl 1 1)) 0x0104 (some 8)
    ++ failIf ((field pl 1 1 == 1 || share != 0) && (decide (share < 20) || decide (90 < share))) 0x0104 (some 16)

/-- COOLANT_CFG (R440, R442). -/
def execCoolantCfg (o : Origin) (s : State) : Host.Outcome State Fault Refusal :=
  .next (command o 0x00C1 checkCoolantCfg (fun pl s =>
    let k := s.coolant
    let least := field pl 0 1
    answerOk o [] { s with coolant := { k with
      pumpMin := least, pump := max least k.pump, fixed := field pl 1 1 == 1
      share := if field pl 2 1 = 0 then k.share else field pl 2 1 } }) s)

end Sys2Proof.Machine
end

