-- ==== Sys2Proof/Machine/HostReads.lean ====
section
/-! DEFINITION. What ends a read of host memory (R370, R371): its data given to the object that asked, or its failure
reported by that object. -/

namespace Sys2Proof.Machine

/-- A read that has ended leaves the outstanding ones. -/
def dropRead (tag : Nat) (s : State) : State :=
  { s with pcie := { s.pcie with reads := s.pcie.reads.filter fun r => !(r.tag == tag) } }

/-- The object of HOST_DMA_ERROR that issued a read: kind and id; none for a firmware chunk, whose command reports. -/
def readObject (s : State) (why : ReadFor) : Option (Nat × Nat) :=
  match why with
  | .intakeHeader a => some (1, a)
  | .intakeEntries a _ _ => some (1, a)
  | .complHeader a => some (2, a)
  | .stream id => some (3, ((subOf s id).map (·.obj)).getD 0)
  | .fwChunk _ => none

/-- HOST_DMA_ERROR, at most once per 1 ms per object (R371): 1 Unsupported Request, 2 Completer Abort, 3 timeout, 4 EP. -/
def dmaError (why : ReadFor) (failure : Nat) (s : State) : State :=
  match readObject s why with
  | some (k, id) => logLimited 0x0A02 (0x90000 + 256 * k + id) (fld k 0 4 + fld id 8 8 + fld failure 16 4) s
  | none => s

/-- Bytes of a chunk put in place by address. -/
def putPiece (a : Nat) (bs : Bytes) : List (Nat × Bytes) → List (Nat × Bytes)
  | [] => [(a, bs)]
  | (b, cs) :: rest => if a < b then (a, bs) :: (b, cs) :: rest else (b, cs) :: putPiece a bs rest

/-- Reads of a chunk that have not been answered. -/
def chunkReads (s : State) (o : Origin) : Bool :=
  let mine (r : OutRead) : Bool := r.why == .fwChunk o
  s.pcie.reads.any mine || s.pcie.waiting.any mine

/-- Once every read of a chunk has ended, the chunk is staged, or its command fails (R462). -/
def endChunk (o : Origin) (s : State) : State :=
  if chunkReads s o then s
  else match inProgress s o with
    | none => s
    | some a =>
      if s.fw.chunkBad then fail o ⟨0x0110, some 0, none⟩ { s with fw := { s.fw with chunk := [], chunkBad := false } }
      else takeChunk o (stageLast a.payload) (s.fw.chunk.map (·.2)).flatten s

/-- The data of a read given to its object. -/
def takeRead (r : OutRead) (bs : Bytes) (rd : Remote) (s : State) : State :=
  match r.why with
  | .intakeHeader a =>
    askEntries a (setIntake a (fun k => { k with host := countOf k.host (field bs 0 8) }) s)
  | .intakeEntries a _ n => askEntries a (takeEntries a rd (entriesOf n bs) s)
  | .complHeader a => seeHostCount a (field bs 0 8) s
  | .stream id => takeStream id r.addr bs rd s
  | .fwChunk o => endChunk o { s with fw := { s.fw with chunk := putPiece r.addr bs s.fw.chunk } }

/-- The failure of a read at its object: an area is polled again, a stream transfer ends with ERROR (log 66), a chunk
fails. -/
def failRead (r : OutRead) (failure : Nat) (s : State) : State :=
  let s := dmaError r.why failure s
  match r.why with
  | .intakeHeader a | .intakeEntries a _ _ => setIntake a (fun k => { k with busy := false }) s
  | .complHeader _ => s
  | .stream id =>
    let reason := if failure = 4 then 0x0110 else 0x0601
    setSub id (fun u => { u with bad := if u.bad = 0 then reason else u.bad }) s
  | .fwChunk o => endChunk o { s with fw := { s.fw with chunkBad := true } }

/-- A read ended: out of the outstanding ones, then its effect; room for a waiting read is used. -/
def endRead (tag : Nat) (f : OutRead → State → State) (s : State) : Host.Outcome State Fault Refusal :=
  match s.pcie.reads.find? fun r => r.tag == tag with
  | none => idle s
  | some r => .next (pumpReads (f r (dropRead tag s)))

/-- HOST_READ_COMPLETION. -/
def execHostReadCompletion (tag : Nat) (c : HostCpl) (rd : Remote) (s : State) : Host.Outcome State Fault Refusal :=
  heldRow s fun s =>
  endRead tag (fun r s => match c with
    | .data bs => takeRead r (slice bs 0 r.len) rd s
    | .ep _ => failRead r 4 (setAer aerPoisoned s)
    | .unsupported => failRead r 1 s
    | .abort => failRead r 2 s) s

/-- HOST_COMPLETION_TIMEOUT; none comes while the timeout is disabled (R370). -/
def execHostCompletionTimeout (tag : Nat) (s : State) : Host.Outcome State Fault Refusal :=
  if s.pcie.cfg.cplDisable then idle s else endRead tag (fun r s => failRead r 3 (setAer aerTimeout s)) s

end Sys2Proof.Machine
end

