-- ==== Sys2Proof/Machine/Counters.lean ====
section
/-! DEFINITION. What chapter 18 reports beside the events: COUNTERS_READ (R487, R488), the trace buffer (R489-R491), and
the ends of rate limits and of the windows of suppression (R474, R479). -/

namespace Sys2Proof.Machine

/-! ### Counters -/

/-- Units of a class (Table 18.10); 0 for an unknown class. -/
def classUnits (cls : Nat) : Nat :=
  match cls with
  | 1 | 2 | 3 => 256
  | 4 => 16
  | 5 => 32
  | 6 => 36
  | 7 => 12
  | 8 => 64
  | 9 => 1
  | _ => 0

/-- A counter's value. -/
def count (s : State) (cls unit slot : Nat) : Nat := Tab.get 0 s.ev.cnt (cntKey cls unit slot)

/-- A stored gauge, or the present value while none is stored. -/
def gauge (s : State) (cls unit slot present : Nat) : Nat :=
  match count s cls unit slot with | 0 => present | v + 1 => v

/-- Present pace and temperature of a timing domain. -/
def pacePresent (s : State) (n : Nat) : Nat := if railOf s n = 0 then 0 else (monOf s n).pace

/-- Frames that the regions of a pool on this module hold, those of offline side stacks left out. -/
def poolFrames (s : State) (p : Pool) : Nat :=
  let f := p.shape.lines
  let blk := stackW s * 128
  (p.regions.map fun (b, l) =>
    if b < sideBase then ((b + l) / blk - (b + blk - 1) / blk) / f * stackW s
    else
      ((List.range 12).map fun i =>
        let lo := (max b (sideBase + i * 2 ^ 37) + 127) / 128 * 128
        let hi := min (b + l) (sideBase + (i + 1) * 2 ^ 37)
        if (sideOf s i).state = 1 ∨ (sideOf s i).ledger then 0 else (hi - lo) / (f * 128)).foldl (· + ·) 0).foldl (· + ·) 0

/-- A pool's slots (Table 18.12); granted frames are in use (log 72). -/
def poolSlot (s : State) (i : Nat) (p : Pool) (slot : Nat) : Nat :=
  let here := (p.refs.filter fun (a, _) => isLocal s a).length + p.granted.length
  match slot with
  | 0 => here
  | 1 => poolFrames s p - here
  | 4 => p.granted.length
  | 5 => (p.refs.filter fun (a, _) => !isLocal s a).length
  | 7 => (p.refs.filter fun (_, n) => decide (2 ≤ n)).length
  | 8 => poolSeqs s i
  | k => count s 8 i k

/-- A slot as a counter record shows it (Tables 18.11 and 18.12). -/
def slotValue (s : State) (cls unit slot : Nat) : Nat :=
  match cls, slot with
  | 5, 10 => fld (count s 5 unit 10) 0 32 + fld (port s unit).partPort 32 5
  | 5, 11 => (port s unit).sess.serial
  | 6, 5 => gauge s 6 unit 5 (pacePresent s unit)
  | 6, 6 => gauge s 6 unit 6 (degC (domainTemp s unit))
  | 8, k => match obj s.obj.pools unit with | some p => poolSlot s unit p k | none => 0
  | 9, 9 => s.coolant.tach
  | c, k => count s c unit k

/-- The unit exists: every unit but an absent pool. -/
def unitExists (s : State) (cls unit : Nat) : Bool := cls != 8 || (obj s.obj.pools unit).isSome

/-- A counter record (Table 18.9), 128 bytes. -/
def counterRecord (s : State) (cls unit : Nat) (clear : Bool) : Bytes :=
  let head := fld cls 0 8 + fld unit 16 16 + fld (b2n clear) 33 1
  if unitExists s cls unit then
    natLE 32 (head + fld 1 32 1 + fld (now s) 64 64 + fld (Tab.get 0 s.ev.since (sinceKey cls unit)) 128 64)
      ++ ((List.range 12).map fun k => natLE 8 (slotValue s cls unit k)).flatten
  else natLE 128 head

/-- One unit's counters cleared; a gauge restarts from its present value (R488). -/
def clearUnit (cls unit : Nat) (s : State) : State :=
  let cnt := (List.range 12).foldl (fun t k => Tab.set 0 t (cntKey cls unit k) 0) s.ev.cnt
  let s' := { s with ev := { s.ev with cnt := cnt, since := Tab.set 0 s.ev.since (sinceKey cls unit) (now s) } }
  if cls = 6 then
    setGauge 6 unit 6 (fun _ => degC (domainTemp s unit)) (setGauge 6 unit 5 (fun _ => pacePresent s unit) s')
  else s'

/-- Check of COUNTERS_READ. -/
def checkCounters (pl : Bytes) (s : State) : List Fail :=
  let n := classUnits (field pl 0 1)
  let first := field pl 2 2
  let k := field pl 4 2
  reservedFail (pl.take 16) [(0, 8), (16, 16), (32, 16), (48, 1), (64, 54)] ++ failIf (n == 0) 0x0104 (some 0)
    ++ failIf (n != 0 && decide (n ≤ first)) 0x0104 (some 16)
    ++ failIf (decide (first < n) && decide (n < first + k)) 0x0104 (some 32)
    ++ failIf (field pl 8 8 % 128 != 0) 0x0105 (some 64)
    ++ failIf (!localRange s (field pl 8 8) (128 * k)) 0x0106 (some 64)

/-- COUNTERS_READ: the records, and the clear that goes with them. -/
def runCounters (o : Origin) (pl : Bytes) (s : State) : State :=
  let cls := field pl 0 1
  let first := field pl 2 2
  let n := field pl 4 2
  let clear := bitB (field pl 6 1) 0
  let bs := ((List.range n).map fun i => counterRecord s cls (first + i) clear).flatten
  let s := if clear then (List.range n).foldl (fun s i => clearUnit cls (first + i) s) s else s
  answerStored o (natLE 4 bs.length) (field pl 8 8) bs s

/-- COUNTERS_READ. -/
def execCountersRead (o : Origin) (s : State) : Host.Outcome State Fault Refusal :=
  .next (command o 0x00B0 checkCounters (runCounters o) s)

/-! ### Ends of intervals -/

/-- RATE_LIMIT_INTERVAL_END: occurrences folded since the last record are reported, and the next interval runs from that
record; with none the interval is over (R474). `source` is the unit, or the object of a HOST_DMA_ERROR. -/
def execRateLimitIntervalEnd (code source : Nat) (s : State) : Host.Outcome State Fault Refusal :=
  match s.ev.folds.find? fun f => f.code == code && f.key == source with
  | none => idle s
  | some f =>
    let rest := s.ev.folds.filter fun g => !(g.code == code && g.key == source)
    if f.count = 0 then .next { s with ev := { s.ev with folds := rest } }
    else
      let s := { s with ev := { s.ev with folds := rest ++ [{ f with count := 0 }] } }
      if code = 0x0805 then
        let p := source % 4096
        let d := classCounts (port s p).violLast
        .next (setPort (logEvent code source d s) p fun pt => { pt with violLast := [] })
      else .next (logEvent code (foldSource code source) (f.data + fld f.count (foldShift code) 32) s)

/-- EVENTS_SUPPRESSED: a window of 1 ms ends with records of one code suppressed (R479). -/
def execEventsSuppressed (code : Nat) (s : State) : Host.Outcome State Fault Refusal :=
  match Tab.get 0 s.ev.supp code with
  | 0 => idle s
  | n => .next (logEvent 0x0D01 0 (fld code 0 16 + fld n 32 32) { s with ev := { s.ev with supp := Tab.set 0 s.ev.supp code 0 } })

/-! ### The trace buffer -/

/-- Records that a buffer holds (R490). -/
def traceEntries (len : Nat) : Nat := (len - 128) / 32

/-- The buffer header (Table 18.14), 128 bytes. -/
def Trace.header (t : Trace) : Bytes :=
  natLE 128 (fld t.written 0 64 + fld t.lost 64 64 + fld (b2n t.enabled) 128 1 + fld (b2n t.triggered) 129 1
    + fld (traceEntries t.len) 160 32 + fld t.start 192 64)

/-- The header written. -/
def writeTraceHeader (s : State) : State := storeBytes s.trace.base s.trace.header s

/-- Bits of the trace configuration record that are not reserved (Table 18.13). -/
def traceFields : List (Nat × Nat) :=
  [(0, 3), (8, 4), (16, 16), (32, 32), (64, 48), (128, 40), (192, 32), (224, 16), (256, 32)]

/-- Check of TRACE_CFG (R489). -/
def checkTrace (pl : Bytes) (s : State) : List Fail :=
  let sev := dget pl 8 4
  let len := dget pl 128 40
  let base := dget pl 64 48
  let us := dget pl 192 32
  let ok := decide (2 ^ 16 ≤ len) && decide (len ≤ 2 ^ 36)
  reservedFail (pl.take 256) traceFields ++ failIf (sev == 0 || decide (5 < sev)) 0x0104 (some 8)
    ++ failIf (dget pl 32 1 == 1) 0x0104 (some 32) ++ failIf (base % 4096 != 0) 0x0105 (some 64)
    ++ failIf (ok && !inMemory s base len) 0x0106 (some 64) ++ failIf (len % 4096 != 0) 0x0105 (some 128)
    ++ failIf (!ok) 0x0104 (some 128) ++ failIf (us != 0 && (decide (us < 10) || decide (1000000 < us))) 0x0104 (some 192)

/-- A trace configuration read. -/
def readTrace (pl : Bytes) : Trace :=
  { enabled := true, wrap := dget pl 1 1 == 1, armed := dget pl 2 1 == 1, minSev := dget pl 8 4
    trigger := dget pl 16 16, kinds := dget pl 32 32, base := dget pl 64 48, len := dget pl 128 40
    sampleUs := dget pl 192 32, clusters := dget pl 224 16, post := dget pl 256 32 }

/-- Tracing stops; what waits in the queue is not written. -/
def Trace.stop (t : Trace) : Trace := { t with enabled := false, queue := [] }

/-- TRACE_CFG: tracing starts anew with an empty header, or stops and leaves the buffer. -/
def execTraceCfg (o : Origin) (s : State) : Host.Outcome State Fault Refusal :=
  .next (command o 0x00B1 checkTrace (fun pl s =>
    if dget pl 0 1 = 1 then answerOk o [] (writeTraceHeader { s with trace := readTrace pl })
    else if s.trace.enabled then answerOk o [] (writeTraceHeader { s with trace := s.trace.stop })
    else answerOk o [] s) s)

/-- TRACE_SAMPLE (Table 18.15). -/
def execTraceSample (s : State) : Host.Outcome State Fault Refusal :=
  if s.trace.enabled = false ∨ s.trace.sampleUs = 0 then idle s
  else
    let slow := ((List.range 8).map fun i => pacePresent s (16 + i)).foldl min 0xFFFF
    .next (traceRec 0x0B 0 (fld (arrayPace s) 0 16 + fld s.pace.power 16 16 + fld s.pace.allow 32 16 + fld s.pace.actLevel 48 3
      + fld (degC (tempBase s)) 56 8 + fld (degC (tempTier s)) 64 8 + fld slow 72 16 + fld (flowField s) 88 16) s)

/-- A trace record (Table 18.16), 32 bytes. -/
def TraceRec.bytes (r : TraceRec) (num : Nat) : Bytes :=
  natLE 32 (fld r.time 0 64 + fld r.kind 64 8 + fld r.src 72 16 + fld num 96 32 + fld r.data 128 128)

/-- Tracing stops with TRACE_STOPPED: 0 the buffer is full, 1 the post-trigger count is reached (R491). -/
def stopTrace (cause : Nat) (s : State) : State :=
  let n := s.trace.written
  logEvent 0x0D02 0 (fld cause 0 2 + fld n 32 32) (writeTraceHeader { s with trace := s.trace.stop })

/-- What stops tracing after a record has been written. -/
def traceLimit (s : State) : State :=
  let t := s.trace
  if !t.wrap && decide (traceEntries t.len ≤ t.written) then stopTrace 0 s
  else if t.post ≠ 0 ∧ t.post ≤ t.after then stopTrace 1 s
  else s

/-- One record put in its place, then the count raised; one that is refused or discarded is lost (R490, R491). `follows`
says that it followed the trigger. -/
def putTrace (r : TraceRec) (follows : Bool) (s : State) : State :=
  let t := s.trace
  let a := t.base + 128 + 32 * (t.written % traceEntries t.len)
  let bs := r.bytes t.written
  let lost := accessOf s (a / 128 * 128) != .ok || placeLost s (locate s a)
  let s := storeBytes a bs s
  if lost then tally 9 0 10 1 { s with trace := { s.trace with lost := t.lost + 1, lostNew := s.trace.lostNew + 1 } }
  else
    let start := if t.written = 0 then r.time else t.start
    let after := t.after + b2n follows
    traceLimit (writeTraceHeader { s with trace := { s.trace with written := t.written + 1, start := start, after := after } })

/-- TRACE_RECORD_WRITE: the next queued record, or LOST before it when records have been lost since the last (R491). -/
def execTraceRecordWrite (s : State) : Host.Outcome State Fault Refusal :=
  let t := s.trace
  if t.enabled = false then idle s
  else match t.queue with
    | [] => idle s
    | r :: rest =>
      if t.lostNew ≠ 0 then
        let lost : TraceRec := ⟨now s, 0x0C, 0, t.lostNew⟩
        .next (putTrace lost (t.triggered && t.ahead == 0) { s with trace := { t with lostNew := 0 } })
      else
        .next (putTrace r (t.triggered && t.ahead == 0) { s with trace := { t with queue := rest, ahead := t.ahead - 1 } })

end Sys2Proof.Machine
end

