-- ==== Sys2Proof/Machine/Smbus.lean ====
section
/-! DEFINITION. The SMBus telemetry block and the accesses to it (R403, R404, Table 14.12). -/

namespace Sys2Proof.Machine

/-- Highest temperature of all groups. -/
def tempMax (s : State) : Int := max (tempBase s) (max (tempTier s) (tempSide s))

/-- Input power averaged over 100 ms: over the windows of that time that have been taken (log 74). -/
def powerAverage (s : State) : Nat := s.pace.powHist.foldl (fun n w => n + w) 0 / max 1 s.pace.powHist.length

/-- The telemetry block, 32 bytes. -/
def smbBlock (s : State) : Bytes :=
  natLE 32 (fld 1 0 8 + fld (moduleState s) 8 8 + fld (b2n s.ev.degraded) 16 1 + fld (b2n (anyWarn s)) 17 1
    + fld (b2n s.thermal.hold) 18 1 + fld (stageNow s) 24 8 + fld (degC (tempMax s)) 32 8 + fld (degC s.coolant.inlet) 40 8
    + fld (degC s.coolant.outlet) 48 8 + fld (powerAverage s) 64 16 + fld (s.power.vin / 10) 80 16 + fld (flowField s) 96 16
    + fld s.shut.cause 112 8 + fld s.tele.mask 120 8 + fld s.tele.alert 128 8 + fld s.bring.resetGen 160 32
    + fld serialNumber 192 64)

/-- `smb_alert_n` is asserted (R404). -/
def smbAlert (s : State) : Bool := s.tele.alert &&& s.tele.mask != 0

/-- The packet error code of a transaction's bytes, CRC-8 of SMBus 3.1 (R403; PRESUMED, log 192). -/
def smbPec (bs : Bytes) : Nat :=
  bs.foldl (fun c b => (List.range 8).foldl (fun c _ => if 128 ≤ c then (2 * c % 256) ^^^ 7 else 2 * c) (c ^^^ b.toNat)) 0

/-- The address byte that opens a transaction with the module (R25). -/
def smbAddrByte (s : State) (read : Bool) : Byte := BitVec.ofNat 8 (2 * s.power.smbAddr + b2n read)

/-- A read's answer: `bs` at a command code, with the PEC over the whole transaction; `count` is a block read's count byte. -/
def smbAnswer (s : State) (code : Nat) (count bs : Bytes) : Output :=
  .smbus bs (smbPec ([smbAddrByte s false, BitVec.ofNat 8 code, smbAddrByte s true] ++ count ++ bs))

/-- A byte write carries no PEC, or the one that its bytes give; a write whose PEC is wrong is not acknowledged. -/
def smbPecOk (s : State) (code value : Nat) (pec : Option Nat) : Bool :=
  match pec with
  | some p => p == smbPec [smbAddrByte s false, BitVec.ofNat 8 code, BitVec.ofNat 8 value]
  | none => true

/-- An SMBus transaction that the module answers once its standby rail is in regulation (R403); before, no one answers. -/
def smbus (r : Output) (s : State) : Host.Outcome State Fault Refusal :=
  if s.power.standby then .next { s with out := s.out ++ [r] } else idle s

/-- BYTE_READ: codes 0x00 to 0x1F. -/
def execByteRead (code : Nat) (s : State) : Host.Outcome State Fault Refusal :=
  smbus (if code < 32 then smbAnswer s code [] (slice (smbBlock s) code 1) else .smbusNak) s

/-- WORD_READ: codes 0x00 to 0x1F; beyond the block a byte reads 0. -/
def execWordRead (code : Nat) (s : State) : Host.Outcome State Fault Refusal :=
  smbus (if code < 32 then smbAnswer s code [] (slice (smbBlock s) code 2) else .smbusNak) s

/-- BLOCK_READ: all 32 bytes. -/
def execBlockRead (s : State) : Host.Outcome State Fault Refusal :=
  smbus (smbAnswer s 0x20 [32] (slice (smbBlock s) 0 32)) s

/-- A byte write to one of the two codes that take it. -/
def smbWrite (code value : Nat) (pec : Option Nat) (tele : Telemetry) (s : State) : Host.Outcome State Fault Refusal :=
  if s.power.standby = false then idle s
  else if smbPecOk s code value pec then .next { s with tele := tele }
  else .next { s with out := s.out ++ [.smbusNak] }

/-- ALERT_MASK_WRITE: reserved bits stay 0. -/
def execAlertMaskWrite (value : Nat) (pec : Option Nat) (s : State) : Host.Outcome State Fault Refusal :=
  smbWrite 0x0F value pec { s.tele with mask := value % 16 } s

/-- ALERT_STATUS_WRITE: bits written as 1 clear. -/
def execAlertStatusWrite (value : Nat) (pec : Option Nat) (s : State) : Host.Outcome State Fault Refusal :=
  smbWrite 0x10 value pec { s.tele with alert := s.tele.alert &&& (15 ^^^ value % 16) } s

/-- ALERT_RESPONSE: the module answers with its address while it asserts `smb_alert_n`. -/
def execAlertResponse (s : State) : Host.Outcome State Fault Refusal :=
  let me : Bytes := [BitVec.ofNat 8 s.power.smbAddr]
  if smbAlert s then smbus (.smbus me (smbPec (BitVec.ofNat 8 0x19 :: me))) s else idle s

end Sys2Proof.Machine
end

