-- ==== Sys2Proof/Machine/Dispatch.lean ====
section
/-! DEFINITION. The dispatch of a command to its meaning: one arm for each constructor of Instr. -/

namespace Sys2Proof.Machine

def exec (i : Instr) (s : State) : Host.Outcome State Fault Refusal :=
  match i with
  | .powerApplication vin => Sys2Proof.Machine.execPowerApplication vin s
  | .standbyRailRegulation straps => Sys2Proof.Machine.execStandbyRailRegulation straps s
  | .startWaitExpiry => Sys2Proof.Machine.execStartWaitExpiry s
  | .startWaitRestart vin seatOpen => Sys2Proof.Machine.execStartWaitRestart vin seatOpen s
  | .seatSenseOpen => Sys2Proof.Machine.execSeatSenseOpen s
  | .seatSenseClose => Sys2Proof.Machine.execSeatSenseClose s
  | .inputRemoved vin => Sys2Proof.Machine.execInputRemoved vin s
  | .inputUndervoltage vin sameMicrosecond => Sys2Proof.Machine.execInputUndervoltage vin sameMicrosecond s
  | .inputOvervoltage vin sameMicrosecond => Sys2Proof.Machine.execInputOvervoltage vin sameMicrosecond s
  | .inputOvercurrent iin sameMicrosecond => Sys2Proof.Machine.execInputOvercurrent iin sameMicrosecond s
  | .shutdownRecordWrite => Sys2Proof.Machine.execShutdownRecordWrite s
  | .perstPulse => Sys2Proof.Machine.execPerstPulse s
  | .perstDeassert => Sys2Proof.Machine.execPerstDeassert s
  | .pcieLinkUp speed width flit => Sys2Proof.Machine.execPcieLinkUp speed width flit s
  | .stage0End flash us => Sys2Proof.Machine.execStage0End flash us s
  | .stage1End rails networkOk groups us => Sys2Proof.Machine.execStage1End rails networkOk groups us s
  | .coolantWaitMet groups waitMs => Sys2Proof.Machine.execCoolantWaitMet groups waitMs s
  | .coolantWaitTimeout => Sys2Proof.Machine.execCoolantWaitTimeout s
  | .stage2End rows tiersGood sidesGood sideRows us => Sys2Proof.Machine.execStage2End rows tiersGood sidesGood sideRows us s
  | .stage3End crcFails us => Sys2Proof.Machine.execStage3End crcFails us s
  | .stage4End units tiles us => Sys2Proof.Machine.execStage4End units tiles us s
  | .stageBudgetTimeout => Sys2Proof.Machine.execStageBudgetTimeout s
  | .cobblerWatchdog lockstepMismatch => Sys2Proof.Machine.execCobblerWatchdog lockstepMismatch s
  | .paceMonitorWindow n pace => Sys2Proof.Machine.execPaceMonitorWindow n pace s
  | .powerWindow watts rails => Sys2Proof.Machine.execPowerWindow watts rails s
  | .safetyRampDownEnd => Sys2Proof.Machine.execSafetyRampDownEnd s
  | .opPointChange => Sys2Proof.Machine.execOpPointChange s
  | .portPark p => Sys2Proof.Machine.execPortPark p s
  | .disciplineChange => Sys2Proof.Machine.execDisciplineChange s
  | .reductionChange => Sys2Proof.Machine.execReductionChange s
  | .paceMonRead n off size => Sys2Proof.Machine.execPaceMonRead n off size s
  | .tierStatRead u off size => Sys2Proof.Machine.execTierStatRead u off size s
  | .periodicStatRead u off size => Sys2Proof.Machine.execPeriodicStatRead u off size s
  | .portStatRead p off size => Sys2Proof.Machine.execPortStatRead p off size s
  | .identTimebaseRead off size => Sys2Proof.Machine.execIdentTimebaseRead off size s
  | .shankStatWrite t value => Sys2Proof.Machine.execShankStatWrite t value s
  | .sideStatWrite u value => Sys2Proof.Machine.execSideStatWrite u value s
  | .memEccCfgWrite part value => Sys2Proof.Machine.execMemEccCfgWrite part value s
  | .bar2WinWrite part value => Sys2Proof.Machine.execBar2WinWrite part value s
  | .l2CfgWrite part value => Sys2Proof.Machine.execL2CfgWrite part value s
  | .ptmCtlWrite part value => Sys2Proof.Machine.execPtmCtlWrite part value s
  | .msixModWrite v value => Sys2Proof.Machine.execMsixModWrite v value s
  | .msixTableWrite v dword value => Sys2Proof.Machine.execMsixTableWrite v dword value s
  | .bar0Write off size value ep => Sys2Proof.Machine.execBar0Write off size value ep s
  | .mailboxSlotWrite slot off data => Sys2Proof.Machine.execMailboxSlotWrite slot off data s
  | .bar2Resize code => Sys2Proof.Machine.execBar2Resize code s
  | .busMasterEnable cfg => Sys2Proof.Machine.execBusMasterEnable cfg s
  | .ptmEnable on => Sys2Proof.Machine.execPtmEnable on s
  | .powerStateChange d3hot => Sys2Proof.Machine.execPowerStateChange d3hot s
  | .flr => Sys2Proof.Machine.execFlr s
  | .hotReset => Sys2Proof.Machine.execHotReset s
  | .dlDown => Sys2Proof.Machine.execDlDown s
  | .bar2Read off len => Sys2Proof.Machine.execBar2Read off len s
  | .bar2Write off data ep => Sys2Proof.Machine.execBar2Write off data ep s
  | .ptmDialog master delay => Sys2Proof.Machine.execPtmDialog master delay s
  | .msixHoldoffExpiry v => Sys2Proof.Machine.execMsixHoldoffExpiry v s
  | .hostReadCompletion tag r rd => Sys2Proof.Machine.execHostReadCompletion tag r rd s
  | .hostCompletionTimeout tag => Sys2Proof.Machine.execHostCompletionTimeout tag s
  | .mailboxScan => Sys2Proof.Machine.execMailboxScan s
  | .summary o => Sys2Proof.Machine.execSummary o s
  | .summarySnapshot => Sys2Proof.Machine.execSummarySnapshot s
  | .stageReport o => Sys2Proof.Machine.execStageReport o s
  | .setMode o => Sys2Proof.Machine.execSetMode o s
  | .setNetworkMode o => Sys2Proof.Machine.execSetNetworkMode o s
  | .setNetworkModeLoad o rd => Sys2Proof.Machine.execSetNetworkModeLoad o rd s
  | .setNetworkModeUnload o => Sys2Proof.Machine.execSetNetworkModeUnload o s
  | .setReduction o => Sys2Proof.Machine.execSetReduction o s
  | .modelLoad o rd => Sys2Proof.Machine.execModelLoad o rd s
  | .modelEvict o => Sys2Proof.Machine.execModelEvict o s
  | .taskDefine o => Sys2Proof.Machine.execTaskDefine o s
  | .taskEnable o rd => Sys2Proof.Machine.execTaskEnable o rd s
  | .taskSubmit o rd => Sys2Proof.Machine.execTaskSubmit o rd s
  | .gatherTimerExpiry task => Sys2Proof.Machine.execGatherTimerExpiry task s
  | .taskAbort o => Sys2Proof.Machine.execTaskAbort o s
  | .periodicDefine o => Sys2Proof.Machine.execPeriodicDefine o s
  | .periodicEnable o => Sys2Proof.Machine.execPeriodicEnable o s
  | .seqCreate o => Sys2Proof.Machine.execSeqCreate o s
  | .seqExtend o => Sys2Proof.Machine.execSeqExtend o s
  | .seqFree o rd => Sys2Proof.Machine.execSeqFree o rd s
  | .lend o => Sys2Proof.Machine.execLend o s
  | .lendProceed region => Sys2Proof.Machine.execLendProceed region s
  | .returnRegion o => Sys2Proof.Machine.execReturnRegion o s
  | .awlRun o rd => Sys2Proof.Machine.execAwlRun o rd s
  | .pin o => Sys2Proof.Machine.execPin o s
  | .unpin o => Sys2Proof.Machine.execUnpin o s
  | .discardCfg o => Sys2Proof.Machine.execDiscardCfg o s
  | .discard o => Sys2Proof.Machine.execDiscard o s
  | .discardProceed o => Sys2Proof.Machine.execDiscardProceed o s
  | .streamDefine o => Sys2Proof.Machine.execStreamDefine o s
  | .streamEnable o => Sys2Proof.Machine.execStreamEnable o s
  | .intakeDefine o => Sys2Proof.Machine.execIntakeDefine o s
  | .completionDefine o => Sys2Proof.Machine.execCompletionDefine o s
  | .podConfig o => Sys2Proof.Machine.execPodConfig o s
  | .podSend o => Sys2Proof.Machine.execPodSend o s
  | .routeSet o => Sys2Proof.Machine.execRouteSet o s
  | .fwStage o rd => Sys2Proof.Machine.execFwStage o rd s
  | .fwVerify o => Sys2Proof.Machine.execFwVerify o s
  | .fwCommit o flashOk => Sys2Proof.Machine.execFwCommit o flashOk s
  | .attest o => Sys2Proof.Machine.execAttest o s
  | .ledgerRead o => Sys2Proof.Machine.execLedgerRead o s
  | .ledgerClear o rd => Sys2Proof.Machine.execLedgerClear o rd s
  | .countersRead o => Sys2Proof.Machine.execCountersRead o s
  | .traceCfg o => Sys2Proof.Machine.execTraceCfg o s
  | .thermalCfg o => Sys2Proof.Machine.execThermalCfg o s
  | .coolantCfg o => Sys2Proof.Machine.execCoolantCfg o s
  | .stackReset o => Sys2Proof.Machine.execStackReset o s
  | .intakePoll area rd => Sys2Proof.Machine.execIntakePoll area rd s
  | .streamTransfer sub rd => Sys2Proof.Machine.execStreamTransfer sub rd s
  | .streamTransferDone sub => Sys2Proof.Machine.execStreamTransferDone sub s
  | .dispatchOperation rd => Sys2Proof.Machine.execDispatchOperation rd s
  | .operationEnd rd => Sys2Proof.Machine.execOperationEnd rd s
  | .arrayBarrierRelease order rd => Sys2Proof.Machine.execArrayBarrierRelease order rd s
  | .arrayResidue tile unit => Sys2Proof.Machine.execArrayResidue tile unit s
  | .pageWalk entry chunk page rd => Sys2Proof.Machine.execPageWalk entry chunk page rd s
  | .tileScalarInteger t op form => Sys2Proof.Machine.execTileScalarInteger t op form s
  | .tileControl t op => Sys2Proof.Machine.execTileControl t op s
  | .tileLbScalar t store size signed => Sys2Proof.Machine.execTileLbScalar t store size signed s
  | .tileVectorArith t op lane => Sys2Proof.Machine.execTileVectorArith t op lane s
  | .tileVectorConvert t op round sat => Sys2Proof.Machine.execTileVectorConvert t op round sat s
  | .tileLbVector t store mode => Sys2Proof.Machine.execTileLbVector t store mode s
  | .tileMemoryTransfer t store len rd => Sys2Proof.Machine.execTileMemoryTransfer t store len rd s
  | .tileAddToLine t code mask rd => Sys2Proof.Machine.execTileAddToLine t code mask rd s
  | .fence t rd => Sys2Proof.Machine.execFence t rd s
  | .sync t => Sys2Proof.Machine.execSync t s
  | .tileIdent t which => Sys2Proof.Machine.execTileIdent t which s
  | .tileHalt t => Sys2Proof.Machine.execTileHalt t s
  | .stackLineRead req a sectors errs again cross => Sys2Proof.Machine.execStackLineRead req a sectors errs again cross s
  | .stackLineWrite req a data errs cross => Sys2Proof.Machine.execStackLineWrite req a data errs cross s
  | .rowRemapped side unit => Sys2Proof.Machine.execRowRemapped side unit s
  | .guardMismatch req t write a data cross => Sys2Proof.Machine.execGuardMismatch req t write a data cross s
  | .laneFault t g => Sys2Proof.Machine.execLaneFault t g s
  | .shankReconfigured t => Sys2Proof.Machine.execShankReconfigured t s
  | .tierRailFailure m mv => Sys2Proof.Machine.execTierRailFailure m mv s
  | .refreshSlot m t => Sys2Proof.Machine.execRefreshSlot m t s
  | .refreshPostponed m t => Sys2Proof.Machine.execRefreshPostponed m t s
  | .refreshPreempt m t => Sys2Proof.Machine.execRefreshPreempt m t s
  | .refreshBandDown m => Sys2Proof.Machine.execRefreshBandDown m s
  | .bucketLeak => Sys2Proof.Machine.execBucketLeak s
  | .patrolScrubRead side errs again => Sys2Proof.Machine.execPatrolScrubRead side errs again s
  | .sideStackAccess req a acc errs again => Sys2Proof.Machine.execSideStackAccess req a acc errs again s
  | .sideBandwidthWindow u => Sys2Proof.Machine.execSideBandwidthWindow u s
  | .sideLinkCheckFail u line => Sys2Proof.Machine.execSideLinkCheckFail u line s
  | .sideStackRetrain u ok => Sys2Proof.Machine.execSideStackRetrain u ok s
  | .l2Read req a => Sys2Proof.Machine.execL2Read req a s
  | .l2Write req a data => Sys2Proof.Machine.execL2Write req a data s
  | .streamingRead req a => Sys2Proof.Machine.execStreamingRead req a s
  | .addToLine req a code mask data => Sys2Proof.Machine.execAddToLine req a code mask data s
  | .l2Fill slice index errs again cross => Sys2Proof.Machine.execL2Fill slice index errs again cross s
  | .thrashWindow => Sys2Proof.Machine.execThrashWindow s
  | .periodicRelease u => Sys2Proof.Machine.execPeriodicRelease u s
  | .periodicOverrun u => Sys2Proof.Machine.execPeriodicOverrun u s
  | .awlRunStart rd => Sys2Proof.Machine.execAwlRunStart rd s
  | .awlRunEnd rd => Sys2Proof.Machine.execAwlRunEnd rd s
  | .awlBudgetExpiry => Sys2Proof.Machine.execAwlBudgetExpiry s
  | .awlScalarInteger a op form => Sys2Proof.Machine.execAwlScalarInteger a op form s
  | .awlControl a op => Sys2Proof.Machine.execAwlControl a op s
  | .awlScratchScalar a store size signed => Sys2Proof.Machine.execAwlScratchScalar a store size signed s
  | .awlScratchVector a store => Sys2Proof.Machine.execAwlScratchVector a store s
  | .awlVectorArith a op lane => Sys2Proof.Machine.execAwlVectorArith a op lane s
  | .awlVectorConvert a op towardZero sat => Sys2Proof.Machine.execAwlVectorConvert a op towardZero sat s
  | .ldl a => Sys2Proof.Machine.execLdl a s
  | .ldw a => Sys2Proof.Machine.execLdw a s
  | .awlLoadReturn a errs again => Sys2Proof.Machine.execAwlLoadReturn a errs again s
  | .stl a => Sys2Proof.Machine.execStl a s
  | .stw a errs => Sys2Proof.Machine.execStw a errs s
  | .linv a => Sys2Proof.Machine.execLinv a s
  | .lhome a => Sys2Proof.Machine.execLhome a s
  | .send a => Sys2Proof.Machine.execSend a s
  | .bcast a => Sys2Proof.Machine.execBcast a s
  | .tierBusDelivery m => Sys2Proof.Machine.execTierBusDelivery m s
  | .recv a => Sys2Proof.Machine.execRecv a s
  | .bar a => Sys2Proof.Machine.execBar a s
  | .awlBarrierRelease => Sys2Proof.Machine.execAwlBarrierRelease s
  | .awlIdent a which => Sys2Proof.Machine.execAwlIdent a which s
  | .yieldPoint a => Sys2Proof.Machine.execYieldPoint a s
  | .hold a => Sys2Proof.Machine.execHold a s
  | .release a => Sys2Proof.Machine.execRelease a s
  | .awlHalt a => Sys2Proof.Machine.execAwlHalt a s
  | .trainingAttempt p => Sys2Proof.Machine.execTrainingAttempt p s
  | .portUp p partner credits wiring => Sys2Proof.Machine.execPortUp p partner credits wiring s
  | .portTrainingFailed p step => Sys2Proof.Machine.execPortTrainingFailed p step s
  | .cableRemoved j => Sys2Proof.Machine.execCableRemoved j s
  | .flitData p f => Sys2Proof.Machine.execFlitData p f s
  | .flitIdle p f => Sys2Proof.Machine.execFlitIdle p f s
  | .flitTrain p f => Sys2Proof.Machine.execFlitTrain p f s
  | .flitCrcFailure p f => Sys2Proof.Machine.execFlitCrcFailure p f s
  | .uncorrectableCodeword p errs => Sys2Proof.Machine.execUncorrectableCodeword p errs s
  | .replayReq p f => Sys2Proof.Machine.execReplayReq p f s
  | .nack p f => Sys2Proof.Machine.execNack p f s
  | .creditInit p f => Sys2Proof.Machine.execCreditInit p f s
  | .retrainReq p f => Sys2Proof.Machine.execRetrainReq p f s
  | .quarantineNotice p f => Sys2Proof.Machine.execQuarantineNotice p f s
  | .park p f => Sys2Proof.Machine.execPark p f s
  | .replayReqResend p => Sys2Proof.Machine.execReplayReqResend p s
  | .ackTimeoutReplay p => Sys2Proof.Machine.execAckTimeoutReplay p s
  | .ackIdle p => Sys2Proof.Machine.execAckIdle p s
  | .creditInitResend p partner => Sys2Proof.Machine.execCreditInitResend p partner s
  | .idleInsertion p => Sys2Proof.Machine.execIdleInsertion p s
  | .laneLockLoss p codewords => Sys2Proof.Machine.execLaneLockLoss p codewords s
  | .retrainingEnd p partner credits wiring => Sys2Proof.Machine.execRetrainingEnd p partner credits wiring s
  | .quarantineHoldExpiry p => Sys2Proof.Machine.execQuarantineHoldExpiry p s
  | .read p vc => Sys2Proof.Machine.execRead p vc s
  | .write p vc => Sys2Proof.Machine.execWrite p vc s
  | .add p vc => Sys2Proof.Machine.execAdd p vc s
  | .copy p vc rd => Sys2Proof.Machine.execCopy p vc rd s
  | .signal p vc => Sys2Proof.Machine.execSignal p vc s
  | .signalSend k => Sys2Proof.Machine.execSignalSend k s
  | .collective k => Sys2Proof.Machine.execCollective k s
  | .resp p vc => Sys2Proof.Machine.execResp p vc s
  | .data p vc => Sys2Proof.Machine.execData p vc s
  | .mailbox p vc => Sys2Proof.Machine.execMailbox p vc s
  | .hello => Sys2Proof.Machine.execHello s
  | .relayCmd => Sys2Proof.Machine.execRelayCmd s
  | .relayRsp => Sys2Proof.Machine.execRelayRsp s
  | .frameReq => Sys2Proof.Machine.execFrameReq s
  | .frameRsp => Sys2Proof.Machine.execFrameRsp s
  | .eventFwd => Sys2Proof.Machine.execEventFwd s
  | .frameFree => Sys2Proof.Machine.execFrameFree s
  | .requestTimeout req => Sys2Proof.Machine.execRequestTimeout req s
  | .busyRetry req => Sys2Proof.Machine.execBusyRetry req s
  | .podMemberMissing d => Sys2Proof.Machine.execPodMemberMissing d s
  | .sensorSample rs => Sys2Proof.Machine.execSensorSample rs s
  | .thresholdClear g throttle => Sys2Proof.Machine.execThresholdClear g throttle s
  | .sensorDisagree h => Sys2Proof.Machine.execSensorDisagree h s
  | .flowSample reading => Sys2Proof.Machine.execFlowSample reading s
  | .thermalModelTick ps ttsMs => Sys2Proof.Machine.execThermalModelTick ps ttsMs s
  | .tierSensorSuspect m estimate => Sys2Proof.Machine.execTierSensorSuspect m estimate s
  | .coolantCycle tachHz => Sys2Proof.Machine.execCoolantCycle tachHz s
  | .pumpTachLost => Sys2Proof.Machine.execPumpTachLost s
  | .coolantWarning => Sys2Proof.Machine.execCoolantWarning s
  | .coolantWarningClear => Sys2Proof.Machine.execCoolantWarningClear s
  | .coolantLoss => Sys2Proof.Machine.execCoolantLoss s
  | .coolantLossClear => Sys2Proof.Machine.execCoolantLossClear s
  | .thermalReport => Sys2Proof.Machine.execThermalReport s
  | .rateLimitIntervalEnd code source => Sys2Proof.Machine.execRateLimitIntervalEnd code source s
  | .eventsSuppressed code => Sys2Proof.Machine.execEventsSuppressed code s
  | .traceSample => Sys2Proof.Machine.execTraceSample s
  | .traceRecordWrite => Sys2Proof.Machine.execTraceRecordWrite s
  | .byteRead code => Sys2Proof.Machine.execByteRead code s
  | .wordRead code => Sys2Proof.Machine.execWordRead code s
  | .blockRead => Sys2Proof.Machine.execBlockRead s
  | .alertMaskWrite value pec => Sys2Proof.Machine.execAlertMaskWrite value pec s
  | .alertStatusWrite value pec => Sys2Proof.Machine.execAlertStatusWrite value pec s
  | .alertResponse => Sys2Proof.Machine.execAlertResponse s
  | .cableInserted j => Sys2Proof.Machine.execCableInserted j s
  | .flitUnknownType p f => Sys2Proof.Machine.execFlitUnknownType p f s
  | .messageUnknownType p vc => Sys2Proof.Machine.execMessageUnknownType p vc s
  | .tileReservedOpcode t => Sys2Proof.Machine.execTileReservedOpcode t s
  | .awlIllegalInstruction a => Sys2Proof.Machine.execAwlIllegalInstruction a s
  | .holdTimeReturn p => Sys2Proof.Machine.execHoldTimeReturn p s
  | .rateCountBucket p => Sys2Proof.Machine.execRateCountBucket p s
  | .functionMaskClear enable mask => Sys2Proof.Machine.execFunctionMaskClear enable mask s
  | .completionAreaHostCount area host => Sys2Proof.Machine.execCompletionAreaHostCount area host s
  | .standbyRailLost vin => Sys2Proof.Machine.execStandbyRailLost vin s

end Sys2Proof.Machine
end

