-- ==== Sys2Proof/Machine/Idle.lean ====
section
/-! DEFINITION. What the block does while no command waits: its timebase counts, the network steps, the array's
activity ramps, the budget of an awl run is used up, and host reads that have waited are served. -/

namespace Sys2Proof.Machine

/-- The quarters toward which the activity ramps (R71): the activity level while an operation runs, which is none while it
stalls in THERMAL_HOLD; idle once none has run for 640 steps (log 154). -/
def Pace.rampGoal (p : Pace) (running : Bool) : Nat :=
  if running then p.actLevel else if p.ramp < 640 then p.active else 0

/-- The activity after some array steps (Table 2.10): the first quarter at once from idle, and then a quarter more or less in
every 8 steps until the goal is reached. -/
def Pace.ramped (p : Pace) (running : Bool) : Pace :=
  let goal := p.rampGoal running
  if p.active = goal then { p with moved := 0 }
  else if p.active = 0 then { p with active := 1, moved := 0 }
  else if p.moved < 8 then p
  else { p with active := if p.active < goal then p.active + 1 else p.active - 1, moved := p.moved - 8 }

/-- One nanosecond of the array's steps at its pace. -/
def rampArray (pace : Nat) (s : State) : State :=
  let n := s.pace.steps + pace
  { s with pace := ({ s.pace with steps := n % 1000, ramp := s.pace.ramp + n / 1000, moved := s.pace.moved + n / 1000 }
      : Pace).ramped s.sched.op.isSome }

/-- The duration of a stage under way, published every 10 ms of its time; a coolant wait does not count (R409). -/
def stageTick (s : State) : State :=
  match s.power.phase with
  | .bringup n =>
    if s.power.stageFailed || s.power.coolantWait then s
    else
      let ns := s.bring.stageNs + 1
      let b := { s.bring with stageNs := ns }
      { s with bring := if ns % 10 ^ 7 = 0 then { b with reports := Tab.upd {} b.reports n fun r => { r with us := ns / 1000 } } else b }
  | _ => s

/-- One tick of 1 ns (R363) once `VPHY` is in regulation (R407); before that nothing moves. DESIGN CHOICE
(log 2): the tick stands in place of idling; every other effect of time has its command. -/
def idleTick (s : State) : State :=
  if s.power.timebaseOn then
    serveBar2 (meshTick (arrayPace s) (rampArray (arrayPace s) (budgetTick (stageTick { s with timebase := (s.timebase + 1) % 2 ^ 64 }))))
  else s

end Sys2Proof.Machine
end

