-- ==== Sys2Proof/Safety.lean ====
section
/-! DEFINITION. The terms in which claims are stated: that a command completes, what reporting may change and leaves
alone, how a command of the Cobbler is answered, the byte of a device address, and the invariants. -/

namespace Sys2Proof.Machine

/-- The command completes on the state, and the next state meets `P`. -/
def Completes (c : Instr) (s : State) (P : State → Prop) : Prop := ∃ t, exec c s = .next t ∧ P t

/-- The byte that the cells hold at a device address (R412: 0 where nothing has been written). -/
def cellByte (s : State) (a : Nat) : Byte := Tab.get 0 s.stack.mem a

/-- The 128 bytes that the cells hold from an address. -/
def lineBytes (s : State) (a : Nat) : Bytes := (List.range 128).map fun i => cellByte s (a + i)

/-- The four sectors from an address carry no mark: their check bytes are the encoder's, and none is dead. -/
def CleanLine (s : State) (a : Nat) : Prop := ∀ i, i < 4 → Tab.get {} s.stack.mark (a / 32 + i) = {}

/-- From `s` to `t` the bytes that `data` names from an address are stored, and every other byte reads as before. -/
def Stored (s t : State) (a : Nat) (data : List (Option Byte)) : Prop :=
  ∀ x, cellByte t x = (if a ≤ x then (data[x - a]?).join else none).getD (cellByte s x)

/-- Every byte of memory, its marks and every cached line are as they were. -/
def SameMemory (s t : State) : Prop := t.stack.mem = s.stack.mem ∧ t.stack.mark = s.stack.mark ∧ t.cache = s.cache

/-- A port whose session's queues and the stream that it sends are those of `q`. -/
def Port.sending (pt q : Port) : Port :=
  { pt with sess := q.sess, sinceIdle := q.sinceIdle, phy := { pt.phy with tx := q.phy.tx } }

/-- From `s` to `t` nothing has changed but by reporting (R472-R479, R485, R488, R491, R367-R370, R353): records,
counters, trace records, alerts, interrupts raised or held, and what is on its way out of the module, through the on-die
network too. Output already given stays, ports keep their state and all but their session's queues and the stream that they send, requests already
outstanding stay. -/
structure Reports (s t : State) : Prop where
  power    : t.power = s.power
  pace     : t.pace = s.pace
  bring    : t.bring = s.bring
  mail     : t.mail = s.mail
  obj      : t.obj = s.obj
  sched    : t.sched = s.sched
  tiles    : t.tiles = s.tiles
  stack    : t.stack = s.stack
  cache    : t.cache = s.cache
  awls     : t.awls = s.awls
  thermal  : t.thermal = s.thermal
  coolant  : t.coolant = s.coolant
  shut     : t.shut = s.shut
  fw       : t.fw = s.fw
  timebase : t.timebase = s.timebase
  sram     : t.sram = s.sram
  fresh    : t.fresh = s.fresh
  waits    : t.waits = s.waits
  pending  : t.pending = s.pending
  pcie     : t.pcie = { s.pcie with aer := t.pcie.aer, pba := t.pcie.pba, heldRecs := t.pcie.heldRecs
                                    heldMsix := t.pcie.heldMsix
                                    gathered := t.pcie.gathered }
  pod      : t.pod = { s.pod with reqs := t.pod.reqs, nextReq := t.pod.nextReq, mseq := t.pod.mseq }
  trace    : t.trace = { s.trace with queue := t.trace.queue, lost := t.trace.lost, lostNew := t.trace.lostNew
                                      triggered := t.trace.triggered, ahead := t.trace.ahead }
  tele     : t.tele = { s.tele with alert := t.tele.alert }
  ports    : ∀ p, port t p = (port s p).sending (port t p)
  out      : ∃ l, t.out = s.out ++ l
  reqs     : ∃ l, t.pod.reqs = s.pod.reqs ++ l

/-- From `s` to `t` memory was accessed: stored bytes, marks, caches and the records of the stacked memory may have
changed, an access may wait, free values may have been used, and what is reported of it. -/
def Accessed (s t : State) : Prop :=
  Reports { s with stack := t.stack, cache := t.cache, waits := t.waits, fresh := t.fresh } t

/-- From `s` to `t` a read of `n` bytes of BAR0 from `x` was served (R362): its bytes as they stood, and every RC field that it
covers whole cleared, no other thing changed. -/
structure RegisterRead (x n : Nat) (s t : State) : Prop where
  given : t.out = s.out ++ [.registerRead (bar0Read s x n)]
  rest  : t = { s with
    out := t.out, ports := t.ports
    pace := { s.pace with mons := t.pace.mons }
    obj := { s.obj with pstat := t.obj.pstat }
    stack := { s.stack with tiers := t.stack.tiers } }
  paces : ∀ k, monOf t k =
    if k < 36 ∧ x ≤ 0x402 + 8 * k ∧ 0x403 + 8 * k < x + n then { monOf s k with paceMin := none } else monOf s k
  tiers : ∀ i, tierOf t i = if i < 8 ∧ x ≤ 0xE00 + 4 * i ∧ 0xE00 + 4 * i < x + n then { tierOf s i with postMax := 0 } else tierOf s i
  stats : ∀ i, Tab.get {} t.obj.pstat i =
    if i < 32 ∧ x ≤ 0x60B + 16 * i ∧ 0x60D + 16 * i < x + n then { Tab.get {} s.obj.pstat i with lateMax := 0 }
    else Tab.get {} s.obj.pstat i
  ports : ∀ p, port t p = if p < 32 then { port s p with
      crcErrs := if x ≤ 0x2008 + 16 * p ∧ 0x2009 + 16 * p < x + n then 0 else (port s p).crcErrs
      fecUnc := if x ≤ 0x200A + 16 * p ∧ 0x200B + 16 * p < x + n then 0 else (port s p).fecUnc
      replays := if x ≤ 0x200C + 16 * p ∧ 0x200D + 16 * p < x + n then 0 else (port s p).replays }
    else port s p

/-- The command of `o` whose code is `code` is the next to be checked (R386), and its check finds nothing wrong. -/
structure Passes (s : State) (o : Origin) (code : Nat) (check : Bytes → State → List Fail) (pl : Bytes) : Prop where
  next  : ∃ a, accepted s o code = some a ∧ a.payload = pl
  clean : pickFail (check pl s) = none

/-- The same of a command whose check reads memory: what it reads leaves `u`, with no read waiting, and its check finds
nothing wrong there (R237, R386). -/
structure ReadsPass (s : State) (o : Origin) (code : Nat) (reads : Bytes → State → List (Nat × Nat)) (rd : Remote)
    (check : Bytes → State → List Fail) (pl : Bytes) (u : State) : Prop where
  next  : ∃ a, accepted s o code = some a ∧ a.payload = pl
  read  : readAhead (reads pl s) rd { s with waits := false } = u
  goes  : waited s u = false
  passes : Passes u o code check pl

/-- Between `s` and `t` the command of `o` was answered with a status and a reason of Table 14.5, and beside the
reporting that goes with it nothing else has changed (R381 step 6, R352): it waits no more among the accepted commands,
and a slot whose command no FLR has muted holds DONE, the status and the reason. -/
structure Answered (o : Origin) (status reason : Nat) (s t : State) : Prop where
  reports  : Reports { s with mail := t.mail } t
  gone     : t.mail.accepted = s.mail.accepted.filter fun a => !(a.origin == o)
  lastSeq  : t.mail.lastSeq = s.mail.lastSeq
  slot     : ∀ n a, o = .slot n → s.mail.accepted.find? (fun a => a.origin == o) = some a → a.mute = false →
    (Tab.get {} t.mail.slots n).commit = 3 ∧ (Tab.get {} t.mail.slots n).status = status
      ∧ (Tab.get {} t.mail.slots n).reason = reason
  others   : ∀ n, o ≠ .slot n → Tab.get {} t.mail.slots n = Tab.get {} s.mail.slots n

/-- What is lost with the core rails (R28, R412, R421), and what stays: the ledger and the hints, the shutdown records,
the stored pod record with the entries of ROUTE_SET, the pins. -/
structure RailsLost (s t : State) : Prop where
  stack  : t.stack = {}
  cache  : t.cache = {}
  obj    : t.obj = {}
  sched  : t.sched = {}
  tiles  : t.tiles = {}
  awls   : t.awls = {}
  mail   : t.mail = {}
  ledger : t.bring.ledger = s.bring.ledger
  hints  : t.bring.hints = s.bring.hints
  ring   : t.shut.ring = s.shut.ring
  stored : t.pod.stored = s.pod.stored ∧ t.pod.saved = s.pod.saved
  pins   : t.power.perstN = s.power.perstN ∧ t.power.smbAddr = s.power.smbAddr

/-- A reset of a kind (Table 13.5, IDENT.LAST_RESET) has begun bring-up at stage 0 (R405, R409, R420, R421). -/
structure BringupBegun (kind : Nat) (s t : State) : Prop where
  lost      : RailsLost s t
  phase     : t.power.phase = .bringup 0
  rails     : t.power.coreRails = false ∧ t.power.timebaseOn = false ∧ t.power.startWait = false
  standby   : t.power.standby = s.power.standby ∧ t.power.vin = s.power.vin
  gen       : t.bring.resetGen = (s.bring.resetGen + 1) % 2 ^ 32
  lastReset : t.bring.lastReset = kind
  report    : (Tab.get {} t.bring.reports 0).result = 1
  others    : ∀ n, n ≠ 0 → Tab.get {} t.bring.reports n = {}

/-- The module has latched for a native cause and unit of Table 16.8 (R26, R36, R378, R448, R450). -/
structure Latched (cause unit : Nat) (s t : State) : Prop where
  lost    : RailsLost s t
  phase   : t.power.phase = .latched
  trip    : t.power.thermTrip = true
  rails   : t.power.coreRails = false
  standby : t.power.standby = s.power.standby
  first   : t.shut.cause = cause ∧ t.shut.unit = unit
  record  : ∃ r, t.shut.writing = some r ∧ r.cause = cause ∧ r.unit = unit
  alert   : bitB t.tele.alert 0 = true
  sensors : t.thermal = s.thermal ∧ t.coolant = s.coolant
  gen     : t.bring.resetGen = s.bring.resetGen

/-- The bits of a flit come through the decoder of a port's lanes as 256 bytes `b` with a good CRC, which leaves the lanes
as `ph` (R309, R317). -/
structure Arrives (s : State) (p : Nat) (f : RxFlit) (ph : Phy) (b : Bytes) : Prop where
  took : (port s p).phy.take f = some (ph, b)
  crc  : crcGood b = true

/-- A flit header of a type that keeps Table 11.6 and the credit of R325 and carries no acknowledgement. -/
structure PlainHeader (s : State) (p type : Nat) (b : Bytes) : Prop where
  type : bits (field b 0 8) 3 0 = type
  good : flitBad p (field b 0 8) s = false
  ack  : bitB (field b 0 8) 28 = false

/-- Whether an access of an effect would meet a place that holds accesses (R174, R198, R210, R213, R215, R259, R342): the
command waits then, and nothing of it has happened. -/
def Waits (f : State → State) (s : State) : Bool := waited s (f { s with waits := false })

/-- A request of a type is the oldest of its channel at a port and passes the checks of R336, R337, R343, R347 and R355:
this module serves it. -/
structure Serves (s : State) (p vc type : Nat) (m : Msg) : Prop where
  next    : nextMsg s p vc = some m
  type    : m.type = type
  good    : msgBad s m = false
  partner : validPartner s p = true
  up      : s.power.phase = .up
  here    : m.dst = s.pod.eff.device
  window  : windowOk s m = true

/-- What serving a partner's message leaves alone: only memory, caches, reporting and the pod's queues may have changed,
and the message is out of the port's receive buffer. -/
structure MessageDone (p : Nat) (m : Msg) (s t : State) : Prop where
  popped   : (port t p).sess.rx = (port s p).sess.rx.erase m.rx
  states   : ∀ q, (port t q).state = (port s q).state
  power    : t.power = s.power
  pace     : t.pace = s.pace
  mail     : t.mail = s.mail
  obj      : t.obj = s.obj
  sched    : t.sched = s.sched
  tiles    : t.tiles = s.tiles
  awls     : t.awls = s.awls
  thermal  : t.thermal = s.thermal
  coolant  : t.coolant = s.coolant
  shut     : t.shut = s.shut
  fw       : t.fw = s.fw
  timebase : t.timebase = s.timebase
  pod      : t.pod.eff = s.pod.eff ∧ t.pod.routes = s.pod.routes ∧ t.pod.stored = s.pod.stored
  pending  : t.pending = s.pending

/-- Memory and its marks are in their canonical form: addresses rise strictly, and no entry says what an unlisted one
reads as. -/
def MemoryCanonical (s : State) : Prop := Tab.wf 0 s.stack.mem = true ∧ Tab.wf {} s.stack.mark = true

/-! ### Tiles and awls -/

/-- A tile at an instruction, and past the present one. -/
def Tile.goes (k : Tile) (n : Nat × Loops) : Tile := { k with pc := n.1 % 16384, loops := n.2 }
def Tile.passed (k : Tile) : Tile := k.goes (nextPc k.pc k.loops)

/-- A tile's scalar or vector register written, and an awl's. -/
def Tile.putX (k : Tile) (r v : Nat) : Tile := { k with x := setX k.x 64 r v }
def Tile.putV (k : Tile) (r v : Nat) : Tile := { k with v := setV k.v r v }
def Awl.putX (k : Awl) (r v : Nat) : Awl := { k with x := setX k.x 32 r v }
def Awl.putV (k : Awl) (r v : Nat) : Awl := { k with v := setV k.v r v }

/-- A tile executes an instruction whose word is `w`, of a class of major opcodes (Table 3.5). -/
structure TileTurn (s : State) (t lo hi w : Nat) : Prop where
  runs : tileRuns s t = true
  word : tileWord s t = w
  kind : lo ≤ opMajor w ∧ opMajor w ≤ hi

/-- From `s` to `u` a tile's record has become `k`, and beside counters and free values nothing else has changed. -/
structure TileDone (t : Nat) (k : Tile) (s u : State) : Prop where
  own    : tileOf u t = k
  others : ∀ i, i ≠ t → tileOf u i = tileOf s i
  rest   : u = { s with tiles := { s.tiles with tile := u.tiles.tile }, ev := u.ev, fresh := u.fresh }

/-- The tile has faulted: it has stopped, and the operation in progress will end with an error (R95). -/
structure TileFaulted (t : Nat) (s u : State) : Prop where
  own    : (tileOf u t).state = .faulted
  others : ∀ i, i ≠ t → tileOf u i = tileOf s i
  op     : ∀ op, s.sched.op = some op → ∃ op', u.sched.op = some op' ∧ op'.error.isSome = true ∧ op'.desc = op.desc

/-- An awl executes an instruction whose word is `w`, of a class of major opcodes (Table 8.3) and of a function code that is not
reserved (R227), and none of the scalar registers `xs` and vector registers `vs` still awaits a load (R223). -/
structure AwlTurn (s : State) (a lo hi : Nat) (xs vs : List Nat) (w : Nat) : Prop where
  runs  : awlRuns s a = true
  word  : awlWord s a = some w
  kind  : lo ≤ opMajor w ∧ opMajor w ≤ hi
  legal : Config.reservedFunction w = false
  ready : xs.any (pendingX (awlOf s a)) = false ∧ vs.any (pendingV (awlOf s a)) = false

/-- An awl after a yield point (R231). -/
def Awl.yielded (k : Awl) (wait : AwlWait) (paused : Bool) : Awl :=
  { k with since := 0, inHold := false, yields := min 0xFFFFFF (k.yields + 1), wait := wait, paused := paused }

/-- An awl's record `k` at the end of an instruction that passes control to `n`: counted, and a yield point taken where
one is due (R230, R231), after the loads in flight. -/
def awlEnd (s : State) (a : Nat) (k : Awl) (n : Nat × Loops) : Awl :=
  let k : Awl := { k with
    last := k.pc, pc := n.1, loops := n.2, insns := min 0xFFFFFFFF (k.insns + 1), since := k.since + 1 }
  if 2048 ≤ k.since ∨ (Tab.get 0 s.stack.owed a ≠ 0 ∧ k.inHold = false) then
    if k.loads = [] then k.yielded .none (awlsPaused s) else { k with wait := .load }
  else k

/-- As `awlEnd`, with control passed to the next instruction. -/
def awlPast (s : State) (a : Nat) (k : Awl) : Awl := awlEnd s a k (nextPc k.pc k.loops)

/-- From `s` to `t` an awl's record has become `k`; no other awl and no byte of memory has changed, and beside the
records of the stacked memory and reporting nothing else has. -/
structure AwlDone (a : Nat) (k : Awl) (s t : State) : Prop where
  own    : awlOf t a = k
  others : ∀ b, b ≠ a → awlOf t b = awlOf s b
  memory : SameMemory s t
  rest   : Reports { s with awls := { s.awls with awl := t.awls.awl }, stack := t.stack, fresh := t.fresh } t

/-- An awl has stopped with a cause of Table 8.9, and no byte of memory has changed. -/
structure AwlFaulted (a cause : Nat) (s t : State) : Prop where
  own    : (awlOf t a).state = .faulted ∧ (awlOf t a).cause = cause ∧ (awlOf t a).last = (awlOf s a).pc
  memory : SameMemory s t

/-- An awl meets a tier-bus instruction, or meets it again while it waits for it, and its loads have returned (R231,
R233). -/
structure BusTurn (s : State) (a : Nat) (wait : AwlWait) (w : Nat) : Prop where
  runs  : awlRuns s a = true ∨ ((awlOf s a).state = .running ∧ (awlOf s a).wait = wait
            ∧ ((awlOf s a).paused && awlsPaused s) = false)
  off   : onBus s a = false
  loads : (awlOf s a).loads = []
  word  : awlWord s a = some w
  kind  : opMajor w = 0x1D
  legal : Config.reservedFunction w = false

end Sys2Proof.Machine
end

