-- ==== Sys2Proof/Certificates/Slice0/Obligations.lean ====
section
/-! DEFINITION. The statements for the provers: for every command where it completes and what it leaves, the rules of
the spec over all states, and the invariants of every step. -/

namespace Sys2Proof.Machine

end Sys2Proof.Machine

open Sys2Proof Sys2Proof.Machine

/-- The input rises: the standby rail, the start wait of R37, and the start of bring-up. POWER_APPLICATION,
STANDBY_RAIL_REGULATION, START_WAIT_RESTART and START_WAIT_EXPIRY complete in every state in which the spec lets them
happen. The first three change the input's fields alone, as written; in SHUTDOWN_LATCHED with the standby rail lost
the input rises again too, and only that rail can start (the model's choice, log 150); the wait runs exactly while the
standby rail is up, the seat sense closed and the input at or above 49 V. At its expiry bring-up begins as after a
cold reset, with the reset generation raised. It concludes that these forms complete: powerApplication,
standbyRailRegulation, startWaitExpiry, startWaitRestart. -/
def Obligations.PowerInputRisesAndBringupStarts : Prop :=
  ∀ s : State,
    (∀ vin, 20000 ≤ vin → vin ≤ 72000 → s.power.phase = .off → s.power.seatClosed = true →
      exec (.powerApplication vin) s = .next { s with power := { s.power with
        vin := vin, startWait := s.power.standby && decide (49000 ≤ vin) } })
    ∧ (∀ vin, 20000 ≤ vin → vin ≤ 72000 → s.power.phase = .latched → s.power.standby = false → s.power.seatClosed = true →
      exec (.powerApplication vin) s = .next { s with power := { s.power with vin := vin, startWait := false } })
    ∧ (∀ straps, s.power.standby = false → 20000 ≤ s.power.vin → s.power.seatClosed = true →
      exec (.standbyRailRegulation straps) s = .next { s with power := { s.power with
        standby := true, smbAddr := 0x58 + straps % 4, perstHigh := s.power.perstN
        startWait := s.power.phase == .off && decide (49000 ≤ s.power.vin) } })
    ∧ (∀ vin seatOpen, vin ≤ 72000 → s.power.phase = .off → s.power.standby = true →
      exec (.startWaitRestart vin seatOpen) s = .next { s with power := { s.power with
        vin := vin, seatClosed := !seatOpen, startWait := !seatOpen && decide (49000 ≤ vin) } })
    ∧ (s.power.startWait = true → s.power.phase = .off → s.power.standby = true → s.power.seatClosed = true →
      49000 ≤ s.power.vin → Completes .startWaitExpiry s (BringupBegun 0 s))

/-- Beyond the absolute maximum input of Table 1.5 the model stops, and only there. A command that reports an input
above 72 V ends in the fault beyondAbsoluteMaximum: R32 gives no assurance of any behaviour there. The same commands
at or below 72 V never end in a fault. -/
def Obligations.AbsoluteMaximumInputFaults : Prop :=
  ∀ (s : State) (vin : Nat) (b : Bool),
    (72000 < vin →
      exec (.powerApplication vin) s = .fault .beyondAbsoluteMaximum
      ∧ exec (.startWaitRestart vin b) s = .fault .beyondAbsoluteMaximum
      ∧ exec (.inputRemoved vin) s = .fault .beyondAbsoluteMaximum
      ∧ exec (.inputOvervoltage vin b) s = .fault .beyondAbsoluteMaximum)
    ∧ (vin ≤ 72000 →
      (∃ t, exec (.powerApplication vin) s = .next t) ∧ (∃ t, exec (.startWaitRestart vin b) s = .next t)
      ∧ (∃ t, exec (.inputRemoved vin) s = .next t) ∧ (∃ t, exec (.inputOvervoltage vin b) s = .next t))

/-- Undervoltage, overvoltage and overcurrent latch a shutdown under their own cause. With the standby rail up, an
input below 47 V with the core rails up and no shutdown latched, or, from any state but OFF, an input above 63 V or a
current above 78 A latches cause 3, 1 or 2; in OFF an input above 63 V or a current above 78 A is only noted (Table
14.10 enters SHUTDOWN_LATCHED from any state but OFF). At the latch every rail but the standby rail is off, what they
carried is lost, the record waits to be written, therm_trip_n and the SMBus alert are asserted, and the sensors'
values stay. It concludes that these forms complete: inputUndervoltage, inputOvervoltage, inputOvercurrent. -/
def Obligations.InputShutdownLatches : Prop :=
  ∀ s : State, s.power.standby = true → s.power.phase ≠ .latched →
    (∀ vin same, vin < 47000 → s.power.coreRails = true → Completes (.inputUndervoltage vin same) s (Latched 3 0 s))
    ∧ (∀ vin same, 63000 < vin → vin ≤ 72000 → s.power.phase ≠ .off → Completes (.inputOvervoltage vin same) s (Latched 1 0 s))
    ∧ (∀ iin same, 78000 < iin → s.power.phase ≠ .off → Completes (.inputOvercurrent iin same) s (Latched 2 0 s))
    ∧ (∀ vin same, 63000 < vin → vin ≤ 72000 → s.power.phase = .off →
      exec (.inputOvervoltage vin same) s = .next { s with power := { s.power with vin := vin } })
    ∧ (∀ iin same, 78000 < iin → s.power.phase = .off →
      exec (.inputOvercurrent iin same) s = .next { s with power := { s.power with iin := iin } })

/-- Of two shutdown causes the first detected stays, but for one of the same microsecond that stands before it. In
SHUTDOWN_LATCHED a further input cause changes the recorded cause only when it was detected within the same
microsecond and stands before the recorded one in the order overvoltage, overcurrent, undervoltage, thermal; else the
shutdown cause, the pending record and the phase stay as they are. The module stays latched. It concludes that these
forms complete: inputUndervoltage, inputOvervoltage, inputOvercurrent. -/
def Obligations.ShutdownCausePrecedence : Prop :=
  ∀ s : State, s.power.standby = true → s.power.phase = .latched →
    (∀ vin, vin < 47000 → Completes (.inputUndervoltage vin true) s fun t =>
      t.power.phase = .latched ∧ t.shut.cause = (if s.shut.cause = 1 ∨ s.shut.cause = 2 ∨ s.shut.cause = 3 then s.shut.cause else 3))
    ∧ (∀ vin, 63000 < vin → vin ≤ 72000 → Completes (.inputOvervoltage vin true) s fun t =>
      t.power.phase = .latched ∧ t.shut.cause = 1)
    ∧ (∀ iin, 78000 < iin → Completes (.inputOvercurrent iin true) s fun t =>
      t.power.phase = .latched ∧ t.shut.cause = (if s.shut.cause = 1 then 1 else 2))
    ∧ (∀ vin, vin < 47000 → Completes (.inputUndervoltage vin false) s fun t => t = { s with power := { s.power with vin := vin } })
    ∧ (∀ vin, 63000 < vin → vin ≤ 72000 →
      Completes (.inputOvervoltage vin false) s fun t => t = { s with power := { s.power with vin := vin } })
    ∧ (∀ iin, 78000 < iin → Completes (.inputOvercurrent iin false) s fun t => t = { s with power := { s.power with iin := iin } })

/-- The shutdown record is written into a ring of 16; the seat sense, removal and the loss of the standby rail.
SHUTDOWN_RECORD_WRITE with the input at or above 20 V puts the pending record, with its count raised to at most 255,
before the others and keeps 16. The seat sense opening with the core rails up leaves OFF with only the standby rail
and nothing in memory; with them down it only stops the start wait. Its closing in OFF after that is a cold reset of
the standby domain; any other closing only lets the start wait run. Removal of the input clears the latch and keeps
the ring; below 20 V the standby rail is lost. It concludes that these forms complete: seatSenseOpen, seatSenseClose,
inputRemoved, shutdownRecordWrite, standbyRailLost. -/
def Obligations.RemovalAndShutdownRecord : Prop :=
  ∀ s : State,
    (∀ r, s.shut.writing = some r → s.power.standby = true → 20000 ≤ s.power.vin →
      exec .shutdownRecordWrite s = .next { s with
        fresh := s.fresh + 1
        shut := { s.shut with
          ring := (some { r with count := min 255 (s.shut.count + 1) } :: s.shut.ring).take 16
          count := min 255 (s.shut.count + 1), writing := none } })
    ∧ (s.power.seatClosed = true → s.power.coreRails = true → Completes .seatSenseOpen s fun t =>
      RailsLost s t ∧ t.power.phase = .off ∧ t.power.coreRails = false ∧ t.power.seatClosed = false
        ∧ t.power.standby = s.power.standby ∧ t.power.seatOff = true)
    ∧ (s.power.seatClosed = true → s.power.coreRails = false →
      exec .seatSenseOpen s = .next { s with power := { s.power with seatClosed := false, startWait := false } })
    ∧ (s.power.seatClosed = false → (s.power.seatOff = false ∨ s.power.phase ≠ .off) →
      exec .seatSenseClose s = .next { s with power := { s.power with
        seatClosed := true
        startWait := s.power.phase == .off && s.power.standby && decide (49000 ≤ s.power.vin) } })
    ∧ (s.power.seatClosed = false → s.power.seatOff = true → s.power.phase = .off → Completes .seatSenseClose s fun t =>
      t.power.seatClosed = true ∧ t.power.seatOff = false ∧ t.tele = {} ∧ t.thermal = {} ∧ t.coolant = {}
        ∧ t.shut.ring = s.shut.ring ∧ SameMemory s t)
    ∧ (∀ vin, vin < 20000 → Completes (.inputRemoved vin) s fun t =>
      RailsLost s { t with power := { t.power with smbAddr := s.power.smbAddr } } ∧ t.power.phase = .off
        ∧ t.power.standby = false ∧ t.power.thermTrip = false ∧ t.power.vin = vin ∧ t.tele = {})
    ∧ (∀ vin, vin < 20000 → s.power.standby = true → Completes (.standbyRailLost vin) s fun t =>
      t.power.standby = false ∧ t.power.startWait = false ∧ t.power.vin = vin ∧ t.shut.writing = none
        ∧ (s.power.phase = .up → RailsLost { s with shut := t.shut } t ∧ t.power.phase = .off)
        ∧ t.bring.ledger = s.bring.ledger)

/-- PERST#, the link's training, and the resets that rerun bring-up. A PERST# pulse, the Cobbler watchdog and
STACK_RESET with its confirmation word begin bring-up at stage 0 from bring-up and from READY on, under their own
kinds of reset; none does in SHUTDOWN_LATCHED. PERST# high starts the training of the link while the core rails are
up, and PCIE_LINK_UP with a speed and a width of Table 13.1 ends it with them, and without Flit mode with 32.0 GT/s at
most (R357). It concludes that these forms complete: perstPulse, perstDeassert, pcieLinkUp, cobblerWatchdog,
stackReset. -/
def Obligations.PcieLinkAndItsResets : Prop :=
  ∀ s : State,
    (s.power.perstHigh = true → s.power.phase = .up →
      Completes .perstPulse s (BringupBegun 1 { s with power := { s.power with perstN := false } }))
    ∧ (s.power.phase = .latched → Completes .perstPulse s fun t =>
      t = { s with power := { s.power with perstN := false }, pcie := { s.pcie with link := false, training := false } })
    ∧ (exec .perstDeassert s = .next { s with
        power := { s.power with perstN := true, perstHigh := s.power.standby }
        pcie := { s.pcie with training := s.power.coreRails && !s.pcie.link } })
    ∧ (∀ speed width flit, s.pcie.training = true → s.power.coreRails = true → s.power.perstN = true →
      linkForm speed width = true → Completes (.pcieLinkUp speed width flit) s fun t =>
        t.pcie.link = true ∧ t.pcie.training = false ∧ t.pcie.width = width ∧ t.pcie.flit = flit
          ∧ t.pcie.speed = (if flit then speed else min speed 5)
          ∧ t.power = s.power ∧ t.obj = s.obj ∧ t.mail = s.mail ∧ SameMemory s t)
    ∧ (∀ b, s.power.phase = .up → Completes (.cobblerWatchdog b) s fun t =>
      BringupBegun 4 s t ∧ t.bring.watchdog = some b)
    ∧ (∀ o a, s.power.phase = .up → accepted s o 0x00D0 = some a → field a.payload 0 4 = 0x53544B52 →
      Completes (.stackReset o) s (BringupBegun 3 s))

/-- Stages 0 and 1 of bring-up end as Table 15.3 says, and stage 2 waits for coolant. STAGE_0_END with a confirmed
selector, picked of its copies by CRC and generation, whose active slot is intact and verifies runs that slot, brings
the core rails up and the timebase to 0, and enters stage 1; with no image that verifies it fails under cause 0x0101
and stays. STAGE_1_END with every rail in regulation and the network good starts the timebase and enters stage 2,
which waits with the pump at 100 percent when the flow is below 2.5 L/min; a rail out of regulation or a failed
self-test fails the stage. With enough coolant the shanks train then, before the memory tests, and are valid.
COOLANT_WAIT_MET ends the wait and trains them, COOLANT_WAIT_TIMEOUT reports FAILED under 0x0301 and goes on waiting.
It concludes that these forms complete: stage0End, stage1End, coolantWaitMet, coolantWaitTimeout. -/
def Obligations.BringupStagesZeroToTwo : Prop :=
  ∀ s : State,
    (∀ c us f, inStage s 0 = true → s.power.seatClosed = true → s.fw.pickSelector c = f → f.sel.trial = false →
      (if f.sel.active = 0 then c.slotA else c.slotB) = true → (f.slot f.sel.active).verifies f.rollback = true →
      Completes (.stage0End c us) s fun t =>
        t.power.phase = .bringup 1 ∧ t.power.stageFailed = false ∧ t.power.coreRails = true
          ∧ t.timebase = 0 ∧ t.fw.running = f.sel.active ∧ t.fw.sel = f.sel ∧ s.fw.rollback ≤ t.fw.rollback
          ∧ (Tab.get {} t.bring.reports 1).result = 1 ∧ t.obj = s.obj ∧ t.stack.mem = s.stack.mem)
    ∧ (∀ c us, inStage s 0 = true → (s.fw.pickSelector c).boot (fun n => if n = 0 then c.slotA else c.slotB) = none →
      Completes (.stage0End c us) s fun t =>
        t.power.phase = .bringup 0 ∧ t.power.stageFailed = true ∧ t.power.coreRails = s.power.coreRails
          ∧ (Tab.get {} t.bring.reports 0).result = 4 ∧ (Tab.get {} t.bring.reports 0).cause = 0x0101)
    ∧ (∀ rails groups us, inStage s 1 = true → rails % 2 ^ 27 = 2 ^ 27 - 1 →
      Completes (.stage1End rails true groups us) s fun t =>
        t.power.phase = .bringup 2 ∧ t.power.stageFailed = false ∧ t.power.timebaseOn = true
          ∧ t.power.coolantWait = (if s.coolant.flow < 2500 then true else s.power.coolantWait)
          ∧ (s.coolant.flow < 2500 → t.coolant.pump = 100)
          ∧ (2500 ≤ s.coolant.flow → t.bring.trainFails = groups ∧ ∀ n, n < 256 → (shankOf t n).valid = true)
          ∧ t.coolant.hist = [] ∧ t.ev.early = [] ∧ (Tab.get {} t.bring.reports 2).result = 1)
    ∧ (∀ rails ok groups us, inStage s 1 = true → (rails % 2 ^ 27 ≠ 2 ^ 27 - 1 ∨ ok = false) →
      Completes (.stage1End rails ok groups us) s fun t =>
        t.power.phase = .bringup 1 ∧ t.power.stageFailed = true ∧ (Tab.get {} t.bring.reports 1).result = 4
          ∧ (Tab.get {} t.bring.reports 1).cause = (if rails % 2 ^ 27 ≠ 2 ^ 27 - 1 then 0x0201 else 0x0202))
    ∧ (∀ groups ms, s.power.phase = .bringup 2 → s.power.coolantWait = true → 2500 ≤ s.coolant.flow →
      Completes (.coolantWaitMet groups ms) s fun t =>
        t.power = { s.power with coolantWait := false, stageFailed := false } ∧ t.bring.trainFails = groups
          ∧ (∀ n, n < 256 → (shankOf t n).valid = true)
          ∧ (Tab.get {} t.bring.reports 2).result = 1 ∧ (Tab.get {} t.bring.reports 2).waitMs = ms % 2 ^ 32
          ∧ t.obj = s.obj ∧ t.coolant = s.coolant ∧ t.stack.mem = s.stack.mem)
    ∧ (inStage s 2 = true → s.power.coolantWait = true → Completes .coolantWaitTimeout s fun t =>
        t.power = { s.power with stageFailed := true } ∧ (Tab.get {} t.bring.reports 2).result = 4
          ∧ (Tab.get {} t.bring.reports 2).cause = 0x0301 ∧ (Tab.get {} t.bring.reports 2).waitMs = 30000)

/-- The fitting adds to the ledger and never takes from it; a clean fitting reaches READY. STAGE_2_END and STAGE_4_END
complete with the ledger extended at its end only, and leave stage 3 or READY, or their own stage failed. With no
defect, whole shanks and an empty ledger, stage 2 passes with every shank valid and whole and the stored pod record in
effect, and stage 4 leaves READY with every tile at full width, no trial image and, as always at READY, every byte of
memory zero and no L2 line held (R412). STAGE_3_END waits for a port that trains for the first time (R314), but never
beyond its budget; then it always passes into stage 4 with the tiles of three failed checks set aside.
STAGE_BUDGET_TIMEOUT fails stages 0, 1, 2 and 4 under cause 1 with the stage's budget as its duration; whether the
timebase runs then is open in stage 1 (the model's free value, log 28). It concludes that these forms complete:
stage2End, stage3End, stage4End, stageBudgetTimeout. -/
def Obligations.FittingStages : Prop :=
  ∀ s : State,
    (∀ rows tg sg srows us, inStage s 2 = true → s.power.coolantWait = false →
      Completes (.stage2End rows tg sg srows us) s fun t =>
        (∃ l, t.bring.ledger = s.bring.ledger ++ l)
          ∧ (t.power.phase = .bringup 3 ∨ (t.power.phase = .bringup 2 ∧ t.power.stageFailed = true)))
    ∧ (∀ us, inStage s 2 = true → s.power.coolantWait = false → s.bring.trainFails = [] → s.bring.ledger = [] →
      (Tab.get {} s.bring.reports 2).added = 0 → (∀ n, n < 256 → (shankOf s n).failed = 0 ∧ (shankOf s n).valid = true) →
      Completes (.stage2End [] 255 4095 [] us) s fun t =>
        t.power.phase = .bringup 3 ∧ t.bring.ledger = [] ∧ (Tab.get {} t.bring.reports 2).result = 2
          ∧ (Tab.get {} t.bring.reports 2).us = us % 2 ^ 32 ∧ t.pod.eff = s.pod.stored
          ∧ ∀ n, n < 256 → (shankOf t n).failed = 0 ∧ (shankOf t n).valid = true)
    ∧ (∀ crc us, inStage s 3 = true → us < 200000 → (∃ p, p ∈ s.ports ∧ portPending p.2 = true) →
      exec (.stage3End crc us) s = .next s)
    ∧ (∀ crc us, inStage s 3 = true → (200000 ≤ us ∨ ∀ p ∈ s.ports, portPending p.2 = false) →
      Completes (.stage3End crc us) s fun t =>
        t.power.phase = .bringup 4 ∧ t.power.stageFailed = false
          ∧ t.bring.fwFails = (crc.filter fun (n, k) => decide (n < 256) && decide (3 ≤ k)).map (·.1)
          ∧ (Tab.get {} t.bring.reports 4).result = 1 ∧ t.obj = s.obj ∧ t.ports = s.ports ∧ SameMemory s t)
    ∧ (∀ units tiles us, inStage s 4 = true → Completes (.stage4End units tiles us) s fun t =>
        (∃ l, t.bring.ledger = s.bring.ledger ++ l)
          ∧ ((t.power.phase = .up ∧ t.stack.mem = [] ∧ t.stack.mark = [] ∧ t.cache.lines = [])
            ∨ (t.power.phase = .bringup 4 ∧ t.power.stageFailed = true ∧ SameMemory s t)))
    ∧ (∀ us, inStage s 4 = true → s.bring.ledger = [] → s.bring.fwFails = [] → Completes (.stage4End [] [] us) s fun t =>
        t.power.phase = .up ∧ t.fw.sel.trial = false ∧ ∀ n, n < 256 → (Tab.get {} t.tiles.stat n).width = 128)
    ∧ (∀ n, s.power.phase = .bringup n → n ≠ 3 → s.power.stageFailed = false → s.power.coolantWait = false →
      Completes .stageBudgetTimeout s fun t =>
        t.power = { s.power with stageFailed := true, timebaseOn := t.power.timebaseOn }
          ∧ (n ≠ 1 → t.power.timebaseOn = s.power.timebaseOn) ∧ (Tab.get {} t.bring.reports n).result = 4
          ∧ (Tab.get {} t.bring.reports n).cause = 1
          ∧ (Tab.get {} t.bring.reports n).us = nth [40000, 30000, 600000, 200000, 250000] n ∧ SameMemory s t)

/-- FLR, Hot Reset and DL_Down end all work and reset the function, not the module. With the link and the core rails
up and the module in READY or beyond, FLR, HOT_RESET and DL_DOWN complete: the reset generation rises and LAST_RESET
is FLR, the module does not rerun bring-up, no work is running, waiting or queued, the function's controls, MSI-X
table and Bus Master Enable are at their reset values, and Hot Reset and DL_Down leave the link to train again. It
concludes that these forms complete: flr, hotReset, dlDown. -/
def Obligations.FunctionLevelResets : Prop :=
  ∀ s : State, s.pcie.link = true → s.power.phase = .up → s.power.coreRails = true →
    (∀ c, c = Instr.flr ∨ c = Instr.hotReset ∨ c = Instr.dlDown → Completes c s fun t =>
      t.power = s.power ∧ t.bring.resetGen = (s.bring.resetGen + 1) % 2 ^ 32 ∧ t.bring.lastReset = 2
        ∧ t.bring.ledger = s.bring.ledger ∧ t.sched.running = [] ∧ t.sched.ready = [] ∧ t.sched.windows = []
        ∧ t.sched.op = none ∧ t.awls.cur = none ∧ t.awls.queue = [] ∧ t.pcie.cfg.busMaster = false
        ∧ t.pcie.msixOn = false ∧ t.pcie.table = [] ∧ t.pcie.bar2Code = 10
        ∧ t.pcie.link = decide (c = Instr.flr) ∧ (c ≠ Instr.flr → t.pcie.training = true))

/-- A pace window sets its monitor, a power window moves the allowance by the governor's step. PACE_MONITOR_WINDOW on
a domain whose rail is on leaves the window's pace, capped at 0xFFFF, the lowest pace since the last read, VALID, and
every other monitor as it was. POWER_WINDOW with the standby rail up records the power; with the core rails up the
demand is that of R66 for the energies measured, and the allowance moves by at most 25 W, or in a safety ramp-down
falls by 145 W but not below idle power and never rises, and ballast never runs in a ramp-down or in THERMAL_HOLD.
SAFETY_RAMP_DOWN_END at idle power ends the ramp-down. None changes the point, the mode or memory. It concludes that
these forms complete: paceMonitorWindow, powerWindow, safetyRampDownEnd. -/
def Obligations.PaceAndPowerWindows : Prop :=
  ∀ s : State,
    (∀ n pace, n < 36 → railOf s n ≠ 0 → Completes (.paceMonitorWindow n pace) s fun t =>
      Reports { s with pace := t.pace } t ∧ t.pace = { s.pace with mons := t.pace.mons }
        ∧ monOf t n = { pace := min pace 0xFFFF, valid := true
                        paceMin := some (match (monOf s n).paceMin with
                          | some p => min p (min pace 0xFFFF) | none => min pace 0xFFFF) }
        ∧ ∀ k, k ≠ n → monOf t k = monOf s k)
    ∧ (∀ watts rails, s.power.standby = true → Completes (.powerWindow watts rails) s fun t =>
      t.pace.power = watts ∧ t.pace.powHist = (watts :: s.pace.powHist).take 1000 ∧ t.pace.point = s.pace.point
        ∧ t.pace.net = s.pace.net ∧ t.pace.red = s.pace.red ∧ t.power = s.power ∧ t.obj = s.obj ∧ SameMemory s t
        ∧ (s.power.coreRails = true → t.pace.demand = demandOf s rails)
        ∧ (s.power.coreRails = true → s.pace.emerg = true →
            t.pace.allow = min s.pace.allow (max (idlePower s.pace.point) (s.pace.allow - 145)) ∧ t.pace.ballast = false)
        ∧ (s.power.coreRails = true → s.pace.emerg = false →
            t.pace.allow ≤ s.pace.allow + 25 ∧ s.pace.allow ≤ t.pace.allow + 25)
        ∧ (s.power.coreRails = true → s.thermal.hold = true → t.pace.ballast = false))
    ∧ (s.pace.emerg = true → s.pace.allow ≤ idlePower s.pace.point → Completes .safetyRampDownEnd s fun t =>
      t.pace.emerg = false ∧ t.pace.allow = s.pace.allow ∧ t.pace.point = s.pace.point ∧ SameMemory s t)

/-- The mode commands become pending, and at a task boundary the pending change is made or refused. SET_MODE, the
discipline form of SET_NETWORK_MODE and SET_REDUCTION that break no rule become the pending change of their setting,
in progress, and change nothing else. At a task boundary OP_POINT_CHANGE takes the pending point and answers OK; while
ports that leave the set drain it is only in progress, and with a change of the discipline or of the Last at the same
boundary it waits, the point moved, for that one (R297). A raise that R61 now refuses is answered REFUSED and leaves
the point. REDUCTION_CHANGE sets the reduction and answers OK. DISCIPLINE_CHANGE holds the injections until no message
of REQ, RSP or BULK is on the mesh; with no image to load it then sets the discipline and ends the changes, with one
it loads it and posts the start token, and sets the discipline and ends the changes once every slot counter runs
(Table 10.5). It concludes that these forms complete: opPointChange, disciplineChange, reductionChange, setMode,
setNetworkMode, setReduction. -/
def Obligations.ModeCommandsWaitForTheBoundary : Prop :=
  ∀ s : State,
    (∀ o a, accepted s o 0x0010 = some a → pickFail (checkSetMode a.payload s) = none →
      exec (.setMode o) s
        = .next (begin' o { s with pace := { s.pace with pendPoint := some ⟨field a.payload 0 1, field a.payload 4 4, o⟩ } }))
    ∧ (∀ o a, accepted s o 0x0011 = some a → field a.payload 0 1 = 0 → pickFail (checkDiscipline a.payload s) = none →
      exec (.setNetworkMode o) s
        = .next (begin' o { s with pace := { s.pace with pendNet := some ⟨field a.payload 1 1 == 1, o⟩ } }))
    ∧ (∀ o a, accepted s o 0x0012 = some a → field a.payload 0 1 ≤ 1 → s.pace.pendRed = none →
      exec (.setReduction o) s
        = .next (begin' o { s with pace := { s.pace with pendRed := some ⟨field a.payload 0 1 == 1, o⟩ } }))
    ∧ (∀ c, s.pace.pendPoint = some c → taskBoundary s = true → s.pace.changing = 0 → pickFail (raiseFail s c.point) = none →
      Completes .opPointChange s fun t =>
        t.pace.net = s.pace.net ∧ t.pace.red = s.pace.red ∧ t.power = s.power
          ∧ (draining (startPoint c.point c.mask s) = true →
              t.pace.point = s.pace.point ∧ t.pace.pendPoint = some c ∧ t.pace.changing = 1)
          ∧ (draining (startPoint c.point c.mask s) = false → networkChanges (startPoint c.point c.mask s) = true →
              t.pace.point = c.point ∧ t.pace.pendPoint = some c ∧ t.pace.changing = 2)
          ∧ (draining (startPoint c.point c.mask s) = false → networkChanges (startPoint c.point c.mask s) = false →
              t.pace.point = c.point ∧ t.pace.pendPoint = none ∧ t.pace.changing = 0 ∧ t.pace.showing = none
                ∧ t.mail.accepted = s.mail.accepted.filter fun a => !(a.origin == c.by')))
    ∧ (∀ c f, s.pace.pendPoint = some c → taskBoundary s = true → s.pace.changing = 0 → pickFail (raiseFail s c.point) = some f →
      Completes .opPointChange s fun t =>
        Answered c.by' 2 f.reason { s with pace := { s.pace with pendPoint := none } } t)
    ∧ (∀ c, s.pace.pendRed = some c → taskBoundary s = true →
      Completes .reductionChange s
        (Answered c.by' 1 0 { s with pace := { s.pace with red := c.value, pendRed := none } }))
    ∧ (∀ c, s.pace.pendNet = some c → taskBoundary s = true → (s.pace.pendPoint = none ∨ s.pace.changing = 2) →
      Completes .disciplineChange s fun t => t.pace.point = s.pace.point ∧ t.pace.red = s.pace.red
        ∧ (s.mesh.loaded = none → disciplineGoal s = (s.pace.net, s.obj.installed) →
            t.pace.net = c.value ∧ t.pace.pendNet = none ∧ t.pace.pendPoint = none ∧ t.mesh.hold = false)
        ∧ ∀ u, u = (if s.mesh.hold then s else holdMesh s) →
          (s.mesh.loaded = none → disciplineGoal s ≠ (s.pace.net, s.obj.installed) →
            (meshEmpty u.mesh = false → t = u)
            ∧ (meshEmpty u.mesh = true → (c.value = false ∨ lastImage u (disciplineGoal s).2 = []) →
                t.pace.net = c.value ∧ t.obj.installed = (disciplineGoal s).2 ∧ t.pace.pendNet = none
                  ∧ t.pace.pendPoint = none ∧ t.mesh.hold = false)
            ∧ (meshEmpty u.mesh = true → c.value = true → lastImage u (disciplineGoal s).2 ≠ [] →
                t = { u with mesh := t.mesh } ∧ t.mesh.loaded = some (disciplineGoal s) ∧ t.mesh.hold = true
                  ∧ t.mesh.image = lastImage u (disciplineGoal s).2 ∧ t.mesh.token ≠ none))
          ∧ ∀ l, s.mesh.loaded = some l →
            (s.mesh.started = false → t = s)
            ∧ (s.mesh.started = true → t.pace.net = l.1 ∧ t.obj.installed = l.2 ∧ t.pace.pendNet = none
                ∧ t.pace.pendPoint = none ∧ t.mesh.hold = false))

/-- A read of direct registers returns their bytes and clears exactly the fields that a read clears. With memory
requests served, a read of up to 4 KiB that begins in PACE_MON, TIER_STAT, PERIODIC_STAT, PORT_STAT or IDENT.TIMEBASE
gives the bytes from there on as they stood before, and leaves the state as it was but for every PACE_MIN,
POSTPONE_MAX, LATE_MAX_US, CRC_ERRS, FEC_UNCORR and REPLAYS that it covers whole, of the register in which it begins
and of those into which it goes on, and but for the latch of R363. It concludes that these forms complete:
paceMonRead, tierStatRead, periodicStatRead, portStatRead, identTimebaseRead. -/
def Obligations.RegisterReadsThatClear : Prop :=
  ∀ s : State, hostHeard s = true → memoryServed s = true → ∀ off size, size ≠ 0 → size ≤ 4096 →
    (∀ n, n < 36 → off < 8 → Completes (.paceMonRead n off size) s (RegisterRead (0x400 + 8 * n + off) size s))
    ∧ (∀ i, i < 8 → off < 4 → Completes (.tierStatRead i off size) s (RegisterRead (0xE00 + 4 * i + off) size s))
    ∧ (∀ i, i < 32 → off < 16 → Completes (.periodicStatRead i off size) s (RegisterRead (0x600 + 16 * i + off) size s))
    ∧ (∀ p, p < 32 → off < 16 → Completes (.portStatRead p off size) s (RegisterRead (0x2000 + 16 * p + off) size s))
    ∧ (exec (.identTimebaseRead 0 4) s = .next { s with
        out := s.out ++ [.registerRead (bar0Read s 48 4)]
        pcie := { s.pcie with tbLatch := some (now s / 2 ^ 32) } })
    ∧ (∀ v, s.pcie.tbLatch = some v → exec (.identTimebaseRead 4 4) s = .next { s with
        out := s.out ++ [.registerRead (natLE 4 v)], pcie := { s.pcie with tbLatch := none } })
    ∧ (off < 8 → ¬ (off = 0 ∧ size = 4) → ¬ (off = 4 ∧ size = 4 ∧ s.pcie.tbLatch ≠ none) →
        Completes (.identTimebaseRead off size) s (RegisterRead (48 + off) size s))

/-- Writes to the direct registers store their writable fields, with the value an illegal field takes. With memory
requests served, a whole write of MEM_ECC_CFG, BAR2_WIN, L2_CFG or PTM_CTL sets its fields, an out-of-range SCRUB_H,
THRASH_PCT, THRASH_MS or INTERVAL taking its default; a write of the lower half only waits for the upper half. A 1 in
OVERFLOW of SHANK_STAT or SIDE_STAT clears it. MSIX_MOD of vector 1 ignores writes, and a COUNT of 0 is stored as 1. A
write of MEM_ECC_CFG starts the interval of the leak anew. Nothing else changes; a poisoned BAR0 write changes only
the error status. It concludes that these forms complete: shankStatWrite, sideStatWrite, memEccCfgWrite, bar2WinWrite,
l2CfgWrite, ptmCtlWrite, msixModWrite, bar0Write. -/
def Obligations.RegisterWrites : Prop :=
  ∀ s : State, hostHeard s = true → memoryServed s = true → ∀ v,
    (exec (.memEccCfgWrite .whole v) s = .next { s with
        pcie := { s.pcie with eccLow := none }
        stack := { s.stack with
          leakAt := now s, leakS := v % 2 ^ 64 % 2 ^ 16, scrubEn := bitB (v % 2 ^ 64) 16
          scrubH := if 1 ≤ bits (v % 2 ^ 64) 39 32 ∧ bits (v % 2 ^ 64) 39 32 ≤ 168 then bits (v % 2 ^ 64) 39 32 else 24 } })
    ∧ (exec (.memEccCfgWrite .lower v) s = .next { s with pcie := { s.pcie with eccLow := some (v % 2 ^ 32) } })
    ∧ (∀ l, s.pcie.winLow = some l → exec (.bar2WinWrite .upper v) s = .next { s with
        pcie := { s.pcie with
          winLow := none
          win := ⟨bitB (l + 2 ^ 32 * (v % 2 ^ 32)) 0, bitB (l + 2 ^ 32 * (v % 2 ^ 32)) 1,
                  bits (l + 2 ^ 32 * (v % 2 ^ 32)) 7 2, bits (l + 2 ^ 32 * (v % 2 ^ 32)) 47 30⟩ } })
    ∧ (exec (.l2CfgWrite .whole v) s = .next { s with
        pcie := { s.pcie with l2Low := none }
        cache := { s.cache with
          pct := if bits (v % 2 ^ 64) 6 0 ≤ 100 then bits (v % 2 ^ 64) 6 0 else 50
          ms := if 1 ≤ bits (v % 2 ^ 64) 17 8 ∧ bits (v % 2 ^ 64) 17 8 ≤ 1000 then bits (v % 2 ^ 64) 17 8 else 10 } })
    ∧ (exec (.ptmCtlWrite .whole v) s = .next { s with
        pcie := { s.pcie with
          ptmLow := none
          ptm := { s.pcie.ptm with
            interval := if 1 ≤ bits (v % 2 ^ 64) 15 0 ∧ bits (v % 2 ^ 64) 15 0 ≤ 10000 then bits (v % 2 ^ 64) 15 0 else 100
            align := bitB (v % 2 ^ 64) 16 } } })
    ∧ (∀ n, n < 256 → Completes (.shankStatWrite n v) s fun t =>
        t = { s with stack := { s.stack with shanks := t.stack.shanks } } ∧ (∀ k, k ≠ n → shankOf t k = shankOf s k)
          ∧ shankOf t n = { shankOf s n with overflow := (shankOf s n).overflow && !bitB v 20 })
    ∧ (∀ n, n < 12 → Completes (.sideStatWrite n v) s fun t =>
        t = { s with stack := { s.stack with sides := t.stack.sides } } ∧ (∀ k, k ≠ n → sideOf t k = sideOf s k)
          ∧ sideOf t n = { sideOf s n with overflow := (sideOf s n).overflow && !bitB v 15 })
    ∧ (∀ n, n < 128 → Completes (.msixModWrite n v) s fun t =>
        t = { s with pcie := { s.pcie with mods := t.pcie.mods } }
          ∧ Tab.get {} t.pcie.mods n = (if n = 1 then Tab.get {} s.pcie.mods 1
              else ⟨bits v 15 0, if bits v 23 16 = 0 then 1 else bits v 23 16⟩))
    ∧ (∀ off size, exec (.bar0Write off size v true) s = .next (setAer aerPoisoned s))
    ∧ (∀ n size, n < 256 → size = 4 → Completes (.bar0Write (0xA00 + 4 * n) size v false) s fun t =>
        exec (.shankStatWrite n v) s = .next t)

/-- MSI-X: a masked vector keeps its message in the PBA and sends it when nothing masks it any more. A write of the
mask dword of an entry stores the mask; when it unmasks a pending vector while MSI-X is enabled, the function is not
masked and requests may be issued, the message of the entry leaves once and the PBA bit clears. FUNCTION_MASK_CLEAR
stores the enable and the function mask, and with the enable set and the mask clear leaves no pending bit of an
unmasked entry; with either the other way every pending bit stays. An expired hold-off sends one message for what was
gathered and empties the count; without a gathered condition nothing happens. It concludes that these forms complete:
msixTableWrite, msixHoldoffExpiry, functionMaskClear. -/
def Obligations.InterruptTable : Prop :=
  ∀ s : State,
    (∀ v x, v < 128 → hostHeard s = true → memoryServed s = true → bitB x 0 = false → x < 2 ^ 32 →
      s.pcie.msixOn = true → s.pcie.funcMask = false → canIssue s = true → Tab.get false s.pcie.pba v = true →
      Completes (.msixTableWrite v 3 x) s fun t =>
        (Tab.get {} t.pcie.table v).mask = false ∧ Tab.get false t.pcie.pba v = false
          ∧ t.out = s.out ++ [.msix v ((Tab.get {} s.pcie.table v).addrHi * 2 ^ 32 + (Tab.get {} s.pcie.table v).addrLo)
              (Tab.get {} s.pcie.table v).data])
    ∧ (∀ v x, v < 128 → hostHeard s = true → memoryServed s = true → Completes (.msixTableWrite v 2 x) s fun t =>
        (Tab.get {} t.pcie.table v).data = x % 2 ^ 32 ∧ (Tab.get {} t.pcie.table v).mask = (Tab.get {} s.pcie.table v).mask
          ∧ (∀ w, w ≠ v → Tab.get {} t.pcie.table w = Tab.get {} s.pcie.table w) ∧ t.stack = s.stack ∧ t.obj = s.obj)
    ∧ (∀ on, hostHeard s = true → exec (.functionMaskClear on true) s = .next { s with pcie := { s.pcie with msixOn := on, funcMask := true } })
    ∧ (∀ b, hostHeard s = true → exec (.functionMaskClear false b) s = .next { s with pcie := { s.pcie with msixOn := false, funcMask := b } })
    ∧ (hostHeard s = true → Completes (.functionMaskClear true false) s fun t =>
        t.pcie.funcMask = false ∧ t.pcie.msixOn = true ∧ t.pcie.table = s.pcie.table ∧ t.stack = s.stack ∧ t.mail = s.mail
          ∧ ∀ v, v < 128 → (Tab.get {} s.pcie.table v).mask = false → Tab.get false t.pcie.pba v = false)
    ∧ (∀ v, Tab.get 0 s.pcie.gathered v ≠ 0 → s.pcie.msixOn = true → s.pcie.funcMask = false →
        (Tab.get {} s.pcie.table v).mask = false → canIssue s = true → Completes (.msixHoldoffExpiry v) s fun t =>
          Tab.get 0 t.pcie.gathered v = 0 ∧ t.out = s.out ++ [.msix v
            ((Tab.get {} s.pcie.table v).addrHi * 2 ^ 32 + (Tab.get {} s.pcie.table v).addrLo)
            (Tab.get {} s.pcie.table v).data])
    ∧ (∀ v, Tab.get 0 s.pcie.gathered v = 0 → exec (.msixHoldoffExpiry v) s = .next s)

/-- A write to a mailbox slot is taken while it is free and dropped while its command is at work. With memory requests
served, the bytes written to the payload of a slot that is neither POSTED nor at work read back, every other payload
byte of it and every other slot stay. From ACCEPTED until DONE the write changes nothing. It concludes that these
forms complete: mailboxSlotWrite. -/
def Obligations.MailboxSlotWrites : Prop :=
  ∀ s : State, hostHeard s = true → memoryServed s = true → ∀ n, n < 64 →
    (∀ off data, 64 ≤ off → (Tab.get {} s.mail.slots n).commit ≠ 1 → (Tab.get {} s.mail.slots n).commit ≠ 2 →
      (∀ a ∈ s.mail.accepted, a.origin ≠ .slot n) → off + data.length ≤ 4096 →
      Completes (.mailboxSlotWrite n off data) s fun t =>
        t = { s with mail := { s.mail with slots := t.mail.slots } }
          ∧ (∀ m, m ≠ n → Tab.get {} t.mail.slots m = Tab.get {} s.mail.slots m)
          ∧ ∀ i, Tab.get 0 (Tab.get {} t.mail.slots n).payload i
              = (if 64 + i < off then none else (data[64 + i - off]?).join).getD
                  (Tab.get 0 (Tab.get {} s.mail.slots n).payload i))
    ∧ (∀ off data, (Tab.get {} s.mail.slots n).commit = 2 → exec (.mailboxSlotWrite n off data) s = .next s)

/-- The function's controls: BAR2 size, Bus Master Enable, power states and PTM. With the link up before stage 1 has
ended every configuration request is answered with Configuration Request Retry Status and changes nothing. Once
requests are heard, BAR2_RESIZE sets a legal size while Memory Space Enable is clear. BUS_MASTER_ENABLE and
POWER_STATE_CHANGE store the controls, a Max_Payload_Size of 128, 256 or 512 bytes among them, and let what was held
proceed in order. PTM_ENABLE starts the count of dialogs anew; the first dialog records its times and is not yet
valid, a later one is. The rate trim never moves by more than 1 ppm and stays within 100 ppm. It concludes that these
forms complete: bar2Resize, busMasterEnable, ptmEnable, powerStateChange, ptmDialog. -/
def Obligations.PcieFunctionControls : Prop :=
  (∀ s : State, configRetried s = true → ∀ c cfg code b,
    c = Instr.flr ∨ c = .busMasterEnable cfg ∨ c = .bar2Resize code ∨ c = .powerStateChange b ∨ c = .ptmEnable b
      ∨ (∃ m, c = .functionMaskClear b m) → exec c s = .next { s with out := s.out ++ [.retry] })
  ∧ ∀ s : State, hostHeard s = true →
    (∀ code, 10 ≤ code → code ≤ 21 → s.pcie.cfg.memSpace = false →
      exec (.bar2Resize code) s = .next { s with pcie := { s.pcie with bar2Code := code } })
    ∧ (∀ cfg, Completes (.busMasterEnable cfg) s fun t =>
        t.pcie.cfg = { cfg with maxPayload :=
            if cfg.maxPayload = 128 ∨ cfg.maxPayload = 256 ∨ cfg.maxPayload = 512 then cfg.maxPayload else s.pcie.cfg.maxPayload }
          ∧ t = { s with pcie := t.pcie, out := t.out } ∧ t.pcie.aer = s.pcie.aer
          ∧ (cfg.busMaster = false → t.out = s.out ∧ t.pcie = { s.pcie with cfg := t.pcie.cfg })
          ∧ (cfg.busMaster = true → s.pcie.d3 = false → t.pcie.heldRecs = [] ∧ t.pcie.heldMsix = []
              ∧ ∃ l, t.out = s.out ++ (s.pcie.heldRecs.map fun r => Output.hostWrite r.1 r.2 false false) ++ l))
    ∧ (∀ d, Completes (.powerStateChange d) s fun t =>
        t.pcie.d3 = d ∧ t.pcie.cfg = s.pcie.cfg ∧ t = { s with pcie := t.pcie, out := t.out }
          ∧ (d = true → t.out = s.out))
    ∧ (∀ on, exec (.ptmEnable on) s = .next { s with pcie := { s.pcie with ptm := { s.pcie.ptm with
        enabled := on, dialogs := if on then 0 else s.pcie.ptm.dialogs
        valid := if on then false else s.pcie.ptm.valid } } })
    ∧ (∀ m d, s.pcie.ptm.enabled = true → Completes (.ptmDialog m d) s fun t =>
        t = { s with pcie := { s.pcie with ptm := t.pcie.ptm } } ∧ t.pcie.ptm.loc = now s
          ∧ t.pcie.ptm.master = m % 2 ^ 64 ∧ t.pcie.ptm.delay = d % 2 ^ 32
          ∧ t.pcie.ptm.count = (s.pcie.ptm.count + 1) % 2 ^ 32
          ∧ t.pcie.ptm.valid = decide (1 ≤ s.pcie.ptm.dialogs)
          ∧ (-10000 ≤ s.pcie.ptm.trim → s.pcie.ptm.trim ≤ 10000 → -10000 ≤ t.pcie.ptm.trim ∧ t.pcie.ptm.trim ≤ 10000)
          ∧ (-10000 ≤ s.pcie.ptm.trim → s.pcie.ptm.trim ≤ 10000 →
              t.pcie.ptm.trim - s.pcie.ptm.trim ≤ 100 ∧ s.pcie.ptm.trim - t.pcie.ptm.trim ≤ 100))

/-- Training leads a port from DETECT through TRAINING to ACTIVE, and a failure back to DETECT. A port of the active
set in DETECT with its cable begins TRAINING with a lane stream found anew; a TRAIN body of version 1 that opens a new
session makes it ACTIVE with its attempts cleared, the partner's port noted and its lanes ordered and turned as
training found them; another version and a failed step count one attempt and leave DETECT. A retraining that ends
without a partner leaves DETECT, one with a partner that does not resume leaves ACTIVE. The loss of lock, more than 16
uncorrectable codewords within 1 ms, and a TRAIN flit with no reserved bit set take an ACTIVE port to RETRAINING. No
other port changes its state. It concludes that these forms complete: trainingAttempt, portUp, portTrainingFailed,
flitTrain, laneLockLoss, retrainingEnd. -/
def Obligations.PortTrainingAndRetraining : Prop :=
  ∀ (s : State) (p : Nat),
    ((port s p).state = 1 → (port s p).cable = true → bitB s.pace.portSet p = true → Completes (.trainingAttempt p) s fun t =>
      (port t p).state = 2 ∧ (port t p).tried = true ∧ (port t p).cable = true ∧ (port t p).decided = none
        ∧ (port t p).sess.partnerInit = false ∧ (port t p).phy = (port s p).phy.restart
        ∧ (∀ q, q ≠ p → port t q = port s q) ∧ t = { s with ports := t.ports, trace := t.trace, ev := t.ev })
    ∧ (∀ b cr w, (port s p).state = 2 → b.version = 1 →
      (port s p).decided = some false ∨ ((port s p).decided = none ∧ mayResume (port s p).sess b = false) →
      Completes (.portUp p b cr w) s fun t =>
        (port t p).state = 3 ∧ (port t p).attempts = 0 ∧ (port t p).partPort = b.port ∧ (port t p).resumed = false
          ∧ (port t p).phy.reversed = w.reversed ∧ (port t p).phy.inverted = w.inverted
          ∧ (∀ q, q ≠ p → (port t q).state = (port s q).state) ∧ t.stack = s.stack ∧ t.cache = s.cache)
    ∧ (∀ b cr w, (port s p).state = 2 → b.version ≠ 1 → Completes (.portUp p b cr w) s fun t =>
        (port t p).state = 1 ∧ (port t p).attempts = (port s p).attempts + 1
          ∧ (∀ q, q ≠ p → (port t q).state = (port s q).state))
    ∧ (∀ k, (port s p).state = 2 → Completes (.portTrainingFailed p k) s fun t =>
        (port t p).state = 1 ∧ (port t p).attempts = (port s p).attempts + 1
          ∧ (∀ q, q ≠ p → (port t q).state = (port s q).state))
    ∧ (∀ cr w, (port s p).state = 4 → Completes (.retrainingEnd p none cr w) s fun t =>
        (port t p).state = 1 ∧ (∀ q, q ≠ p → (port t q).state = (port s q).state) ∧ t.stack = s.stack)
    ∧ (∀ b cr w, (port s p).state = 4 → b.version = 1 →
      (port s p).decided = some false ∨ ((port s p).decided = none ∧ mayResume (port s p).sess b = false) →
      Completes (.retrainingEnd p (some b) cr w) s fun t => (port t p).state = 3 ∧ (port t p).partPort = b.port)
    ∧ (∀ c, (port s p).state = 3 → (if c then manyLosses p s else (port s p).cable) = true → Completes (.laneLockLoss p c) s fun t =>
        (port t p).state = 4 ∧ (port t p).decided = none ∧ (port t p).retrains = (if (port s p).retrains < 255 then (port s p).retrains + 1 else (port s p).retrains)
          ∧ (∀ q, q ≠ p → (port t q).state = (port s q).state))
    ∧ (∀ f ph b, (port s p).state = 3 → Arrives s p f ph b → bits (field b 0 8) 3 0 = 3 → headerBad (field b 0 8) = false →
      trainReserved (leNat (slice b 8 240)) = false → Completes (.flitTrain p f) s fun t =>
        (port t p).state = 4 ∧ ∀ q, q ≠ p → (port t q).state = (port s q).state)

/-- Cables, parking, the end of a quarantine and the rate count. A removed cable leaves its four ports without cable
and none of them training, ACTIVE or RETRAINING; an inserted one only sets their presence. A drained ACTIVE port that
leaves the active set, and a port that is down, parks; the last one of a change of point, where the network does not
change at the same boundary, completes that change (Table 2.7, step 3). A hold that ends leaves DETECT, or PARKED
outside the active set, with the rate count clear. Ten minutes without quarantine return the hold time to its
shortest; a new bucket of 1 ms never keeps more than 1,000 and takes SYM_ERR anew. It concludes that these forms
complete: portPark, cableRemoved, quarantineHoldExpiry, cableInserted, holdTimeReturn, rateCountBucket. -/
def Obligations.PortCablesParkingAndQuarantine : Prop :=
  ∀ s : State,
    (∀ j, j < 8 → Completes (.cableRemoved j) s fun t =>
      (∀ i, i < 4 → (port t (4 * j + i)).cable = false ∧ (port t (4 * j + i)).state ≠ 2 ∧ (port t (4 * j + i)).state ≠ 3
        ∧ (port t (4 * j + i)).state ≠ 4)
      ∧ (∀ q, q / 4 ≠ j → (port t q).cable = (port s q).cable ∧ (port t q).state = (port s q).state) ∧ t.stack = s.stack)
    ∧ (∀ j, j < 8 → Completes (.cableInserted j) s fun t =>
      t = { s with ports := t.ports }
        ∧ ∀ q, port t q = { port s q with cable := (port s q).cable || decide (q / 4 = j) })
    ∧ (∀ p, bitB s.pace.leaving p = true → (port s p).state = 3 → (port s p).sess.held = [] → (port s p).sess.tx = [] →
      s.pace.changing ≠ 1 →
      Completes (.portPark p) s fun t => (port t p).state = 6 ∧ bitB t.pace.leaving p = false ∧ t.pace.point = s.pace.point
        ∧ ∀ q, q ≠ p → (port t q).state = (port s q).state)
    ∧ (∀ p, bitB s.pace.leaving p = true → (port s p).state ≤ 2 → s.pace.changing ≠ 1 → Completes (.portPark p) s fun t =>
        (port t p).state = 6 ∧ bitB t.pace.leaving p = false ∧ ∀ q, q ≠ p → port t q = port s q)
    ∧ (∀ p c, bitB s.pace.leaving p = true → (port s p).state = 3 → (port s p).sess.held = [] → (port s p).sess.tx = [] →
      s.pace.changing = 1 → s.pace.pendPoint = some c → draining (parkPort p (controlUnit (.group (p / 4)) s)) = false →
      networkChanges (parkPort p (controlUnit (.group (p / 4)) s)) = false →
      Completes (.portPark p) s fun t =>
        t.pace.point = c.point ∧ t.pace.pendPoint = none ∧ t.pace.changing = 0 ∧ t.pace.leaving = 0)
    ∧ (∀ p, (port s p).state = 5 → Completes (.quarantineHoldExpiry p) s fun t =>
        (port t p).state = (if bitB s.pace.portSet p then 1 else 6) ∧ (port t p).buckets = []
          ∧ (∀ q, q ≠ p → port t q = port s q) ∧ t = { s with ports := t.ports, trace := t.trace, ev := t.ev })
    ∧ (∀ p, (port s p).state ≠ 5 → Completes (.holdTimeReturn p) s fun t =>
        t = { s with ports := t.ports } ∧ port t p = { port s p with holdLog := 0 } ∧ ∀ q, q ≠ p → port t q = port s q)
    ∧ (∀ p, p < 32 → Completes (.rateCountBucket p) s fun t =>
        t = { s with ports := t.ports } ∧ (∀ q, q ≠ p → port t q = port s q)
          ∧ (∃ l, port t p = { port s p with
                phy := (port s p).phy.bucket, symErr := (port s p).phy.bucket.symErr, buckets := l } ∧ l.length ≤ 1000 ∧ (port t p).rate ≤ (port s p).rate))

/-- A DATA flit in sequence is taken once; duplicates, gaps and damaged flits deliver nothing. On an ACTIVE port, for
flits that come through the decoder with a good CRC and a header without an acknowledgement: an in-order DATA flit
that keeps the framing and finds a buffer advances E by one; a duplicate leaves E and the received messages and
counts; a gap of up to 255 does too and leaves one replay request outstanding; a flit outside the window, and an IDLE
or unknown flit that breaks Table 11.6, is one violation of its class. A flit whose CRC fails counts and asks for a
replay, and so does every flit in a codeword that cannot be corrected; the seventeenth of these within 1 ms takes the
port to RETRAINING. Other ports stay as they are where no message waits behind a refused one. It concludes that these
forms complete: flitData, flitIdle, flitCrcFailure, uncorrectableCodeword, flitUnknownType. -/
def Obligations.FlitsReceived : Prop :=
  ∀ (s : State) (p : Nat), (port s p).state = 3 →
    (∀ f ph b, Arrives s p f ph b → PlainHeader s p 1 b → bits (field b 0 8) 15 4 = (port s p).sess.expect →
      (readUnits (Tab.get none (port s p).sess.parts (bits (field b 0 8) 30 29)) (field b 0 8) (slice b 8 240)).ok = true →
      ((port s p).sess.buf.filter fun u => u.2.1 == bits (field b 0 8) 30 29).length
        < nth bufferFlits (bits (field b 0 8) 30 29) →
      Completes (.flitData p f) s fun t =>
        (port t p).state = 3 ∧ (port t p).sess.expect = ((port s p).sess.expect + 1) % 4096
          ∧ (port t p).sess.replayOut = false
          ∧ (port t p).sess.rx = (port s p).sess.rx
              ++ (readUnits (Tab.get none (port s p).sess.parts (bits (field b 0 8) 30 29)) (field b 0 8) (slice b 8 240)).done
          ∧ ((∀ r ∈ s.pod.reqs, r.sent = true ∨ r.signal = true) → ∀ q, q ≠ p → port t q = port s q))
    ∧ (∀ f ph b, Arrives s p f ph b → PlainHeader s p 1 b →
      3840 ≤ (bits (field b 0 8) 15 4 + 4096 - (port s p).sess.expect) % 4096 →
      Completes (.flitData p f) s fun t =>
        (port t p).state = 3 ∧ (port t p).sess.expect = (port s p).sess.expect ∧ (port t p).dups = (port s p).dups + 1
          ∧ (port t p).sess.rx = (port s p).sess.rx
          ∧ ((∀ r ∈ s.pod.reqs, r.sent = true ∨ r.signal = true) → ∀ q, q ≠ p → port t q = port s q))
    ∧ (∀ f ph b, Arrives s p f ph b → PlainHeader s p 1 b →
      1 ≤ (bits (field b 0 8) 15 4 + 4096 - (port s p).sess.expect) % 4096 →
      (bits (field b 0 8) 15 4 + 4096 - (port s p).sess.expect) % 4096 ≤ 255 →
      Completes (.flitData p f) s fun t =>
        (port t p).sess.expect = (port s p).sess.expect ∧ (port t p).sess.rx = (port s p).sess.rx
          ∧ (port t p).gaps = (port s p).gaps + 1 ∧ (port t p).sess.replayOut = true)
    ∧ (∀ f ph b, Arrives s p f ph b → bits (field b 0 8) 3 0 = 1 →
      256 ≤ (bits (field b 0 8) 15 4 + 4096 - (port s p).sess.expect) % 4096 →
      (bits (field b 0 8) 15 4 + 4096 - (port s p).sess.expect) % 4096 < 3840 →
      Completes (.flitData p f) s fun t =>
        (port t p).lastViol = (if flitBad p (field b 0 8) s then 1 else 4)
          ∧ Tab.get 0 (port t p).viol (port t p).lastViol = Tab.get 0 (port s p).viol (port t p).lastViol + 1)
    ∧ (∀ f ph b, Arrives s p f ph b → PlainHeader s p 0 b →
      Completes (.flitIdle p f) s fun t =>
        (port t p).state = 3 ∧ (port t p).sess.expect = (port s p).sess.expect
          ∧ (port t p).sess.rx = (port s p).sess.rx ∧ (port t p).viol = (port s p).viol
          ∧ nth (port t p).sess.cum (bits (field b 0 8) 52 51)
              = (if bits (field b 0 8) 52 51 < (port s p).sess.cum.length then bits (field b 0 8) 62 53 else 0))
    ∧ (∀ f ph b, Arrives s p f ph b → bits (field b 0 8) 3 0 = 0 → flitBad p (field b 0 8) s = true →
      Completes (.flitIdle p f) s fun t =>
        (port t p).lastViol = 1 ∧ Tab.get 0 (port t p).viol 1 = Tab.get 0 (port s p).viol 1 + 1)
    ∧ (∀ f ph b, Arrives s p f ph b → 3 < bits (field b 0 8) 3 0 → Completes (.flitUnknownType p f) s fun t =>
        (port t p).lastViol = 1 ∧ Tab.get 0 (port t p).viol 1 = Tab.get 0 (port s p).viol 1 + 1)
    ∧ (∀ f ph b, (port s p).phy.take f = some (ph, b) → crcGood b = false → Completes (.flitCrcFailure p f) s fun t =>
        (port t p).state = 3 ∧ (port t p).sess.expect = (port s p).sess.expect ∧ (port t p).sess.rx = (port s p).sess.rx
          ∧ (port t p).sess.replayOut = true ∧ (port t p).crcErrs = bump 0xFFFF (port s p).crcErrs)
    ∧ (∀ errs ph n, (port s p).phy.lose errs = some (ph, n) → 0 < n → Completes (.uncorrectableCodeword p errs) s fun t =>
        (port t p).state = (if 16 < (lossesAt p s).length then 4 else 3)
          ∧ (port t p).sess.rx = (port s p).sess.rx ∧ (port t p).sess.replayOut = true
          ∧ ((lossesAt p s).length ≤ 16 → (port t p).phy = { ph with losses := lossesAt p s, tx := (port t p).phy.tx })
          ∧ (port t p).fecUnc = bump 0xFFFF (port s p).fecUnc)

/-- Link control: replay, NACK, credit, retraining and parking as the partner asks. For flits that come through with a
good CRC and a header without an acknowledgement: a REPLAY_REQ for a held flit sends it and every later held flit
again, one for a flit neither held nor next is a violation; a NACK BUSY marks the requests it names as refused, or
keeps another message that it names to be sent again, and changes no request it does not name (both where no message
waits behind it already); CREDIT_INIT in training sets the credits it advertises; RETRAIN_REQ and QUARANTINE_NOTICE
take an ACTIVE port to RETRAINING, PARK to DETECT. REPLAY_REQ and, once the session is decided, CREDIT_INIT are sent
again, and IDLE flits sent, as a flit that changes nothing else than the port's queues; the first CREDIT_INIT follows
the decision of the session; an acknowledgement timeout replays the held flits. It concludes that these forms
complete: replayReq, nack, creditInit, retrainReq, quarantineNotice, park, replayReqResend, ackTimeoutReplay, ackIdle,
creditInitResend, idleInsertion. -/
def Obligations.LinkControlFlits : Prop :=
  ∀ (s : State) (p : Nat),
    (∀ f ph b, (port s p).state = 3 → Arrives s p f ph b → PlainHeader s p 2 b → lctlReserved (field b 8 240) = false →
      ((bits (field b 8 240) 7 0 = 1 → ((port s p).sess.held.any fun f => f.seq == bits (field b 8 240) 19 8) = false →
          bits (field b 8 240) 19 8 ≠ (port s p).sess.nextTx →
          Completes (.replayReq p f) s fun t => (port t p).lastViol = 4)
        ∧ (bits (field b 8 240) 7 0 = 1 → ((port s p).sess.held.any fun f => f.seq == bits (field b 8 240) 19 8) = true →
            Completes (.replayReq p f) s fun t =>
              ∃ l, t.out = s.out ++ l
                ∧ ((port s p).sess.held.dropWhile fun f => f.seq != bits (field b 8 240) 19 8).length ≤ l.length)
        ∧ (bits (field b 8 240) 7 0 = 2 → bits (field b 8 240) 31 24 = 0x10 → released s = [] →
            (∀ r ∈ s.pod.reqs, r.why = .carried → r.refused = true) →
            Completes (.nack p f) s fun t => (port t p).state = 3 ∧ t.mail = s.mail
              ∧ (∀ r ∈ s.pod.reqs, r.why ≠ .carried →
                  (nackedIds (port s p).sess (bits (field b 8 240) 19 8) (bits (field b 8 240) 23 20) 0x10).contains r.id = true →
                  ∃ q ∈ t.pod.reqs, q.id = r.id ∧ q.busy = r.busy + 1 ∧ (q.refused = true ∨ q.sent = false))
              ∧ (∀ r ∈ s.pod.reqs, r.why ≠ .carried → r.refused = false →
                  (nackedIds (port s p).sess (bits (field b 8 240) 19 8) (bits (field b 8 240) 23 20) 0x10).contains r.id = false →
                  r ∈ t.pod.reqs)
              ∧ (∀ bs, nackedIds (port s p).sess (bits (field b 8 240) 19 8) (bits (field b 8 240) 23 20) 0x10 = [] →
                  messageAt (port s p).sess (bits (field b 8 240) 19 8) (bits (field b 8 240) 23 20) = some bs →
                  ∃ q ∈ t.pod.reqs, q.bytes = bs ∧ q.why = .carried ∧ (q.refused = true ∨ q.sent = false)))
        ∧ (bits (field b 8 240) 7 0 = 4 → Completes (.retrainReq p f) s fun t => (port t p).state = 4)
        ∧ (bits (field b 8 240) 7 0 = 5 → Completes (.quarantineNotice p f) s fun t => (port t p).state = 4)
        ∧ (bits (field b 8 240) 7 0 = 6 → Completes (.park p f) s fun t =>
            (port t p).state = 1 ∧ ∀ q, q ≠ p → (port t q).state = (port s q).state)))
    ∧ (∀ f ph b, (port s p).state = 2 → Arrives s p f ph b → bits (field b 0 8) 3 0 = 2 → bits (field b 8 240) 7 0 = 3 →
        headerBad (field b 0 8) = false → lctlReserved (field b 8 240) = false → Completes (.creditInit p f) s fun t =>
          t = { s with ports := t.ports, ev := t.ev } ∧ (∀ q, q ≠ p → port t q = port s q)
            ∧ port t p = { port s p with
                phy := ph
                sess := { (port s p).sess with
                  credits := (List.range 4).map fun i => bits (field b 8 240) (79 + 16 * i) (64 + 16 * i)
                  cum := (port s p).sess.sent, partnerInit := true, initHdr := some (field b 0 8) } })
    ∧ ((port s p).state = 3 → (port s p).sess.replayOut = true → Completes (.replayReqResend p) s fun t =>
        Reports s t ∧ ∃ l h b c, l.length ≤ 1 ∧ t.out = s.out ++ l ++ [.flit p h b c])
    ∧ ((port s p).state = 2 ∨ (port s p).state = 4 → (port s p).sess.partnerInit = false →
        ((port s p).decided.isSome = true → Completes (.creditInitResend p none) s fun t =>
          Reports s t ∧ ∃ l h b c, l.length ≤ 1 ∧ t.out = s.out ++ l ++ [.flit p h b c])
        ∧ (∀ b, b.version = 1 → (port s p).decided = none → Completes (.creditInitResend p (some b)) s fun t =>
          (port t p).decided = some (mayResume (port s p).sess b) ∧ (port t p).state = (port s p).state
            ∧ ∃ l h c x, t.out = s.out ++ l ++ [.flit p h c x]))
    ∧ ((port s p).state = 3 → Completes (.idleInsertion p) s fun t =>
        Reports s t ∧ (∃ h b c, t.out = s.out ++ [.flit p h b c]) ∧ (port t p).sinceIdle = 0)
    ∧ ((port s p).state = 3 → 0 < (port s p).sess.unacked → Completes (.ackIdle p) s fun t =>
        Reports s t ∧ (∃ h b c, t.out = s.out ++ [.flit p h b c]) ∧ (port t p).sess.unacked = 0)
    ∧ ((port s p).state = 3 → (port s p).sess.held ≠ [] → Completes (.ackTimeoutReplay p) s fun t =>
        ∃ l, t.out = s.out ++ l ∧ (port s p).sess.held.length ≤ l.length)

/-- READ, WRITE, ADD, COPY, SIGNAL and COLLECTIVE of a validated partner inside its windows are served. Each request
type that is the oldest of its channel, well formed, from a validated partner, for this module, inside a window that
grants it, with the module READY, completes: the message is taken, and no state but memory, caches, reporting and the
pod's queues changes. Where an access of it must wait at a shank, a side stack, a slice or behind a refused message,
it has not been served yet and the state is as it was. A COPY of no bytes changes no memory; an ADD whose operation
Table 9.5 refuses changes none either. A COLLECTIVE that a unit of this module issues, well formed, ends at once where
it has no other member: applied here when this module's own window grants it, else with the status of a NACK and no
memory changed (the model's reading, log 197). It concludes that these forms complete: read, write, add, copy, signal,
collective. -/
def Obligations.PartnerRequestsServed : Prop :=
  ∀ (s : State) (p vc : Nat) (m : Msg),
    (Serves s p vc 1 m → Waits (fun s => serveReadMsg p m (hear m.src (popMsg p m s))) s = false →
      Completes (.read p vc) s (MessageDone p m s))
    ∧ (Serves s p vc 1 m → Waits (fun s => serveReadMsg p m (hear m.src (popMsg p m s))) s = true → exec (.read p vc) s = .next s)
    ∧ (Serves s p vc 2 m → Completes (.write p vc) s (MessageDone p m s))
    ∧ (Serves s p vc 3 m → (addWidth m.op).isNone = true → Completes (.add p vc) s fun t =>
        MessageDone p m s t ∧ t.fresh = s.fresh ∧ SameMemory s t)
    ∧ (Serves s p vc 3 m → (addWidth m.op).isSome = true →
      Waits (fun s => (serveAdd (.port p) m.addr m.op (bits m.ext 63 0) m.payload (hear m.src (popMsg p m s))).1) s = false →
      Completes (.add p vc) s (MessageDone p m s))
    ∧ (∀ rd, Serves s p vc 4 m → released s = [] → (∀ q ∈ s.pod.reqs, q.id < s.pod.nextReq) → Waits (fun s => serveCopy p rd m (hear m.src (popMsg p m s))) s = false →
      Completes (.copy p vc rd) s fun t =>
        MessageDone p m s t ∧ (bits m.ext 95 64 = 0 → SameMemory s t ∧ t.fresh = s.fresh))
    ∧ (Serves s p vc 5 m → Waits (fun s => serveSignal p m (hear m.src (popMsg p m s))) s = false →
      Completes (.signal p vc) s (MessageDone p m s))
    ∧ (Serves s p vc 7 m → (∀ c ∈ s.pod.colls, c.id ≠ s.pod.nextReq) →
      Waits (fun s => spreadColl (.port p) (some (m.rx.vc, m.src, m.tag)) 0xB000 3 m (hear m.src (popMsg p m s))) s = false →
      Completes (.collective (.received p vc)) s (MessageDone p m s))
    ∧ (∀ tile op addr data, s.pod.eff.device < 64 →
      shapeOk (rootMsg s.pod.eff.device (if tile.isSome then 1 else 3) op addr (2 ^ s.pod.eff.device) data) = true →
      collOk s (rootMsg s.pod.eff.device (if tile.isSome then 1 else 3) op addr (2 ^ s.pod.eff.device) data) = true →
      Waits (spreadColl (match tile with | some t => .output t | none => .module) none (unitOf tile)
        (if tile.isSome then 1 else 3)
        (rootMsg s.pod.eff.device (if tile.isSome then 1 else 3) op addr (2 ^ s.pod.eff.device) data)) s = false →
      (∀ c ∈ s.pod.colls, c.id ≠ s.pod.nextReq) →
      Completes (.collective (.issue tile op addr (2 ^ s.pod.eff.device) data)) s fun t =>
        t.pod.colls = s.pod.colls
          ∧ (windowOk s (rootMsg s.pod.eff.device (if tile.isSome then 1 else 3) op addr (2 ^ s.pod.eff.device) data) = true →
              ∃ l st l', t.out = s.out ++ l ++ [.requestEnd (unitOf tile) st] ++ l')
          ∧ (windowOk s (rootMsg s.pod.eff.device (if tile.isSome then 1 else 3) op addr (2 ^ s.pod.eff.device) data) = false →
              SameMemory s t ∧ ∃ l, t.out = s.out ++ [.requestEnd (unitOf tile) 7] ++ l))

/-- A partner's request that no window grants changes no memory and is a violation. For every request type: when the
oldest message of the channel is well formed and for this module, but no exported window grants it, then on a port
with a validated partner the request is dropped as violation 5, and every byte of memory, every mark and every cached
line stay as they were. A malformed one is violation 3 and changes no memory either. It concludes that these forms
complete: read, write, add, copy, signal, collective. -/
def Obligations.WindowsGuardMemory : Prop :=
  ∀ (s : State) (p vc : Nat) (m : Msg), nextMsg s p vc = some m →
    ∀ c type, ((c = Instr.read p vc ∧ type = 1) ∨ (c = Instr.write p vc ∧ type = 2) ∨ (c = Instr.add p vc ∧ type = 3)
      ∨ (∃ rd, c = Instr.copy p vc rd ∧ type = 4) ∨ (c = Instr.signal p vc ∧ type = 5)
      ∨ (c = Instr.collective (.received p vc) ∧ type = 7)) → m.type = type →
      (msgBad s m = false → validPartner s p = true → s.power.phase = .up → m.dst = s.pod.eff.device →
        windowOk s m = false → Completes c s fun t => SameMemory s t ∧ (port t p).lastViol = 5)
      ∧ (msgBad s m = true → Completes c s fun t => SameMemory s t ∧ (port t p).lastViol = 3)

/-- Responses end the request they answer; MAILBOX messages are queued and worked in turn. A RESP or DATA that names
an outstanding request of this module, in the channel paired with the request's, takes it out; in another channel it
is violation 3 and the request stays; the data of a host read complete it. An unknown message type is violation 3. A
MAILBOX message of a known service with room in the queue is queued and acknowledged. HELLO with this pod's identity
and a member's device validates the port and rebuilds its automatic route; another one marks a conflict. An event of a
member is logged by the head as two records, under the numbers that follow. It concludes that these forms complete:
resp, data, mailbox, hello, eventFwd, messageUnknownType. -/
def Obligations.ResponsesAndMail : Prop :=
  ∀ (s : State) (p vc : Nat) (m : Msg),
    (∀ r, nextMsg s p vc = some m → m.type = 0x80 → msgBad s m = false → answered (popMsg p m s) m = some r →
      s.pod.reqs.find? (fun q => q.id == r.id) = some r → r.why = .mailbox →
      (∀ q ∈ s.pod.reqs, q.sent = true ∨ q.signal = true) → m.dst = s.pod.eff.device → m.rx.vc = pairedVc r.vc →
      Completes (.resp p vc) s fun t =>
        (∀ q ∈ t.pod.reqs, q.id ≠ r.id) ∧ SameMemory s t ∧ t.mail = s.mail ∧ t.obj = s.obj)
    ∧ (∀ r, nextMsg s p vc = some m → msgBad s m = false → answered (popMsg p m s) m = some r → m.dst = s.pod.eff.device →
      m.rx.vc ≠ pairedVc r.vc →
      (m.type = 0x80 → Completes (.resp p vc) s fun t => (port t p).lastViol = 3 ∧ SameMemory s t
          ∧ ((port s p).rate < 1000 → r ∈ t.pod.reqs))
        ∧ (m.type = 0x81 → Completes (.data p vc) s fun t => (port t p).lastViol = 3 ∧ SameMemory s t
          ∧ ((port s p).rate < 1000 → r ∈ t.pod.reqs)))
    ∧ (∀ r n, nextMsg s p vc = some m → m.type = 0x81 → msgBad s m = false → answered (popMsg p m s) m = some r →
      r.why = .hostRead n → m.dst = s.pod.eff.device → m.status = 0 → m.rx.vc = pairedVc r.vc → r.id < s.pod.nextReq →
      Completes (.data p vc) s fun t =>
        (∀ q ∈ t.pod.reqs, q.id ≠ r.id) ∧ (∃ l, t.out = s.out ++ [.completion .ok m.payload] ++ l) ∧ SameMemory s t)
    ∧ (nextMsg s p vc = some m → (m.type = 0 ∨ (7 < m.type ∧ m.type ≠ 0x80 ∧ m.type ≠ 0x81)) →
      Completes (.messageUnknownType p vc) s fun t => (port t p).lastViol = 3 ∧ SameMemory s t)
    ∧ (nextMsg s p vc = some m → m.type = 6 → msgBad s m = false → validPartner s p = true → m.dst = s.pod.eff.device →
      2 ≤ bits m.ext 15 0 → bits m.ext 15 0 ≤ 7 → (s.pod.mbox.filter fun q => q.service != 1).length < 64 →
      Completes (.mailbox p vc) s fun t =>
        t.pod.mbox = s.pod.mbox ++ [⟨p, m.src, bits m.ext 15 0, bits m.ext 31 16, m.payload⟩]
          ∧ MessageDone p m s t ∧ SameMemory s t)
    ∧ (∀ h, nextMail s 1 = some h → h.port < 32 → field h.payload 0 4 = s.pod.eff.id → field h.payload 4 1 < 64 →
      bitB s.pod.eff.members (field h.payload 4 1) = true → field h.payload 4 1 ≠ s.pod.eff.device →
      (s.ports.any fun (q, pt) => q != h.port && pt.member == some (field h.payload 4 1)
        && pt.sess.serial != field h.payload 8 8) = false →
      Completes .hello s fun t =>
        (port t h.port).member = some (field h.payload 4 1) ∧ (port t h.port).conflict = false
          ∧ t.pod.heard = s.pod.heard ||| 2 ^ field h.payload 4 1 ∧ t.pod.mbox = s.pod.mbox.erase h
          ∧ (Tab.get {} t.pod.routes (field h.payload 4 1)).valid = true
          ∧ (Tab.get {} t.pod.routes (field h.payload 4 1)).next = field h.payload 4 1)
    ∧ (∀ h, nextMail s 1 = some h → field h.payload 0 4 ≠ s.pod.eff.id → Completes .hello s fun t =>
        (port t h.port).member = none ∧ (port t h.port).conflict = true ∧ t.pod.heard = s.pod.heard)
    ∧ (∀ h, nextMail s 6 = some h → s.pod.eff.head = s.pod.eff.device →
      s.ev.full 0x0905 (s.timebase / 1000000) = false → Completes .eventFwd s fun t =>
        t.ev.seq = (s.ev.seq + 2) % 2 ^ 24 ∧ t.pod.heard = s.pod.heard ||| 2 ^ h.src ∧ t.pod.mbox = s.pod.mbox.erase h
          ∧ SameMemory s t)

/-- Outstanding requests end by timeout, wait and are sent again after BUSY, and a missing member is logged once. A
sent request that times out is no longer outstanding. A refused request that has not been refused 100 times again is
sent once more where a route holds; else it ends. A SIGNAL issued is held while a message before it of its unit to its
device, or a COLLECTIVE of its unit toward it, is outstanding; with one of them failed and none outstanding it ends
with that status, unsent. A held SIGNAL leaves once none before it is outstanding and none of them failed.
POD_MEMBER_MISSING for an unreachable member notes it and reports, and nothing else changes. It concludes that these
forms complete: signalSend, requestTimeout, busyRetry, podMemberMissing. -/
def Obligations.OutstandingRequests : Prop :=
  ∀ s : State,
    (∀ id r, s.pod.reqs.find? (fun r => r.id == id) = some r → r.sent = true → r.why ≠ .carried →
      Completes (.requestTimeout id) s fun t =>
        (∀ q ∈ t.pod.reqs, q.id = id → s.pod.nextReq ≤ id) ∧ SameMemory s t)
    ∧ (∀ id r, s.pod.reqs.find? (fun r => r.id == id) = some r → r.refused = true → r.busy ≤ 100 → r.dst < 64 →
      (routePort s r.dst (field r.bytes 8 6 / 128)).isSome = true → Completes (.busyRetry id) s fun t =>
        t.pod = { s.pod with reqs := s.pod.reqs.map fun q => if q.id == r.id then { q with refused := false } else q }
          ∧ SameMemory s t ∧ t.mail = s.mail)
    ∧ (∀ id r, s.pod.reqs.find? (fun r => r.id == id) = some r → r.refused = true → 100 < r.busy →
      Completes (.busyRetry id) s fun t => (∀ q ∈ t.pod.reqs, q.id = id → s.pod.nextReq ≤ id) ∧ SameMemory s t)
    ∧ (∀ id r, s.pod.reqs.find? (fun r => r.id == id) = some r → r.signal = true → r.sent = false → r.fails = 0 →
      s.pod.reqs.any (stillBefore r) = false → s.pod.colls.any (collBefore r) = false →
      (routePort s r.dst (field r.bytes 8 6 / 128)).isSome = true → Completes (.signalSend (.release id)) s fun t =>
        t.pod = { s.pod with reqs := s.pod.reqs.map fun q => if q.id == r.id then { q with sent := true } else q }
          ∧ SameMemory s t)
    ∧ (∀ tile dst op addr v, dst ≠ s.pod.eff.device → addr % 8 = 0 → (op = 0 ∨ op = 4) →
      (∀ q ∈ s.pod.reqs, q.id < s.pod.nextReq) →
      Completes (.signalSend (.issue tile dst op addr v)) s fun t => SameMemory s t
        ∧ ((∃ q ∈ s.pod.reqs, q.dst = dst ∧ q.unit = unitOf tile ∧ (beforeSignal q.type = true ∨ q.holding = true))
            ∨ (∃ c ∈ s.pod.colls, c.parent = none ∧ c.unit = unitOf tile ∧ bitB c.mask dst = true ∧ c.id < s.pod.nextReq) →
            ∃ r, t.pod.reqs = s.pod.reqs ++ [r] ∧ r.signal = true ∧ r.sent = false ∧ r.dst = dst ∧ r.unit = unitOf tile)
        ∧ ((∀ q ∈ s.pod.reqs, q.dst = dst → q.unit = unitOf tile → beforeSignal q.type = false ∧ q.holding = false) →
            (∀ c ∈ s.pod.colls, c.unit = unitOf tile → bitB c.mask dst = false) →
            Tab.get 0 s.pod.bad (unitOf tile * 64 + dst) ≠ 0 →
            (∀ q ∈ t.pod.reqs, q.id ≠ s.pod.nextReq)
              ∧ ∃ l, t.out = s.out ++ [.requestEnd (unitOf tile) (Tab.get 0 s.pod.bad (unitOf tile * 64 + dst))] ++ l))
    ∧ (∀ d, d < 64 → bitB s.pod.eff.members d = true → d ≠ s.pod.eff.device → (reachable s).contains d = false →
      bitB s.pod.missing d = false → s.power.phase = .up → Completes (.podMemberMissing d) s
        (Reports { s with pod := { s.pod with missing := s.pod.missing ||| 2 ^ d } }))

/-- A line of the stack is read as its cells hold it, and a write stores its bytes and no others. For a line whose
shank and tier serve it and whose sectors carry no mark: a read without cell errors returns the 128 bytes that the
cells hold, with no poison, and changes no byte, no mark and no cached line; on an unguarded shank the bytes arrive as
the crossing leaves them. A write stores the bytes it names, whole sectors or parts, every other byte of memory reads
as before, no sector is marked, and the write is acknowledged. Nothing else changes but the open row, the retry count,
the record of add-to-lines and counters. Where the shank holds transfers, the access is held and memory stays. It
concludes that these forms complete: stackLineRead, stackLineWrite. -/
def Obligations.StackLineAccesses : Prop :=
  ∀ (s : State) (req : Requester) (a t l : Nat), locate s a = .stack t l → mayIssue s req = true →
    placeLost s (.stack t l) = false →
    (placeWaits s (.stack t l) = false → CleanLine s (a / 128 * 128) →
      (Completes (.stackLineRead req a 15 [] [] []) s fun u =>
        SameMemory s u ∧ u.out = s.out ++ [.lineData req (lineBytes s (a / 128 * 128)) 0 0]
          ∧ u = { s with stack := u.stack, ev := u.ev, out := u.out }
          ∧ u.stack = { s.stack with shanks := u.stack.shanks, rows := u.stack.rows }
          ∧ (∀ k, k ≠ t → shankOf u k = shankOf s k) ∧ ∃ n r, shankOf u t = { shankOf s t with tries := n, trying := r })
      ∧ (∀ cross, (shankOf s t).guard = false → Completes (.stackLineRead req a 15 [] [] cross) s fun u =>
        SameMemory s u ∧ u.out = s.out ++ [.lineData req (crossed (lineBytes s (a / 128 * 128)) cross) 0 0])
      ∧ (∀ data, data.length = 128 → Completes (.stackLineWrite req a data [] []) s fun u =>
        Stored s u (a / 128 * 128) data ∧ u.out = s.out ++ [.lineAck req]
          ∧ (∀ k, Tab.get {} u.stack.mark k = Tab.get {} s.stack.mark k)
          ∧ u = { s with stack := u.stack, ev := u.ev, out := u.out }
          ∧ u.stack = { s.stack with shanks := u.stack.shanks, rows := u.stack.rows, adds := u.stack.adds
                                     mem := u.stack.mem, mark := u.stack.mark }
          ∧ (∀ k, k ≠ t → shankOf u k = shankOf s k) ∧ ∃ n r, shankOf u t = { shankOf s t with tries := n, trying := r }))
    ∧ (heldAtShank s req t l false (a / 128 * 128) = true → Completes (.stackLineRead req a 15 [] [] []) s fun u =>
        SameMemory s u ∧ u.out = s.out
          ∧ (shankOf u t).held = (shankOf s t).held ++ [{ req, addr := a, acc := .read 15, errs := [], again := [] }])
    ∧ (∀ data, heldAtShank s req t l true (a / 128 * 128) = true → Completes (.stackLineWrite req a data [] []) s fun u =>
        SameMemory s u ∧ u.out = s.out
          ∧ (shankOf u t).held = (shankOf s t).held ++ [{ req, addr := a, acc := .write data, errs := [], again := [] }])

/-- An access to an address that no memory holds changes no memory and is reported. A line read or write, an L2
access, a streaming read, an add-to-line and a side-stack access at a hole of the address map, of a tile below its
limit of outstanding requests, complete with an error to their requester and change no byte, no mark and no cached
line. -/
def Obligations.StackHolesAreRefused : Prop :=
  ∀ (s : State) (req : Requester) (a : Nat), locate s a = .hole → mayIssue s req = true →
    ∀ c, (c = Instr.stackLineRead req a 15 [] [] []
      ∨ (∃ d, c = Instr.stackLineWrite req a d [] []) ∨ c = Instr.l2Read req a ∨ c = Instr.streamingRead req a
      ∨ (∃ d, c = Instr.l2Write req a d) ∨ (∃ acc, c = Instr.sideStackAccess req a acc [] [])
      ∨ (∃ code mask d, c = Instr.addToLine req a code mask d)) →
    Completes c s fun t => SameMemory s t ∧ ∃ l, t.out = s.out ++ l ++ [.lineError req]

/-- Guard mismatches, lane faults, shank modes, remapped rows and failed tiers. The first two guard mismatches of a
transfer in a row only count, the second holds the shank; the third completes a read with a line of poison, the fill
of a miss entry by completing the entry, and a write as it arrived, with every sector that it covers stamped.
LANE_FAULT of a healthy group of a valid shank starts the reconfiguration; SHANK_RECONFIGURED leaves the group out,
sets DEGRADED from READY on when the shank's mode changes and leaves it when not, changes no cell, and keeps the
caches unless the shank retires. ROW_REMAPPED enters the copied row in the unit's table. TIER_RAIL_FAILURE of a tier
in regulation marks it failed, drops its lines from the slices and, from READY on, sets DEGRADED. What a shank or a
side stack held is served after these, so memory is claimed unchanged where it held nothing. It concludes that these
forms complete: rowRemapped, guardMismatch, laneFault, shankReconfigured, tierRailFailure. -/
def Obligations.ShankAndTierFailures : Prop :=
  ∀ s : State,
    (∀ req t a l w d cross n, locate s a = .stack t l → (shankOf s t).guard = true →
      (w = false → hasEntry s t l = false) → heldAtShank s req t l w (a / 128 * 128) = false →
      n = (if (shankOf s t).trying = some (req, w, a / 128 * 128) then (shankOf s t).tries else 0) + 1 →
      (n < 3 → Completes (.guardMismatch req t w a d cross) s fun u =>
        (shankOf u t).tries = n ∧ (shankOf u t).trying = some (req, w, a / 128 * 128)
          ∧ (shankOf u t).doubt = ((shankOf s t).doubt || n == 2) ∧ SameMemory s u ∧ u.out = s.out)
      ∧ (3 ≤ n → w = false → (shankOf s t).held = [] → Completes (.guardMismatch req t w a d cross) s fun u =>
        (shankOf u t).tries = 0 ∧ (shankOf u t).doubt = false ∧ SameMemory s u
          ∧ ∃ l, u.out = s.out ++ [.lineData req (zeros 128) 15 0] ++ l)
      ∧ (3 ≤ n → w = true → (shankOf s t).held = [] → placeLost s (.stack t l) = false → CleanLine s (a / 128 * 128) →
        d.length = 128 → Completes (.guardMismatch req t w a d cross) s fun u =>
          Stored s u (a / 128 * 128) (crossedWrite d cross) ∧ u.cache = s.cache
            ∧ (∀ i, i < 4 → bitB (maskedSectors d) i = true → Tab.get {} u.stack.mark (a / 128 * 128 / 32 + i) = { check := stamp })
            ∧ ∃ l, u.out = s.out ++ [.lineAck req] ++ l))
    ∧ (∀ req t a l d cross, locate s a = .stack t l → (shankOf s t).guard = true → hasEntry s t l = true →
      heldAtShank s .module t l false (a / 128 * 128) = false →
      (shankOf s t).trying = some (.module, false, a / 128 * 128) → 2 ≤ (shankOf s t).tries → (shankOf s t).held = [] →
      Completes (.guardMismatch req t false a d cross) s fun u => hasEntry u t l = false ∧ (shankOf u t).tries = 0)
    ∧ (∀ t g, t < 256 → g < 17 → (shankOf s t).valid = true → (shankOf s t).mode ≠ 2 → bitB (shankOf s t).failed g = false →
      (shankOf s t).fault = none → Completes (.laneFault t g) s fun u =>
        shankOf u t = { shankOf s t with fault := some g, doubt := false } ∧ (∀ k, k ≠ t → shankOf u k = shankOf s k)
          ∧ u = { s with stack := { s.stack with shanks := u.stack.shanks } })
    ∧ (∀ t g, (shankOf s t).fault = some g → (shankOf s t).held = [] → Completes (.shankReconfigured t) s fun u =>
        (shankOf u t).failed = (shankOf s t).failed + 2 ^ g ∧ (shankOf u t).fault = none
          ∧ u.stack.mem = s.stack.mem ∧ u.stack.mark = s.stack.mark ∧ ((shankOf u t).mode ≠ 2 → u.cache = s.cache)
          ∧ (∀ k, k ≠ t → shankOf u k = shankOf s k)
          ∧ (s.power.phase = .up → (shankOf u t).mode ≠ (shankOf s t).mode → u.ev.degraded = true)
          ∧ ((shankOf u t).mode = (shankOf s t).mode → u.ev.degraded = s.ev.degraded))
    ∧ (∀ t, (shankOf s t).fault = none → (shankOf s t).doubt = true → (shankOf s t).held = [] →
      Completes (.shankReconfigured t) s fun u => shankOf u t = { shankOf s t with doubt := false } ∧ SameMemory s u)
    ∧ (∀ unit r, (shankOf s unit).copying = some r → (shankOf s unit).toCopy = [] → (shankOf s unit).held = [] →
      Completes (.rowRemapped false unit) s fun u =>
        shankOf u unit = { shankOf s unit with remaps := (shankOf s unit).remaps ++ [r], copying := none } ∧ SameMemory s u)
    ∧ (∀ unit r, (sideOf s unit).copying = some r → (sideOf s unit).toCopy = [] → (sideOf s unit).held = [] →
      Completes (.rowRemapped true unit) s fun u =>
        sideOf u unit = { sideOf s unit with remaps := (sideOf s unit).remaps ++ [r], copying := none } ∧ SameMemory s u)
    ∧ (∀ m mv, m ≠ 0 → m ≤ 8 → s.power.coreRails = true → (tierOf s (m - 1)).failed = false →
      Completes (.tierRailFailure m mv) s fun u =>
        (tierOf u (m - 1)).failed = true ∧ (s.power.phase = .up → u.ev.degraded = true) ∧ u.stack.mem = s.stack.mem
          ∧ (∀ x ∈ u.cache.lines, x.2.valid = true → x.2.index % 8 ≠ m - 1)
          ∧ Tab.get 0 u.pace.vtier (m - 1) = mv)

/-- Refresh slots are served, owed, postponed and taken by force; buckets leak; the scrub goes round. A refresh slot
that falls due while an awl program holds the tier-column is owed; else it is served with all that is owed and no row
stays open. A postponement counts up to 4 and shows in POSTPONE_MAX; after the fourth the awl is preempted and nothing
is owed. A tier's band falls to the band that its temperature asks for. Each leak, at a multiple of LEAK_S seconds of
the timebase, takes 1 from every bucket. The patrol scrub, where its row is not in use, of a stack or a side stack
goes on by one sector and, on a clean sector, changes no memory. It concludes that these forms complete: refreshSlot,
refreshPostponed, refreshPreempt, refreshBandDown, bucketLeak, patrolScrubRead. -/
def Obligations.RefreshBucketsAndScrub : Prop :=
  ∀ s : State,
    (∀ m t, m ≠ 0 → m ≤ 8 → t < 256 → s.power.coreRails = true → (tierOf s (m - 1)).failed = false →
      (awlHolds s m t = true → Completes (.refreshSlot m t) s fun u =>
        Tab.get 0 u.stack.owed (columnKey m t) = Tab.get 0 s.stack.owed (columnKey m t) + 1
          ∧ u = { s with stack := { s.stack with owed := u.stack.owed } })
      ∧ (awlHolds s m t = false → Completes (.refreshSlot m t) s fun u =>
        Tab.get 0 u.stack.owed (columnKey m t) = 0 ∧ Tab.get 0 u.stack.posts (columnKey m t) = 0 ∧ SameMemory s u
          ∧ ∀ x ∈ u.stack.rows, x.1 / 16 ≠ columnKey m t))
    ∧ (∀ m t, m ≠ 0 → m ≤ 8 → t < 256 → awlHolds s m t = true → Tab.get 0 s.stack.owed (columnKey m t) ≠ 0 →
      Tab.get 0 s.stack.posts (columnKey m t) < 4 → Completes (.refreshPostponed m t) s fun u =>
        Tab.get 0 u.stack.posts (columnKey m t) = Tab.get 0 s.stack.posts (columnKey m t) + 1 ∧ SameMemory s u
          ∧ (tierOf u (m - 1)).postMax = max (tierOf s (m - 1)).postMax (Tab.get 0 s.stack.posts (columnKey m t) + 1))
    ∧ (∀ m t, m ≠ 0 → m ≤ 8 → t < 256 → awlHolds s m t = true → 4 ≤ Tab.get 0 s.stack.posts (columnKey m t) →
      Completes (.refreshPreempt m t) s fun u =>
        Tab.get 0 u.stack.owed (columnKey m t) = 0 ∧ Tab.get 0 u.stack.posts (columnKey m t) = 0 ∧ SameMemory s u
          ∧ (Tab.get {} u.awls.awl (columnKey m t)).preempt = min 255 ((Tab.get {} s.awls.awl (columnKey m t)).preempt + 1))
    ∧ (∀ m, m ≠ 0 → m ≤ 8 → (tierOf s (m - 1)).forced = false →
      bandOf (Tab.get 0 s.thermal.temp (31 + m) + 5000) < (tierOf s (m - 1)).band →
      Completes (.refreshBandDown m) s fun u =>
        (tierOf u (m - 1)).band = bandOf (Tab.get 0 s.thermal.temp (31 + m) + 5000) ∧ SameMemory s u)
    ∧ (s.stack.leakS ≠ 0 → s.stack.leakAt / (s.stack.leakS * 10 ^ 9) < now s / (s.stack.leakS * 10 ^ 9) →
      Completes .bucketLeak s fun u =>
        (∀ k, (shankOf u k).bucket = (shankOf s k).bucket - 1 ∧ (shankOf u k).remaps = (shankOf s k).remaps)
          ∧ (∀ k, (sideOf u k).bucket = (sideOf s k).bucket - 1 ∧ (sideOf u k).state = (sideOf s k).state) ∧ SameMemory s u)
    ∧ (s.stack.scrubEn = true → placeWaits s (locate s (32 * s.stack.scrub)) = false → Completes (.patrolScrubRead none [] []) s fun u =>
        u.stack.scrub = (s.stack.scrub + 1) % (columnBytes * stackW s / 32)
          ∧ (markAt s (32 * s.stack.scrub) = {} → SameMemory s u))
    ∧ (∀ i, i < 12 → s.stack.scrubEn = true → (sideOf s i).ledger = false → (sideOf s i).state = 0 →
      (sideOf s i).moved + 32 ≤ (sideOf s i).limit * 8000 →
      (sideOf s i).copying ≠ some (sidePlace (32 * Tab.get 0 s.stack.scrubSide i)) →
      markAt s (sideBase + i * 2 ^ 37 + 32 * Tab.get 0 s.stack.scrubSide i) = {} →
      Completes (.patrolScrubRead (some i) [] []) s fun u => SameMemory s u ∧ (sideOf u i).moved = (sideOf s i).moved + 32
        ∧ Tab.get 0 u.stack.scrubSide i = (Tab.get 0 s.stack.scrubSide i + 1) % 2 ^ 32)

/-- Side stacks: line accesses within the bandwidth limit, the window, retrains and going offline. An online side
stack with allowance left serves a read of a clean line with its bytes, and a write stores its bytes and no others; an
add whose operation Table 9.5 refuses changes nothing; a read that meets a retrain, its row in copy or the end of the
allowance is held. The window's end takes its allowance off what was moved. The first three link-check failures of one
line's transfer count, the fourth starts a retrain. A retrain ends online or, failed, offline, from READY on with
DEGRADED set; what was held is served then, so memory is claimed unchanged where nothing was held. It concludes that
these forms complete: sideStackAccess, sideBandwidthWindow, sideLinkCheckFail, sideStackRetrain. -/
def Obligations.SideStackCommands : Prop :=
  ∀ s : State,
    (∀ req a i off, locate s a = .side i off → (sideOf s i).state = 0 → placeWaits s (.side i off) = false →
      mayIssue s req = true → (sideOf s i).held.length < 2048 → CleanLine s (a / 128 * 128) →
      ((sideOf s i).moved + 128 ≤ (sideOf s i).limit * 8000 → Completes (.sideStackAccess req a (.read 15) [] []) s fun u =>
        SameMemory s u ∧ u.out = s.out ++ [.lineData req (lineBytes s (a / 128 * 128)) 0 0]
          ∧ (sideOf u i).moved = (sideOf s i).moved + 128)
      ∧ (∀ data, data.length = 128 → (sideOf s i).moved + sideBytes (.write data) ≤ (sideOf s i).limit * 8000 →
        Completes (.sideStackAccess req a (.write data) [] []) s fun u =>
          Stored s u (a / 128 * 128) data ∧ u.cache = s.cache ∧ u.out = s.out ++ [.lineAck req])
      ∧ (∀ code mask d, (addWidth code).isNone = true → (sideOf s i).moved + 256 ≤ (sideOf s i).limit * 8000 →
        Completes (.sideStackAccess req a (.add code mask d) [] []) s fun u =>
          SameMemory s u ∧ u.out = s.out ++ [.lineError req]))
    ∧ (∀ req a i off sectors, locate s a = .side i off → mayIssue s req = true → (sideOf s i).held.length < 2048 →
      sideHolds s i off { req, addr := a, acc := .read sectors, errs := [], again := [] } = true →
      Completes (.sideStackAccess req a (.read sectors) [] []) s fun u => SameMemory s u ∧ u.out = s.out
        ∧ (sideOf u i).held = (sideOf s i).held ++ [{ req, addr := a, acc := .read sectors, errs := [], again := [] }])
    ∧ (∀ i, i < 12 → (sideOf s i).held = [] → Completes (.sideBandwidthWindow i) s fun u =>
        sideOf u i = { sideOf s i with moved := (sideOf s i).moved - (sideOf s i).limit * 8000 } ∧ (∀ k, k ≠ i → sideOf u k = sideOf s k)
          ∧ u = { s with stack := { s.stack with sides := u.stack.sides } })
    ∧ (∀ i line, i < 12 → (sideOf s i).state = 0 → (sideOf s i).ledger = false → (sideOf s i).valid = true →
      ((sideOf s i).failsOf line < 3 → Completes (.sideLinkCheckFail i line) s fun u =>
        sideOf u i = { sideOf s i with fails := (sideOf u i).fails } ∧ SameMemory s u
          ∧ (sideOf u i).failsOf line = (sideOf s i).failsOf line + 1
          ∧ ∀ other, other ≠ line → (sideOf u i).failsOf other = (sideOf s i).failsOf other)
      ∧ (3 ≤ (sideOf s i).failsOf line → (sideOf s i).retrain = none → Completes (.sideLinkCheckFail i line) s fun u =>
        (sideOf u i).state = 2 ∧ (sideOf u i).failsOf line = 0 ∧ (sideOf u i).retrain = some (now s) ∧ SameMemory s u)
      ∧ (∀ t0, 3 ≤ (sideOf s i).failsOf line → (sideOf s i).retrain = some t0 → now s - t0 < 10 ^ 9 →
        Completes (.sideLinkCheckFail i line) s fun u =>
          (sideOf u i).state = 1 ∧ (sideOf u i).runtime = true ∧ (s.power.phase = .up → u.ev.degraded = true) ∧ SameMemory s u))
    ∧ (∀ i, (sideOf s i).state = 2 → (sideOf s i).held = [] → Completes (.sideStackRetrain i true) s fun u =>
        (sideOf u i).state = 0 ∧ SameMemory s u)
    ∧ (∀ i, (sideOf s i).state = 2 → Completes (.sideStackRetrain i false) s fun u =>
        (sideOf u i).state = 1 ∧ (sideOf u i).runtime = true ∧ (s.power.phase = .up → u.ev.degraded = true) ∧ SameMemory s u)

/-- The sector code corrects every error of one symbol and knows the poison stamp. For each of the 36 symbols of a
code word and each of the 255 differences, the decoder of a sector whose check bytes are the encoder's names that
symbol and that difference. A sector without errors is clean, and a stamped one without errors is stamped. -/
def Obligations.SingleSymbolErrorsAreCorrected : Prop :=
  (∀ sec sym (flip : Byte), sym < 36 → flip ≠ 0 → decodeSector 0 [⟨sec, sym, flip⟩] = .corrected sym flip.toNat)
    ∧ decodeSector 0 [] = .clean ∧ decodeSector stamp [] = .stamped

/-- L2 slices: hits, misses that wait for a fill, writes without a fill, add-to-line and the THRASH window. At the
home slice of a served line with no miss entry and nothing waiting, for a tile below its limit of outstanding
requests: a read of a line held whole returns it and touches no memory; a read or a legal add of an absent line waits
in a miss entry; a write to a held line merges into it, and an absent line is allocated without a fill. An add with a
refused code changes nothing. L2_FILL of a waiting read returns the line's bytes and frees the entry. THRASH_WINDOW
clears the counts of every slice and brings L2_CFG into effect. It concludes that these forms complete: l2Read,
l2Write, streamingRead, addToLine, l2Fill, thrashWindow. -/
def Obligations.SliceCommands : Prop :=
  ∀ s : State,
    (∀ req a t l, locate s a = .stack t l → accessOf s a = .ok → placeLost s (.stack t l) = false → mayIssue s req = true →
      hasEntry s t l = false → hasLate s t l = false →
      (∀ w, findWay s t l = some w → (l2Line s t (l % 512) w).sectors.all Sector.whole = true →
        ((l2Line s t (l % 512) w).read s.obj.deadFill).dead = 0 →
        ∀ c, (c = Instr.l2Read req a ∨ c = Instr.streamingRead req a) → Completes c s fun u =>
          u.stack = s.stack ∧ l2Line u t (l % 512) w = l2Line s t (l % 512) w
            ∧ u.out = s.out ++ [.lineData req ((l2Line s t (l % 512) w).read s.obj.deadFill).data
                ((l2Line s t (l % 512) w).read s.obj.deadFill).poison 0])
      ∧ (findWay s t l = none → (s.cache.misses.filter fun m => m.slice == t).length < 64 →
        (∀ alloc c, c = (if alloc then Instr.l2Read req a else Instr.streamingRead req a) → Completes c s fun u =>
          u.cache.misses = s.cache.misses ++ [⟨t, l, [.read req alloc]⟩] ∧ u.stack = s.stack ∧ u.out = s.out)
        ∧ (∀ code mask d, (addWidth code).isSome = true → Completes (.addToLine req a code mask d) s fun u =>
          u.cache.misses = s.cache.misses ++ [⟨t, l, [.add req code mask d]⟩] ∧ u.stack = s.stack ∧ u.out = s.out))
      ∧ (∀ w data, findWay s t l = some w → Completes (.l2Write req a data) s fun u =>
          l2Line u t (l % 512) w = (l2Line s t (l % 512) w).write s.obj.deadFill data 0
            ∧ u.stack = { s.stack with adds := u.stack.adds } ∧ u.out = s.out ++ [.lineAck req])
      ∧ (∀ data, findWay s t l = none → Completes (.l2Write req a data) s fun u =>
          ∃ w, findWay u t l = some w
            ∧ l2Line u t (l % 512) w = ({ valid := true, index := l } : L2Line).write s.obj.deadFill data 0))
    ∧ (∀ req a code mask d, (addWidth code).isNone = true →
      exec (.addToLine req a code mask d) s = .next { s with out := s.out ++ [.lineError req] })
    ∧ (∀ slice index req a, (s.cache.misses.filter fun m => m.slice == slice && m.index == index)
        = [⟨slice, index, [.read req true]⟩] → s.cache.late = [] → placeLost s (.stack slice index) = false →
      placeWaits s (.stack slice index) = false →
      findWay s slice index = none → lineOf s slice index = some a → CleanLine s a →
      Completes (.l2Fill slice index [] [] []) s fun u =>
        (∃ l, u.out = s.out ++ [.lineData req (lineBytes s a) 0 0] ++ l) ∧ (findWay u slice index).isSome = true
          ∧ u.cache.misses = s.cache.misses.filter fun m => !(m.slice == slice && m.index == index))
    ∧ Completes .thrashWindow s fun u =>
        u.cache.pctUse = s.cache.pct ∧ u.cache.msUse = s.cache.ms ∧ u.cache.lines = s.cache.lines ∧ u.stack = s.stack
          ∧ ∀ k, (Tab.get {} u.cache.thrash k).acc = 0 ∧ (Tab.get {} u.cache.thrash k).miss = 0

/-- A line that any agent writes whole reads back at its home, for every agent, cached or not. For every address that
memory holds, outside lent regions, lost hardware, shanks that work without a guard, side stacks whose window is used
up, and lines for which accesses wait: after 128 bytes have been written at the line's home by any requester, a read
of the line at its home by any requester returns these bytes, with no poison and no dead sector, whether the slice
held the line before, allocates it, or leaves it in the tier. -/
def Obligations.HomeReadAfterWrite : Prop :=
  ∀ (s : State) (req req' : Requester) (a : Nat) (data : Bytes), a % 128 = 0 → data.length = 128 →
    accessOf s a = .ok → placeLost s (locate s a) = false → placeWaits s (locate s a) = false →
    (∀ t l, locate s a = .stack t l → hasEntry s t l = false ∧ hasLate s t l = false ∧ (shankOf s t).bare = false) →
    placeFull s (locate s a) = false →
    (homeRead req' a 15 (homeWrite req a (data.map some) 0 s).1).2 = (.ok, { data := data, poison := 0, dead := 0 })

/-- A command that breaks a rule of its check is refused with the reason of the first by class, and does nothing else.
For every command of the first list, whatever the origin: when it is the next accepted command and its check finds
something wrong, the command is answered REFUSED with the reason that R386 chooses, and apart from the answer and its
reporting nothing changes. The commands of the second list read memory for their check: the same of the state that
these reads leave, where none of them waits. -/
def Obligations.BrokenRulesAreRefused : Prop :=
  ∀ (s : State) (o : Origin) (rd : Remote) (a : Accepted) (f : Fail) (c : Instr) (code : Nat)
    (check : Bytes → State → List Fail), ((c, code, check) ∈ [
      (Instr.summary o, 0x0001, checkSummary), (.setMode o, 0x0010, checkSetMode), (.modelLoad o rd, 0x0020, checkModelLoad),
      (.periodicDefine o, 0x0040, checkPeriodicDefine), (.periodicEnable o, 0x0041, checkPeriodicEnable),
      (.taskDefine o, 0x0030, checkTaskDefine), (.taskAbort o, 0x0033, checkTaskAbort), (.lend o, 0x0060, checkLend),
      (.returnRegion o, 0x0061, checkReturn), (.pin o, 0x0070, checkPin),
      (.unpin o, 0x0071, checkUnpin), (.streamDefine o, 0x0080, checkStreamDefine), (.streamEnable o, 0x0081, checkStreamEnable),
      (.intakeDefine o, 0x0082, checkIntakeDefine), (.completionDefine o, 0x0083, checkCompletionDefine),
      (.podConfig o, 0x0090, checkPodConfig), (.podSend o, 0x0091, checkPodSend), (.routeSet o, 0x0092, checkRouteSet),
      (.countersRead o, 0x00B0, checkCounters), (.traceCfg o, 0x00B1, checkTrace)] →
      accepted s o code = some a → pickFail (check a.payload s) = some f →
      Completes c s fun t => Answered o 2 f.reason s t ∧ t.obj = s.obj ∧ SameMemory s t)
    ∧ ∀ reads rd', (c, code, reads, rd', check) ∈ [
        (Instr.modelEvict o, 0x0021, (fun _ s => liveReads s), [], checkModelEvict),
        (.taskEnable o rd, 0x0031, enableReads, rd, checkTaskEnable rd), (.taskSubmit o rd, 0x0032, submitReads, rd, checkTaskSubmit rd),
        (.seqCreate o, 0x0050, createReads, [], checkSeqCreate), (.seqExtend o, 0x0051, extendReads, [], checkSeqExtend),
        (.seqFree o rd, 0x0052, freeReads rd, rd, checkSeqFree rd), (.awlRun o rd, 0x0062, runReads, rd, checkAwlRun rd)] →
      ∀ u, accepted s o code = some a → readAhead (reads a.payload s) rd' { s with waits := false } = u → waited s u = false →
        accepted u o code = some a → pickFail (check a.payload u) = some f →
        Completes c s fun t => Answered o 2 f.reason { u with waits := s.waits } t ∧ t.obj = u.obj ∧ SameMemory u t

/-- BAR2: a host write reads back, and accesses that the window or the module's state refuses change no memory. With
the module READY and the local window enabled, a write of one whole line that memory serves, and for which no access
waits, completes, and a read of that line at its home gives the written bytes; a read within one line that need not
wait completes with the bytes of the line at its home, and one that must is kept with the address that its translation
gave. With the window disabled, before READY, and for a poisoned write to another module, no memory changes, and a
read completes as unsupported or aborted. It concludes that these forms complete: bar2Read, bar2Write. -/
def Obligations.HostAccessesThroughBar2 : Prop :=
  ∀ s : State, hostHeard s = true →
    (∀ off bs, bar2Fits s off 128 = true → memoryServed s = true → ready s = true → s.pcie.win.enable = true →
      s.pcie.win.remote = false → bs.length = 128 → bar2Addr s off % 128 = 0 → accessOf s (bar2Addr s off) = .ok →
      placeLost s (locate s (bar2Addr s off)) = false → placeWaits s (locate s (bar2Addr s off)) = false →
      (∀ t l, locate s (bar2Addr s off) = .stack t l → hasEntry s t l = false ∧ hasLate s t l = false ∧ (shankOf s t).bare = false) →
      placeFull s (locate s (bar2Addr s off)) = false →
      Completes (.bar2Write off (bs.map some) false) s fun t =>
        (homeRead .host (bar2Addr s off) 15 t).2 = (.ok, { data := bs, poison := 0, dead := 0 }) ∧ Accessed s t)
    ∧ (∀ off len u r, bar2Fits s off len = true → memoryServed s = true → ready s = true → s.pcie.win.enable = true →
      s.pcie.win.remote = false → bar2Addr s off % 128 + len ≤ 128 →
      homeRead .host (bar2Addr s off) (sectorMask (bar2Addr s off / 128 * 128) (bar2Addr s off) len)
        { s with waits := false } = (u, .ok, r) → waited s u = false →
      r.poison = 0 → exec (.bar2Read off len) s
        = .next { u with waits := s.waits, out := u.out ++ [.completion .ok (slice r.data (bar2Addr s off % 128) len)] })
    ∧ (∀ off len, bar2Fits s off len = true → memoryServed s = true → ready s = true → s.pcie.win.enable = true →
      s.pcie.win.remote = false → tryBar2 (bar2Addr s off) len s = none → exec (.bar2Read off len) s
        = .next { s with pcie := { s.pcie with bar2Held := s.pcie.bar2Held ++ [(bar2Addr s off, len)] } })
    ∧ (∀ off len, bar2Fits s off len = true → memoryServed s = true → ready s = false →
      Completes (.bar2Read off len) s fun t => t.out = s.out ++ [.completion .abort []] ∧ SameMemory s t ∧ t.obj = s.obj)
    ∧ (∀ off len, bar2Fits s off len = true → memoryServed s = true → ready s = true → s.pcie.win.enable = false →
      Completes (.bar2Read off len) s fun t => (∃ l, t.out = s.out ++ l ++ [.completion .unsupported []]) ∧ SameMemory s t)
    ∧ (∀ off data ep, bar2Takes s off data.length = true → (ready s = false ∨ s.pcie.win.enable = false
        ∨ (ep = true ∧ s.pcie.win.remote = true ∧ s.pcie.win.dev ≠ s.pod.eff.device)) →
      Completes (.bar2Write off data ep) s (SameMemory s))

/-- PERST# rises, the link trains, and every outstanding read of host memory ends, with data or without.
PERST_DEASSERT completes in every state: the port trains while the core rails are up and the link is not. PCIE_LINK_UP
with a speed and a width of Table 13.1 ends the training. HOST_READ_COMPLETION and HOST_COMPLETION_TIMEOUT complete
for every outstanding read, whatever it was issued for: the read is no longer outstanding, and reads that waited for
room may be. A read that fails changes no memory, frees its intake area, marks its stream transfer with the reason,
and sets the AER bit of a poisoned completion or of a timeout. An intake header that brings no new entries frees the
area. Data is given to the object that asked, where none of its accesses waits. It concludes that these forms
complete: perstDeassert, pcieLinkUp, hostReadCompletion, hostCompletionTimeout. -/
def Obligations.HostLinkTrainsAndReadsEnd : Prop :=
  (∀ s : State, exec .perstDeassert s = .next { s with
      power := { s.power with perstN := true, perstHigh := s.power.standby }
      pcie := { s.pcie with training := s.power.coreRails && !s.pcie.link } })
  ∧ (∀ (s : State) (speed width : Nat) (flit : Bool), s.pcie.training = true → s.power.coreRails = true → s.power.perstN = true →
      (1 ≤ speed ∧ speed ≤ 6) → (width = 1 ∨ width = 2 ∨ width = 4 ∨ width = 8 ∨ width = 16) →
      ∃ t, exec (.pcieLinkUp speed width flit) s = .next t ∧ t.pcie.link = true ∧ t.pcie.training = false
        ∧ t.pcie.width = width ∧ t.pcie.flit = flit ∧ t.pcie.speed = (if flit then speed else min speed 5)
        ∧ t.power = s.power ∧ SameMemory s t)
  ∧ ∀ (s : State) (tag : Nat) (r : OutRead), s.pcie.reads.find? (fun r => r.tag == tag) = some r →
    (∀ c rd, (c = .unsupported ∨ c = .abort ∨ ∃ bs, c = .ep bs) → ∃ t, exec (.hostReadCompletion tag c rd) s = .next t
      ∧ (∃ l, t.pcie.reads = s.pcie.reads.filter (fun r => !(r.tag == tag)) ++ l) ∧ SameMemory s t ∧ t.power = s.power
      ∧ ((∃ bs, c = .ep bs) → bitB t.pcie.aer aerPoisoned = true)
      ∧ (∀ a k, (r.why = .intakeHeader a ∨ ∃ x n, r.why = .intakeEntries a x n) → intakeOf s a = some k →
          intakeOf t a = some { k with busy := false })
      ∧ (∀ id u, r.why = .stream id → subOf s id = some u → u.bad = 0 → ∃ u', subOf t id = some u'
          ∧ u'.bad = (match c with | .ep _ => 0x0110 | _ => 0x0601)))
    ∧ (s.pcie.cfg.cplDisable = false → ∃ t, exec (.hostCompletionTimeout tag) s = .next t
      ∧ (∃ l, t.pcie.reads = s.pcie.reads.filter (fun r => !(r.tag == tag)) ++ l) ∧ SameMemory s t ∧ t.power = s.power
      ∧ bitB t.pcie.aer aerTimeout = true
      ∧ (∀ a k, (r.why = .intakeHeader a ∨ ∃ x n, r.why = .intakeEntries a x n) → intakeOf s a = some k →
          intakeOf t a = some { k with busy := false })
      ∧ (∀ id u, r.why = .stream id → subOf s id = some u → u.bad = 0 → ∃ u', subOf t id = some u' ∧ u'.bad = 0x0601))
    ∧ (∀ bs rd a k, r.why = .intakeHeader a → intakeOf s a = some k → k.host = k.taken → k.host < 2 ^ 32 →
      field (slice bs 0 r.len) 0 8 = k.host + 2 ^ 32 * (2 ^ 32 - 1 - k.host) →
      ∃ t, exec (.hostReadCompletion tag (.data bs) rd) s = .next t
        ∧ (∃ l, t.pcie.reads = s.pcie.reads.filter (fun r => !(r.tag == tag)) ++ l) ∧ SameMemory s t
        ∧ intakeOf t a = some { k with busy := false })
    ∧ (∀ bs rd u, pumpReads (takeRead r (slice bs 0 r.len) rd (dropRead tag { s with waits := false })) = u → waited s u = false →
      exec (.hostReadCompletion tag (.data bs) rd) s = .next { u with waits := s.waits })

/-- The scan accepts a posted command, or answers it at once when its numbers are wrong. With the Cobbler running,
every slot that is not POSTED, or whose command is still at work, is left as it is. A POSTED slot with a wrong commit
number or a repeated sequence number is DONE and REFUSED with that reason. A POSTED slot whose numbers are right and
whose code and length are known is ACCEPTED, its command waits with its payload, and its sequence number is recorded.
No object and no memory changes. It concludes that these forms complete: mailboxScan. -/
def Obligations.MailboxScanAccepts : Prop :=
  ∀ s : State, cobblerUp s = true → Completes .mailboxScan s fun t =>
    t.obj = s.obj ∧ SameMemory s t ∧ t.power = s.power
    ∧ (∀ n, ((Tab.get {} s.mail.slots n).commit ≠ 1 ∨ (s.mail.accepted.any fun a => a.origin == .slot n) = true) →
        Tab.get {} t.mail.slots n = Tab.get {} s.mail.slots n)
    ∧ (∀ n, n < 64 → (Tab.get {} s.mail.slots n).commit = 1 → (s.mail.accepted.any fun a => a.origin == .slot n) = false →
        ((Tab.get {} s.mail.slots n).cseq ≠ (Tab.get {} s.mail.slots n).seq % 2 ^ 16 →
          (Tab.get {} t.mail.slots n).commit = 3 ∧ (Tab.get {} t.mail.slots n).status = 2
            ∧ (Tab.get {} t.mail.slots n).reason = 0x010D)
        ∧ ((Tab.get {} s.mail.slots n).cseq = (Tab.get {} s.mail.slots n).seq % 2 ^ 16 →
          Tab.get none s.mail.lastSeq n = some (Tab.get {} s.mail.slots n).seq →
          (Tab.get {} t.mail.slots n).commit = 3 ∧ (Tab.get {} t.mail.slots n).status = 2
            ∧ (Tab.get {} t.mail.slots n).reason = 0x0309)
        ∧ ((Tab.get {} s.mail.slots n).cseq = (Tab.get {} s.mail.slots n).seq % 2 ^ 16 →
          Tab.get none s.mail.lastSeq n ≠ some (Tab.get {} s.mail.slots n).seq →
          receive s (Tab.get {} s.mail.slots n).cmd (Tab.get {} s.mail.slots n).len
            (getBytes (Tab.get {} s.mail.slots n).payload 0 (min (Tab.get {} s.mail.slots n).len 4032)) = none →
          (Tab.get {} t.mail.slots n).commit = 2
            ∧ Tab.get none t.mail.lastSeq n = some (Tab.get {} s.mail.slots n).seq
            ∧ ∃ a ∈ t.mail.accepted, a.origin = .slot n ∧ a.cmd = (Tab.get {} s.mail.slots n).cmd ∧ a.started = false
                ∧ a.payload = getBytes (Tab.get {} s.mail.slots n).payload 0 (min (Tab.get {} s.mail.slots n).len 4032)))

/-- SUMMARY, its snapshots, STAGE_REPORT and COUNTERS_READ answer from the present state. SUMMARY without a
destination makes a new snapshot and answers OK; SUMMARY_SNAPSHOT makes one from stage 1 onward: the page is that of
the present state under the next even number, and nothing else changes. STAGE_REPORT of a stage or of all answers OK.
COUNTERS_READ without a clear writes its records and answers, and beside memory and reporting nothing changes. It
concludes that these forms complete: summary, summarySnapshot, stageReport, countersRead. -/
def Obligations.SummariesAndCounters : Prop :=
  ∀ s : State,
    (∀ o pl, Passes s o 0x0001 checkSummary pl → field pl 0 8 = 0 → Completes (.summary o) s fun t =>
      Answered o 1 0 (snapshot s) t ∧ t.tele.snap = (s.tele.snap + 2) % 2 ^ 64 ∧ t.tele.page = (snapshot s).tele.page)
    ∧ ((s.power.phase = .up ∨ ∃ n, s.power.phase = .bringup (n + 1)) → exec .summarySnapshot s = .next { s with tele :=
        { s.tele with
          snap := (s.tele.snap + 2) % 2 ^ 64
          page := summaryPage { s with tele := { s.tele with snap := (s.tele.snap + 2) % 2 ^ 64 } } } })
    ∧ (∀ o a, accepted s o 0x0002 = some a → (field a.payload 0 1 ≤ 4 ∨ field a.payload 0 1 = 0xFF) →
      Completes (.stageReport o) s fun t => Answered o 1 0 s t ∧ t.bring = s.bring)
    ∧ (∀ o pl, Passes s o 0x00B0 checkCounters pl → bitB (field pl 6 1) 0 = false → Completes (.countersRead o) s fun t =>
        ∃ u status reason, Accessed s u ∧ Answered o status reason u t ∧ (status = 1 ↔ reason = 0))

/-- Rate limits and suppression end with their records; tracing starts, samples and writes its records. A rate limit's
interval without folded occurrences is over, with some it reports them and runs on. A window of suppression reports
and clears its count. TRACE_CFG with ENABLE starts tracing anew, with nothing written. A sample only reports. A queued
record that finds its place in memory raises the count of written records by 1. It concludes that these forms
complete: traceCfg, rateLimitIntervalEnd, eventsSuppressed, traceSample, traceRecordWrite. -/
def Obligations.IntervalsAndTraces : Prop :=
  ∀ s : State,
    (∀ code src f, s.ev.folds.find? (fun f => f.code == code && f.key == src) = some f → f.count = 0 →
      exec (.rateLimitIntervalEnd code src) s
        = .next { s with ev := { s.ev with folds := s.ev.folds.filter fun g => !(g.code == code && g.key == src) } })
    ∧ (∀ code src f, s.ev.folds.find? (fun f => f.code == code && f.key == src) = some f → f.count ≠ 0 → code ≠ 0x0805 →
      Completes (.rateLimitIntervalEnd code src) s fun t =>
        Reports s t ∧ ∀ g ∈ t.ev.folds, g.code = code → g.key = src → g.count = 0)
    ∧ (∀ code, code ≠ 0x0D01 → Tab.get 0 s.ev.supp code ≠ 0 → Completes (.eventsSuppressed code) s fun t =>
        Reports s t ∧ Tab.get 0 t.ev.supp code = 0)
    ∧ (∀ o pl, Passes s o 0x00B1 checkTrace pl → dget pl 0 1 = 1 → Completes (.traceCfg o) s fun t =>
        t.trace.enabled = true ∧ t.trace.written = 0 ∧ t.trace.base = dget pl 64 48 ∧ t.trace.len = dget pl 128 40
          ∧ ∃ u, Accessed { s with trace := readTrace pl } u ∧ Answered o 1 0 u t)
    ∧ (s.trace.enabled = true → s.trace.sampleUs ≠ 0 → Completes .traceSample s (Reports s))
    ∧ (∀ r rest, s.trace.enabled = true → s.trace.queue = r :: rest → s.trace.lostNew = 0 →
      accessOf s ((s.trace.base + 128 + 32 * (s.trace.written % traceEntries s.trace.len)) / 128 * 128) = .ok →
      placeLost s (locate s (s.trace.base + 128 + 32 * (s.trace.written % traceEntries s.trace.len))) = false →
      Completes .traceRecordWrite s fun t =>
        t.trace.written = s.trace.written + 1 ∧ t.obj = s.obj ∧ t.mail = s.mail ∧ t.power = s.power)

/-- SMBus reads answer with the telemetry block, writes set the alert mask and clear alert bits. With the standby rail
in regulation: Byte, Word and Block Read of codes 0x00 to 0x1F answer the bytes of the block, other codes are not
acknowledged; a write of the mask keeps its four bits; a write of the status clears the bits written as 1; the alert
response is the module's address while an unmasked alert stands. Every answer carries its packet error code, and a
write with a wrong one is not acknowledged (the model's reading of SMBus, log 192). Nothing else changes. It concludes
that these forms complete: byteRead, wordRead, blockRead, alertMaskWrite, alertStatusWrite, alertResponse. -/
def Obligations.SmbusAnswers : Prop :=
  ∀ s : State, s.power.standby = true →
    (∀ code, code < 32 → exec (.byteRead code) s
      = .next { s with out := s.out ++ [smbAnswer s code [] (slice (smbBlock s) code 1)] })
    ∧ (∀ code, code < 32 → exec (.wordRead code) s
      = .next { s with out := s.out ++ [smbAnswer s code [] (slice (smbBlock s) code 2)] })
    ∧ (∀ code, 32 ≤ code → exec (.byteRead code) s = .next { s with out := s.out ++ [.smbusNak] }
        ∧ exec (.wordRead code) s = .next { s with out := s.out ++ [.smbusNak] })
    ∧ exec .blockRead s = .next { s with out := s.out ++ [smbAnswer s 0x20 [32] (slice (smbBlock s) 0 32)] }
    ∧ (∀ v pec, exec (.alertMaskWrite v pec) s = .next (if smbPecOk s 0x0F v pec then { s with tele := { s.tele with mask := v % 16 } }
        else { s with out := s.out ++ [.smbusNak] }))
    ∧ (∀ v pec, smbPecOk s 0x10 v pec = false → exec (.alertStatusWrite v pec) s = .next { s with out := s.out ++ [.smbusNak] })
    ∧ (∀ v pec, smbPecOk s 0x10 v pec = true → Completes (.alertStatusWrite v pec) s fun t => t = { s with tele := { s.tele with alert := t.tele.alert } }
        ∧ ∀ i, bitB t.tele.alert i = (bitB s.tele.alert i && decide (i < 4) && !bitB v i))
    ∧ (smbAlert s = true →
      exec .alertResponse s = .next { s with out := s.out ++
        [.smbus [BitVec.ofNat 8 s.power.smbAddr] (smbPec [BitVec.ofNat 8 0x19, BitVec.ofNat 8 s.power.smbAddr])] })

/-- Periodic classes are defined, enabled, released at their time and overrun their budget. PERIODIC_DEFINE that
breaks no rule defines the class disabled with the operands' period, budget and phase and clears its register.
PERIODIC_ENABLE of a disabled class starts it at the present time with instance 0 due at its phase; disabling keeps a
released instance. At its release time the next instance is released and its number is counted; an instance past its
budget is marked and counted once. No memory changes. It concludes that these forms complete: periodicDefine,
periodicEnable, periodicRelease, periodicOverrun. -/
def Obligations.PeriodicClasses : Prop :=
  ∀ s : State,
    (∀ o pl, Passes s o 0x0040 checkPeriodicDefine pl → Completes (.periodicDefine o) s fun t =>
      classOf t (field pl 0 1) = some { task := field pl 2 2, period := field pl 8 8, budget := field pl 16 8, phase := field pl 24 8 }
        ∧ Tab.get {} t.obj.pstat (field pl 0 1) = {} ∧ SameMemory s t
        ∧ ∀ k, k ≠ field pl 0 1 → classOf t k = classOf s k)
    ∧ (∀ o pl c, Passes s o 0x0041 checkPeriodicEnable pl → classOf s (field pl 0 1) = some c →
      (field pl 1 1 = 1 → c.enabled = false → Completes (.periodicEnable o) s fun t =>
        classOf t (field pl 0 1)
            = some { c with enabled := true, base := now s, k := 0, release := now s + c.phase, late := 0, largest := 0 }
          ∧ SameMemory s t)
      ∧ (field pl 1 1 = 0 → Completes (.periodicEnable o) s fun t =>
        classOf t (field pl 0 1) = some { c with enabled := false } ∧ SameMemory s t))
    ∧ (∀ i c, classOf s i = some c → c.enabled = true → c.cur = none → c.release ≤ now s →
      Completes (.periodicRelease i) s fun t => SameMemory s t ∧ t.sched = s.sched ∧ ∃ d, classOf t i = some d
        ∧ d.cur = some (c.k, c.release) ∧ d.k = c.k + 1 ∧ d.late = c.release - c.nominal c.k ∧ d.enabled = true)
    ∧ (∀ i c k r, classOf s i = some c → c.cur = some (k, r) → c.overrun = false → r + c.budget ≤ now s →
      Completes (.periodicOverrun i) s fun t => classOf t i = some { c with overrun := true } ∧ SameMemory s t
        ∧ (Tab.get {} t.obj.pstat i).overruns = min 0xFFFF ((Tab.get {} s.obj.pstat i).overruns + 1))
    ∧ (∀ i c k r, classOf s i = some c → c.cur = some (k, r) → c.overrun = true →
      exec (.periodicOverrun i) s = .next s)

/-- The Cobbler takes a completion area's host count when its two halves agree. For an enabled area in host memory,
READY and with no record waiting for space in it, a header word whose halves agree and whose count lies within what
was written becomes the area's host count, one whose halves disagree changes nothing; without a word the header is
asked for once. No object but the area changes, and no memory. It concludes that these forms complete:
completionAreaHostCount. -/
def Obligations.CompletionAreaCounts : Prop :=
  ∀ (s : State) (a : Nat) (k : Compl), complOf s a = some k → k.enabled = true → k.device = false → ready s = true →
    (∀ w, canIssue s = true → k.order = [] →
      (w / 2 ^ 32 % 2 ^ 32 = 2 ^ 32 - 1 - w % 2 ^ 32 → (k.written + 2 ^ 32 - w % 2 ^ 32) % 2 ^ 32 ≤ k.size →
        exec (.completionAreaHostCount a (some w)) s = .next (setCompl a (fun k => { k with host := w % 2 ^ 32 }) s))
      ∧ (w / 2 ^ 32 % 2 ^ 32 ≠ 2 ^ 32 - 1 - w % 2 ^ 32 → Completes (.completionAreaHostCount a (some w)) s fun t =>
        complOf t a = some k ∧ SameMemory s t ∧ t.out = s.out))
    ∧ ((s.pcie.reads.any fun r => r.why == .complHeader a) = false →
      (s.pcie.waiting.any fun r => r.why == .complHeader a) = false → Completes (.completionAreaHostCount a none) s fun t =>
        t = { s with pcie := t.pcie, out := t.out } ∧ (∃ l, t.out = s.out ++ l)
          ∧ ((t.pcie.reads.any fun r => r.why == .complHeader a) = true
            ∨ (t.pcie.waiting.any fun r => r.why == .complHeader a) = true))

/-- LEND, RETURN, the dead-fill and DISCARD take effect in their steps, and what a slice held of the range is gone.
LEND that breaks no rule claims the range under a free number, in progress; LEND_PROCEED at an operation boundary,
once the L1s' and the slices' write-backs have reached their places, lends it, with no valid line of it left in any
slice and every L1 empty, and answers. RETURN removes the region. DISCARD_CFG sets the dead-fill; another form is
refused. DISCARD claims its range; DISCARD_PROCEED, once the L1s' write-backs have, marks every sector of it dead,
leaves no line of it in a slice but pinned dead ones, and answers. It concludes that these forms complete: lend,
lendProceed, returnRegion, discardCfg, discard, discardProceed. -/
def Obligations.LentAndDiscardedRanges : Prop :=
  ∀ s : State,
    (∀ o pl, Passes s o 0x0060 checkLend pl → Completes (.lend o) s fun t => ∃ id, id < 64 ∧ lendOf s id = none
        ∧ lendOf t id = some { base := podOffset (field pl 0 8), len := field pl 8 8, lent := false, by' := o }
        ∧ (∀ k, k ≠ id → lendOf t k = lendOf s k) ∧ t.mail = (begin' o s).mail ∧ SameMemory s t)
    ∧ (∀ region r, lendOf s region = some r → r.lent = false → s.sched.op = none → rangeBusy s r.base r.len = false →
      allFenced (flushLines (inRange (flushAllL1 s) r.base r.len) (flushAllL1 s)) = true →
      rangeBusy (flushLines (inRange (flushAllL1 s) r.base r.len) (flushAllL1 s)) r.base r.len = false →
      Completes (.lendProceed region) s fun t =>
        lendOf t region = some { r with lent := true, entered := true } ∧ (∀ k, k ≠ region → lendOf t k = lendOf s k)
          ∧ (∀ x ∈ t.cache.lines, x.2.valid = true → inRange s r.base r.len (x.1 / 8192) x.2 = false)
          ∧ (∀ k, (tileOf t k).l1 = []) ∧ t.mail.accepted = s.mail.accepted.filter fun a => !(a.origin == r.by'))
    ∧ (∀ o pl, Passes s o 0x0061 checkReturn pl → Completes (.returnRegion o) s fun t =>
        lendOf t (field pl 0 1) = none ∧ (∀ k, k ≠ field pl 0 1 → lendOf t k = lendOf s k)
          ∧ Answered o 1 0 { s with obj := t.obj } t)
    ∧ (∀ o a, accepted s o 0x0072 = some a → field a.payload 0 1 = 0 →
      reservedFail (a.payload.take 24) [(0, 8), (8, 8)] = [] → field a.payload 1 1 ≤ 3 → Completes (.discardCfg o) s fun t =>
        t.obj = { s.obj with deadFill := field a.payload 1 1 } ∧ Answered o 1 0 { s with obj := t.obj } t)
    ∧ (∀ o a, accepted s o 0x0072 = some a → 2 ≤ field a.payload 0 1 → Completes (.discardCfg o) s (Answered o 2 0x0104 s))
    ∧ (∀ o pl, Passes s o 0x0072 checkDiscard pl → field pl 0 1 = 1 → Completes (.discard o) s fun t =>
        t.obj = { s.obj with discards := s.obj.discards ++ [{ by' := o, base := podOffset (field pl 8 8), len := field pl 16 8 }] }
          ∧ t.mail = (begin' o s).mail ∧ SameMemory s t)
    ∧ (∀ o d, s.obj.discards.find? (fun d => d.by' == o) = some d → s.sched.op = none → rangeBusy s d.base d.len = false →
      allFenced (flushAllL1 s) = true → rangeBusy (flushAllL1 s) d.base d.len = false →
      d.base % 128 = 0 → d.len % 128 = 0 → Completes (.discardProceed o) s fun t =>
        (∀ x, d.base ≤ 32 * x → 32 * x < d.base + d.len → (Tab.get {} t.stack.mark x).dead = 7)
          ∧ (∀ x ∈ t.cache.lines, x.2.valid = true → inRange s d.base d.len (x.1 / 8192) x.2 = true →
              x.2.pinned = true ∧ x.2.secs = List.replicate 4 { dead := true })
          ∧ t.obj.discards = s.obj.discards.filter (fun x => !(x.by' == o))
          ∧ t.mail.accepted = s.mail.accepted.filter fun a => !(a.origin == o))

/-- PIN, UNPIN, AWL_RUN and the definitions of streams, intake areas and completion areas enter what they name. Each
command, when it breaks no rule, answers OK and enters its object: PIN its range under the lowest free number, where
no fill waits; UNPIN removes it and every valid line of the range is ordinary, with the cells untouched; AWL_RUN, once
its block is read, a work entry and the block at the end of the queue of runs; STREAM_DEFINE, INTAKE_DEFINE and
COMPLETION_DEFINE the definition of their operands, or with the enable bit cleared the enabled area disabled;
STREAM_ENABLE sets the enable bit. Other objects stay. It concludes that these forms complete: awlRun, pin, unpin,
streamDefine, streamEnable, intakeDefine, completionDefine. -/
def Obligations.PinsRunsAndDefinitions : Prop :=
  ∀ (s : State) (o : Origin) (pl : Bytes),
    (∀ id, Passes s o 0x0070 checkPin pl → firstFree 64 (fun i => (obj s.obj.pins i).isSome) = some id →
      Waits (fun s => (rangeLines (podOffset (field pl 0 8)) (field pl 8 8)).foldl pinLine (controlSlices { s with obj :=
        { s.obj with pins := setObj s.obj.pins id (some (podOffset (field pl 0 8), field pl 8 8)) } })) s = false →
      Completes (.pin o) s fun t => id < 64 ∧ obj s.obj.pins id = none
        ∧ t.obj = { s.obj with pins := setObj s.obj.pins id (some (podOffset (field pl 0 8), field pl 8 8)) }
        ∧ ∃ u, Accessed { s with obj := t.obj } u ∧ Answered o 1 0 u t)
    ∧ (∀ r, Passes s o 0x0071 checkUnpin pl → obj s.obj.pins (field pl 0 1) = some r → Completes (.unpin o) s fun t =>
        t.obj = { s.obj with pins := setObj s.obj.pins (field pl 0 1) none } ∧ t.stack = s.stack
          ∧ (∀ x ∈ t.cache.lines, x.2.valid = true → inRange s r.1 r.2 (x.1 / 8192) x.2 = true → x.2.pinned = false)
          ∧ Answered o 1 0 { s with obj := t.obj, cache := t.cache } t)
    ∧ (∀ rd v, ReadsPass s o 0x0062 runReads rd (checkAwlRun rd) pl v → Completes (.awlRun o rd) s fun t =>
        (∃ u, t.sched.subs = v.sched.subs ++ [u] ∧ u.id = v.sched.nextId ∧ u.kind = 3 ∧ u.compl = field pl 8 1
          ∧ u.tag = field pl 12 4 ∧ u.addr = field pl 0 8 ∧ u.started = false
          ∧ t.awls.queue = v.awls.queue ++ [{ sub := u.id, block := slice (podRead .module (field pl 0 8) 128 rd v).2.data 0 128 }])
        ∧ Answered o 1 0 { v with waits := s.waits, sched := t.sched, awls := t.awls } t)
    ∧ (Passes s o 0x0080 checkStreamDefine pl → Completes (.streamDefine o) s fun t =>
        t.obj = { s.obj with streams := setObj s.obj.streams (field pl 0 1) (some
            { out := field pl 1 1 == 1, count := field pl 4 4, host := field pl 8 8, dev := field pl 16 8
              size := field pl 24 4, enabled := false }) } ∧ Answered o 1 0 { s with obj := t.obj } t)
    ∧ (∀ k, Passes s o 0x0081 checkStreamEnable pl → streamOf s (field pl 0 1) = some k → Completes (.streamEnable o) s fun t =>
        streamOf t (field pl 0 1) = some { k with enabled := field pl 1 1 == 1 }
          ∧ (∀ i, i ≠ field pl 0 1 → streamOf t i = streamOf s i) ∧ Answered o 1 0 { s with obj := t.obj } t)
    ∧ (Passes s o 0x0082 checkIntakeDefine pl → Completes (.intakeDefine o) s fun t =>
        (∀ k, intakeOf s (field pl 0 1) = some k → k.enabled = true →
          intakeOf t (field pl 0 1) = some { k with enabled := false })
        ∧ (((intakeOf s (field pl 0 1)).map (·.enabled)).getD false = false → intakeOf t (field pl 0 1) = some
            { device := field pl 1 1 == 1, log2 := field pl 2 1, base := field pl 8 8, enabled := field pl 3 1 == 1
              pollUs := if field pl 4 2 = 0 then 2 else field pl 4 2 })
        ∧ (∀ i, i ≠ field pl 0 1 → intakeOf t i = intakeOf s i) ∧ Answered o 1 0 { s with obj := t.obj } t)
    ∧ (Passes s o 0x0083 checkCompletionDefine pl → Completes (.completionDefine o) s fun t =>
        (∀ k, complOf s (field pl 0 1) = some k → k.enabled = true →
          complOf t (field pl 0 1) = some { k with enabled := false })
        ∧ (((complOf s (field pl 0 1)).map (·.enabled)).getD false = false → complOf t (field pl 0 1) = some
            { device := field pl 1 1 == 1, log2 := field pl 2 1, vector := field pl 4 1, base := field pl 8 8
              enabled := field pl 3 1 == 1 })
        ∧ (∀ i, i ≠ field pl 0 1 → complOf t i = complOf s i) ∧ Answered o 1 0 { s with obj := t.obj } t)

/-- Stream transfers start and end with their record, and an intake area is polled. A stream transfer that may start
is marked started; an IN transfer asks for the host's data and changes no memory; an OUT transfer, where no read
waits, is sent whole. A started transfer whose reads have all been answered, with no record waiting in its area,
leaves the outstanding work, and its area counts one more record written. Polling an enabled area in host memory marks
it busy and asks for its header; an area in device memory in which nothing new is posted keeps its count and its work.
It concludes that these forms complete: intakePoll, streamTransfer, streamTransferDone. -/
def Obligations.StreamsAndIntake : Prop :=
  ∀ s : State,
    (∀ sub u k rd, subOf s sub = some u → u.kind = 2 → u.started = false → u.fin = none → mayStart s u = true →
      ready s = true → canIssue s = true → streamOf s u.obj = some k →
      (k.out = false → k.size ≠ 0 → Completes (.streamTransfer sub rd) s fun t =>
        subOf t sub = some { u with started := true, reserved := true } ∧ SameMemory s t
          ∧ (t.pcie.reads.any (fun r => r.why == .stream sub) = true
            ∨ t.pcie.waiting.any (fun r => r.why == .stream sub) = true))
      ∧ (k.out = true → Waits (fun s => (cutRange 128 (k.size / 128 + 1) (k.dev + u.arg * k.size) k.size).foldl
          (sendLine sub (k.dev + u.arg * k.size) (k.host + u.arg * k.size) rd) (startSub sub s)) s = false →
        Completes (.streamTransfer sub rd) s fun t =>
        ∃ v, subOf t sub = some v ∧ v.started = true ∧ v.reserved = true))
    ∧ (∀ sub u c, subOf s sub = some u → u.kind = 2 → u.started = true → u.fin = none → u.reserved = true →
      transferReads s sub = false → complOf s u.compl = some c → c.order = [] → Completes (.streamTransferDone sub) s fun t =>
        subOf t sub = none
          ∧ complOf t u.compl = some { c with written := (c.written + 1) % 2 ^ 32, reserved := c.reserved - 1 })
    ∧ (∀ a k rd, intakeOf s a = some k → k.enabled = true → ready s = true → k.busy = false → intakeStopped s = false →
      (k.device = false → Completes (.intakePoll a rd) s fun t =>
        intakeOf t a = some { k with busy := true } ∧ SameMemory s t ∧ t.sched = s.sched
          ∧ (t.pcie.reads.any (fun r => r.why == .intakeHeader a) = true
            ∨ t.pcie.waiting.any (fun r => r.why == .intakeHeader a) = true))
      ∧ (∀ h, k.device = true → isLocal s k.base = true → podRead .module k.base 8 rd { s with waits := false } = h →
        waited s h.1 = false → h.2.reason = 0 → h.2.poison = false →
        countOf k.host (field h.2.data 0 8) = k.taken → k.taken < 2 ^ 32 → Completes (.intakePoll a rd) s fun t =>
          intakeOf t a = some { k with host := k.taken } ∧ t.sched = s.sched))

/-- The pod record, the routes, and the relay of commands between the head and its members. POD_CONFIG that breaks no
rule stores the record, with its windows in effect at once and the rest as before. ROUTE_SET of one entry writes it,
into what is stored too, and leaves the other entries. POD_SEND sends the command to the member and stays in progress.
A relayed command whose numbers are right, with nothing that answers it at once, waits among the accepted ones under
its origin. The member's answer completes POD_SEND with OK. It concludes that these forms complete: podConfig,
podSend, routeSet, relayCmd, relayRsp. -/
def Obligations.PodCommands : Prop :=
  ∀ s : State,
    (∀ o pl, Passes s o 0x0090 checkPodConfig pl → Completes (.podConfig o) s fun t =>
      t.pod.stored.id = field pl 0 4 ∧ t.pod.stored.device = field pl 4 1 ∧ t.pod.stored.head = field pl 5 1
        ∧ t.pod.stored.members = field pl 8 8 ∧ t.pod.stored.windows.length = field pl 6 1
        ∧ t.pod.eff = { s.pod.eff with windows := t.pod.stored.windows } ∧ t.pod.routes = s.pod.routes
        ∧ Answered o 1 0 { s with pod := { s.pod with stored := t.pod.stored, eff := t.pod.eff } } t)
    ∧ (∀ o pl, Passes s o 0x0092 checkRouteSet pl → field pl 0 1 = 1 → Completes (.routeSet o) s fun t =>
        Tab.get {} t.pod.routes (field (routeBytes pl 0) 0 1) = readRoute (routeBytes pl 0)
          ∧ Tab.get {} t.pod.saved (field (routeBytes pl 0) 0 1) = readRoute (routeBytes pl 0)
          ∧ (∀ d, d ≠ field (routeBytes pl 0) 0 1 → Tab.get {} t.pod.routes d = Tab.get {} s.pod.routes d)
          ∧ t.mail.accepted = (s.mail.accepted.filter fun a => !(a.origin == o)) ∧ SameMemory s t)
    ∧ (∀ o pl, Passes s o 0x0091 checkPodSend pl → Completes (.podSend o) s fun t =>
        t.mail = (begin' o s).mail ∧ SameMemory s t ∧ ∃ r, t.pod.reqs = s.pod.reqs ++ [r] ∧ r.dst = field pl 0 1
          ∧ r.why = .relay o s.pod.mseq ∧ r.type = 6)
    ∧ (∀ m, nextMail s 2 = some m → (s.mail.accepted.any fun a => a.origin == .relay m.src m.seq) = false →
      field m.payload 2 2 = field m.payload 8 4 % 2 ^ 16 → receive s (field m.payload 4 2) (field m.payload 12 2)
        (slice m.payload 64 (min (field m.payload 12 2) 4032)) = none → Completes .relayCmd s fun t =>
        t.pod.mbox = s.pod.mbox.erase m ∧ SameMemory s t ∧ ∃ a, t.mail.accepted = s.mail.accepted ++ [a]
          ∧ a.origin = .relay m.src m.seq ∧ a.cmd = field m.payload 4 2 ∧ a.seq = field m.payload 8 4 ∧ a.started = false)
    ∧ (∀ m r n, nextMail s 3 = some m → s.pod.reqs = [r] → r.dst = m.src → r.why = .relay (.slot n) m.seq →
      Completes .relayRsp s fun t => (∀ a ∈ t.mail.accepted, a.origin ≠ .slot n) ∧ SameMemory s t
        ∧ t.pod.mbox = s.pod.mbox.erase m ∧ t.obj = s.obj)

/-- Models, sequences and their pages are entered, extended and freed, and frames are exchanged between modules. Where
a command reads memory first, what follows is said of the state after its reads, where none of them waits. MODEL_LOAD
with no homed matrix, shape or append registers its matrices under its number; with homed matrices, where no access of
its packing waits, it completes and answers. MODEL_EVICT removes a model that no work names. SEQ_CREATE without a
parent enters a sequence of the model's pool under the free number. SEQ_EXTEND to a capacity already held changes
nothing but its answer; with frames and tables free it takes the frames and leaves. SEQ_FREE removes the sequence. A
FRAME_REQ of a shape with no pool changes no object; a FRAME_RSP that nobody awaits changes nothing but the queue;
FRAME_FREE takes back exactly what was granted. It concludes that these forms complete: modelLoad, modelEvict,
seqCreate, seqExtend, seqFree, frameReq, frameRsp, frameFree. -/
def Obligations.ModelsAndSequences : Prop :=
  ∀ s : State,
    (∀ o pl rd, Passes s o 0x0020 checkModelLoad pl → field pl 0 2 < 4096 → dget pl 16 1 = 0 → dget pl 17 1 = 0 →
      (∀ i, i < field pl 3 1 → dget (matRecord pl i) 252 1 = 0) → Completes (.modelLoad o rd) s fun t =>
        obj t.obj.models (field pl 0 2) = some ⟨(List.range (field pl 3 1)).map fun i => recMatrix (matRecord pl i), none⟩
          ∧ (∀ k, k ≠ field pl 0 2 → obj t.obj.models k = obj s.obj.models k) ∧ Answered o 1 0 { s with obj := t.obj } t)
    ∧ (∀ o pl rd, Passes s o 0x0020 checkModelLoad pl → Waits (runModelLoad o rd pl) s = false →
      Completes (.modelLoad o rd) s fun t => ∃ u status reason, (status = 1 ∨ status = 3) ∧ Answered o status reason u t
        ∧ u.power = s.power ∧ (s.pod.reqs = [] → u.mail = s.mail))
    ∧ (∀ o pl m v, ReadsPass s o 0x0021 (fun _ s => liveReads s) [] checkModelEvict pl v →
      obj v.obj.models (field pl 0 2) = some m → m.pool = none → Completes (.modelEvict o) s fun t =>
        t.obj = { v.obj with models := setObj v.obj.models (field pl 0 2) none }
          ∧ Answered o 1 0 { v with obj := t.obj, waits := s.waits } t)
    ∧ (∀ o pl m pi k id v, ReadsPass s o 0x0050 createReads [] checkSeqCreate pl v →
      obj v.obj.models (field pl 0 2) = some m → m.pool = some pi →
      obj v.obj.pools pi = some k → firstFree 65536 (fun i => (obj v.obj.seqs i).isSome) = some id →
      bitB (field pl 3 1) 0 = false → Completes (.seqCreate o) s fun t =>
        (∃ q, obj t.obj.seqs id = some q ∧ q.pool = pi ∧ q.leaves = []) ∧ (∀ i, i ≠ id → obj t.obj.seqs i = obj v.obj.seqs i)
          ∧ t.obj.homeNext = (v.obj.homeNext + 1) % 256
          ∧ ∃ u, Accessed { v with obj := t.obj } u ∧ Answered o 1 0 u t)
    ∧ (∀ o pl q v, ReadsPass s o 0x0051 extendReads [] checkSeqExtend pl v → obj v.obj.seqs (field pl 0 2) = some q →
      (field pl 4 4 ≤ seqCapacity v q → Completes (.seqExtend o) s (Answered o 1 0 { v with waits := s.waits }))
      ∧ (∀ k f k' leaves, seqCapacity v q < field pl 4 4 → obj v.obj.pools q.pool = some k → field pl 8 1 ≠ 3 →
        takeFrames v (fun _ => true) (field pl 8 1) (((List.range (field pl 4 4 - seqCapacity v q)).map
            (· + seqCapacity v q)).map fun p => seqHome0 v q + p / 2 ^ seqChunkLog v q) k = some f →
        takeBlocks (leavesFor q (field pl 4 4)) f.1 = some (k', leaves) → Completes (.seqExtend o) s fun t =>
          obj t.obj.seqs (field pl 0 2) = some { q with leaves := q.leaves ++ leaves } ∧ obj t.obj.pools q.pool = some k'
            ∧ ∃ u, Accessed { v with obj := t.obj } u ∧ Answered o 1 0 u t))
    ∧ (∀ o pl q rd v, ReadsPass s o 0x0052 (freeReads rd) rd (checkSeqFree rd) pl v →
      obj v.obj.seqs (field pl 0 2) = some q → Completes (.seqFree o rd) s fun t => obj t.obj.seqs (field pl 0 2) = none
        ∧ (∀ i, i ≠ field pl 0 2 → obj t.obj.seqs i = obj v.obj.seqs i)
        ∧ t.mail.accepted = v.mail.accepted.filter fun a => !(a.origin == o))
    ∧ (∀ m, nextMail s 4 = some m → poolOf s (shapeOf (field m.payload 0 8)) = none → Completes .frameReq s fun t =>
        t.obj = s.obj ∧ t.pod.mbox = s.pod.mbox.erase m ∧ SameMemory s t)
    ∧ (∀ m, nextMail s 5 = some m → s.obj.extending = [] →
      exec .frameRsp s = .next { s with pod := { s.pod with mbox := s.pod.mbox.erase m } })
    ∧ (∀ m, nextMail s 7 = some m → Completes .frameFree s fun t =>
        t.pod.mbox = s.pod.mbox.erase m ∧ SameMemory s t ∧ ∀ i p, obj s.obj.pools i = some p → ∃ p', obj t.obj.pools i = some p'
          ∧ p'.shape = p.shape ∧ p'.regions = p.regions ∧ ∀ a ∈ p'.granted, a ∈ p.granted)

/-- Tasks are defined, enabled, submitted to and aborted, and a gather window closes. Where a command reads memory
first, what follows is said of the state after its reads, where none of them waits. TASK_DEFINE that breaks no rule
enters the task disabled under its number, or under the lowest free one for FFFFH. TASK_ENABLE sets the enable of its
task; disabling closes the task's window. TASK_SUBMIT adds one work entry under the next number, in a window or a
ready batch of its task. A gather timer's expiry makes the task's window a batch that keeps accepting. TASK_ABORT
takes every waiting submission that it names out of the task's windows and batches; naming a running batch it stays in
progress, and a running tile program stops. It concludes that these forms complete: taskDefine, taskEnable,
taskSubmit, gatherTimerExpiry, taskAbort. -/
def Obligations.TasksAndSubmissions : Prop :=
  ∀ (s : State) (o : Origin) (pl : Bytes) (rd : Remote),
    (Passes s o 0x0030 checkTaskDefine pl → Completes (.taskDefine o) s fun t => ∃ id k,
        (field pl 0 2 ≠ 0xFFFF → id = field pl 0 2)
        ∧ (field pl 0 2 = 0xFFFF → firstFree 8192 (fun i => (taskOf s i).isSome) = some id)
        ∧ t.obj = { s.obj with tasks := setObj s.obj.tasks id (some k) } ∧ k.descs = field pl 16 8 ∧ k.count = field pl 4 2
        ∧ k.gather = (dget pl 16 1 == 1) ∧ k.rows = (if field pl 6 1 = 0 then 64 else field pl 6 1)
        ∧ k.timerUs = (if field pl 8 4 = 0 then 20 else field pl 8 4) ∧ k.prio = field pl 3 1 ∧ k.enabled = false
        ∧ Answered o 1 0 { s with obj := t.obj } t)
    ∧ (∀ v, ReadsPass s o 0x0031 enableReads rd (checkTaskEnable rd) pl v → Completes (.taskEnable o rd) s fun t =>
        t.obj.tasks = setObj v.obj.tasks (field pl 0 2)
            ((taskOf v (field pl 0 2)).map fun k => { k with enabled := field pl 2 1 == 1 })
          ∧ t.obj = { v.obj with tasks := t.obj.tasks }
          ∧ (field pl 2 1 = 1 → t.sched = v.sched)
          ∧ (field pl 2 1 = 0 → ∀ w ∈ t.sched.windows, w.task ≠ field pl 0 2)
          ∧ Answered o 1 0 { v with waits := s.waits, obj := t.obj, sched := t.sched } t)
    ∧ (∀ k v, ReadsPass s o 0x0032 submitReads rd (checkTaskSubmit rd) pl v → taskOf v (subObj (slice pl 0 64)) = some k →
      Completes (.taskSubmit o rd) s fun t => ∃ u, t.sched.subs = v.sched.subs ++ [u] ∧ u.id = v.sched.nextId ∧ u.kind = 1
        ∧ u.obj = subObj (slice pl 0 64) ∧ u.tag = subTag (slice pl 0 64) ∧ u.compl = subCompl (slice pl 0 64)
        ∧ u.started = false ∧ t.sched.nextId = v.sched.nextId + 1
        ∧ ((∃ w ∈ t.sched.windows, w.task = u.obj ∧ u.id ∈ w.subs) ∨ ∃ b ∈ t.sched.ready, b.task = u.obj ∧ u.id ∈ b.subs)
        ∧ Answered o 1 0 { v with waits := s.waits, sched := t.sched } t)
    ∧ (∀ task w, s.sched.windows.find? (fun w => w.task == task) = some w → Completes (.gatherTimerExpiry task) s fun t =>
        t.sched = { s.sched with windows := s.sched.windows.filter (fun w => w.task != task)
                                 ready := s.sched.ready ++ [⟨task, w.subs, true⟩] }
          ∧ Reports { s with sched := t.sched } t)
    ∧ (Passes s o 0x0033 checkTaskAbort pl → Completes (.taskAbort o) s fun t =>
        (∀ w ∈ t.sched.windows, w.task = field pl 0 2 → ∀ id ∈ w.subs, abortHits s pl id = false)
          ∧ (∀ b ∈ t.sched.ready, b.task = field pl 0 2 → ∀ id ∈ b.subs, abortHits s pl id = false)
          ∧ t.sched.op = s.sched.op)
    ∧ (∀ r op, Passes s o 0x0033 checkTaskAbort pl → s.sched.running = [r] → r.task = field pl 0 2 → r.cls = none →
      r.abort = none → r.subs.any (abortHits s pl) = true → s.sched.op = some op → Completes (.taskAbort o) s fun t =>
        t.mail = (begin' o s).mail ∧ (∃ n, t.sched.running = [{ r with abort := some (o, n) }])
          ∧ (dOp op.desc = 4 → ∀ k, (tileOf t k).state ≠ .running ∧ (tileOf t k).state ≠ .atSync))

/-- Operations are dispatched, pass their barriers, lose a tile to a residue mismatch, and end. Every clause is said
where none of the command's accesses waits, and otherwise the command has not happened. With work in progress and no
operation, DISPATCH_OPERATION reads its next descriptor: one that breaks no rule becomes the operation in progress, in
its first phase over the included tiles, with the array started; one that breaks a rule ends the work. A barrier moves
an ATTENTION to the merge tree's next level, releases every tile that waits at SYNC, or takes a K-split to its next
phase, the partials of every tile computed with the first. A residue mismatch spoils what the tile has given and
excludes it; a tile whose program has written nothing leaves memory alone. A page walked in its turn counts its chunk
on by one. A finished operation with no access outstanding writes its results and its tiles' lines; with its fence
ended the array is left without one, its activity as it was until the ramp, and else it waits with its result kept. A
NOP moves its work to the next descriptor. It concludes that these forms complete: dispatchOperation, operationEnd,
arrayBarrierRelease, arrayResidue, pageWalk. -/
def Obligations.OperationsRunByPhases : Prop :=
  ∀ (s : State) (rd : Remote),
    (∀ r k t0 d u, s.power.phase = .up → s.sched.op = none → s.thermal.hold = false → s.mesh.hold = false →
      nextWork { s with waits := false } = some (r, true) → taskOf s r.task = some t0 →
      podRead .module (t0.descs + 128 * r.next) 128 rd (takeWork r true { s with waits := false }) = k →
      d = slice k.2.data 0 128 → readAhead (if dOp d = 3 then [(dExtBase d, 128)] else []) rd k.1 = u → waited s u = false →
      (dispatchReason u k.2 rd = 0 → dOp d ≠ 3 → dOp d ≠ 4 → Completes (.dispatchOperation rd) s fun t =>
        ∃ op, t.sched.op = some op ∧ op.desc = d ∧ op.task = r.task ∧ op.phase = 1 ∧ op.residue = [] ∧ op.error = none
          ∧ op.tiles = included u ∧ t.sched.lastTag = dTag d ∧ t.sched.running = u.sched.running
          ∧ t.pace = u.pace.startArray)
      ∧ (dispatchReason u k.2 rd ≠ 0 → Completes (.dispatchOperation rd) s fun t =>
        t.sched.op = u.sched.op ∧ ∀ x ∈ t.sched.running, ¬(x.subs = r.subs ∧ x.cls = r.cls)))
    ∧ (∀ op, s.sched.op = some op → s.thermal.hold = false →
      (∀ order a, dOp op.desc = 3 → op.att = some a → itemsDone a = true → a.level < treeLevels a →
        exec (.arrayBarrierRelease order rd) s = .next { arrayBarrier op s with sched := { s.sched with
          op := some { op with att := some (mergeNext op.residue a) } } })
      ∧ (∀ order, dOp op.desc = 4 → syncDone s op = true → Completes (.arrayBarrierRelease order rd) s fun t =>
        (∀ i, tileOf t i = { tileOf s i with state := if (tileOf s i).state = .atSync then .running else (tileOf s i).state })
          ∧ t = { releaseBarrier s with tiles := { s.tiles with tile := t.tiles.tile } })
      ∧ (∀ order, dOp op.desc = 1 ∨ dOp op.desc = 2 → isSplit op = true → 1 ≤ op.phase → op.phase ≤ 3 →
        (op.phase = 1 → Waits (fun s => (storePartials { op with sums := (computePartials op s.pace.red rd s).2 } s.pace.red rd
          (arrayBarrier op (computePartials op s.pace.red rd s).1)).1) s = false) →
        (op.phase = 2 → Waits (fun s => (addPartials op s.pace.red
          (arrivalOrder s op (partialAdds op s.pace.red order)) rd (arrayBarrier op s)).1) s = false) →
        Completes (.arrayBarrierRelease order rd) s fun t => ∃ op', t.sched.op = some op' ∧ op'.phase = op.phase + 1
          ∧ op'.desc = op.desc ∧ op'.plan = op.plan ∧ op'.tiles = op.tiles
          ∧ op'.sums = if op.phase = 1 then (computePartials op s.pace.red rd { s with waits := false }).2 else op.sums))
    ∧ (∀ op tile unit, s.sched.op = some op → op.tiles.any (fun x => x.1 == tile) = true → op.residue.contains tile = false →
      unit < 132 → dOp op.desc ≠ 0 → op.ended = none → Completes (.arrayResidue tile unit) s fun t =>
        t.sched = { s.sched with op := some (spoilResults tile { op with residue := op.residue ++ [tile] }) }
          ∧ (s.power.phase = .up → t.ev.degraded = true)
          ∧ (Tab.get {} t.tiles.stat tile).width = 0 ∧ (Tab.get {} t.tiles.stat tile).excluded = true
          ∧ (∀ i, i ≠ tile → Tab.get {} t.tiles.stat i = Tab.get {} s.tiles.stat i)
          ∧ ((tileOf s tile).wrote = [] → SameMemory s t))
    ∧ (∀ op a e h entry chunk, s.sched.op = some op → op.att = some a → a.entries.find? (fun e => e.index == entry) = some e →
      e.shape = some h → s.thermal.hold = false → e.poison = false → (workItems a.param e).contains chunk = true →
      Tab.get 0 e.walked chunk < (chunkPages e chunk).2 → itemBefore a e chunk (itemTile s a e chunk) = false →
      Waits (fun s => (walkNext op a e h chunk (itemTile s a e chunk) rd s).1) s = false →
      Completes (.pageWalk entry chunk ((chunkPages e chunk).1 + Tab.get 0 e.walked chunk) rd) s fun t =>
        ∃ op' a' e', t.sched.op = some op' ∧ op'.att = some a' ∧ a'.entries.find? (fun e => e.index == entry) = some e'
          ∧ Tab.get 0 e'.walked chunk = Tab.get 0 e.walked chunk + 1
          ∧ (∀ x ∈ a.entries, x.index ≠ entry → x ∈ a'.entries) ∧ a'.level = a.level ∧ op'.desc = op.desc)
    ∧ (∀ op r rest w, s.sched.op = some op → s.sched.running = r :: rest → s.thermal.hold = false → opDone s op = true →
      (op.ended = none → opUnacked s op = false) → writeResult op rd { s with waits := false } = w → waited s w.1 = false →
      (opFencing w.1 op = false → Completes (.operationEnd rd) s fun t => t.sched.op = none
        ∧ t.pace.active = s.pace.active ∧ t.pace.ramp = 0 ∧ t.pace.actLevel = s.pace.actLevel)
      ∧ (opFencing w.1 op = true → exec (.operationEnd rd) s =
        .next { setOp (fun op => { op with ended := some w.2 }) w.1 with waits := s.waits }))
    ∧ (∀ op r rest k w, s.sched.op = some op → s.sched.running = r :: rest → s.thermal.hold = false → dOp op.desc = 0 →
      op.error = none → op.ended = none → r.entries = [] → r.abort = none → taskOf s op.task = some k → r.next + 1 < k.count →
      opUnacked s op = false → flushAllL1 { s with waits := false } = w → waited s w = false → opFencing w op = false →
      Completes (.operationEnd rd) s fun t => t.sched.op = none ∧ t.sched.running = { r with next := r.next + 1 } :: rest)

/-- Lasts are registered and removed; firmware is staged, verified, committed; quotes and the ledger. Where a command
reads memory first, what follows is said of the state after its reads, where none of them waits. A Last that breaks no
rule is registered under the lowest free number, and unloading empties its place. With no firmware command left to end
after an FLR, FW_STAGE appends a chunk from device memory and asks the host for one in host memory; with DISCARD
nothing is staged. FW_VERIFY enters the verified step or discards under the first reason of R463. FW_COMMIT selects
the staged image, with a reset when asked, or discards it when its slot no longer holds it. ATTEST stores a quote of
the stated length, and waits for the writes that it needs in another module. LEDGER_READ leaves the ledger and stores
its entries likewise, and its clear form empties it under the next generation. It concludes that these forms complete:
setNetworkModeLoad, setNetworkModeUnload, fwStage, fwVerify, fwCommit, attest, ledgerRead, ledgerClear. -/
def Obligations.LastsAndFirmware : Prop :=
  ∀ (s : State) (o : Origin) (pl : Bytes) (rd : Remote),
    (∀ k v, ReadsPass s o 0x0011 (lastReads rd) rd (checkLastLoad rd) pl v → field pl 0 1 = 1 →
      readLast (field pl 8 8) rd v = k → readFail k = [] → Completes (.setNetworkModeLoad o rd) s fun t =>
        ∃ id, firstFree 8 (fun i => (obj v.obj.lasts i).isSome) = some id
        ∧ t.obj = { v.obj with lasts := setObj v.obj.lasts id (some
            { addr := field pl 8 8, slots := lastSlots k.data, flows := lastFlows k.data, tag := lastTag k.data
              fp := lastPrint k.data, len := lastLen k.data, image := k.data }) })
    ∧ (Passes s o 0x0011 checkLastUnload pl → field pl 0 1 = 2 → Completes (.setNetworkModeUnload o) s fun t =>
        t.obj = { s.obj with lasts := setObj s.obj.lasts (field pl 2 1) none } ∧ Answered o 1 0 { s with obj := t.obj } t)
    ∧ (s.fw.ending = 0 → Passes s o 0x00A0 checkFwStage pl →
      (stageDiscard pl = true → Completes (.fwStage o rd) s fun t =>
        t.fw = s.fw.discard ∧ Answered o 1 0 { s with fw := t.fw } t)
      ∧ (∀ u r, stageDiscard pl = false → field pl 8 1 = 0 → (if stageOffset pl = 0 then { s with fw := s.fw.start } else s) = u →
        podRead .module (field pl 0 8) (stageLen pl) rd { u with waits := false } = r → waited s r.1 = false →
        r.2.reason = 0 → r.2.poison = false → Completes (.fwStage o rd) s fun t =>
          t.fw = { r.1.fw with staged := r.1.fw.staged ++ slice r.2.data 0 (stageLen pl), chunk := []
                               step := if stageLast pl then 2 else r.1.fw.step }
            ∧ Answered o 1 0 { r.1 with waits := s.waits, fw := t.fw } t)
      ∧ (stageDiscard pl = false → field pl 8 1 = 1 → Completes (.fwStage o rd) s fun t =>
        t.mail = (begin' o s).mail ∧ SameMemory s t ∧ (stageOffset pl = 0 → t.fw.step = 1 ∧ t.fw.staged = [])
          ∧ (t.pcie.reads.any (fun r => r.why == .fwChunk o) = true ∨ t.pcie.waiting.any (fun r => r.why == .fwChunk o) = true)))
    ∧ (s.fw.ending = 0 → Passes s o 0x00A1 checkFwVerify pl →
      (imageFault s.fw.rollback s.fw.staged s.fw.staged.length = 0 → Completes (.fwVerify o) s fun t =>
        t.fw = { s.fw with step := 3, stagedVer := field s.fw.staged 8 4 } ∧ Answered o 1 0 { s with fw := t.fw } t)
      ∧ (imageFault s.fw.rollback s.fw.staged s.fw.staged.length ≠ 0 → Completes (.fwVerify o) s fun t =>
        t.fw = s.fw.discard
          ∧ Answered o 3 (imageFault s.fw.rollback s.fw.staged s.fw.staged.length) { s with fw := t.fw } t))
    ∧ (s.fw.ending = 0 → Passes s o 0x00A2 checkFwCommit pl →
      (Completes (.fwCommit o false) s fun t => t.fw = s.fw.discard ∧ Answered o 3 0x0401 { s with fw := t.fw } t)
      ∧ (bitB (field pl 0 1) 0 = false → Completes (.fwCommit o true) s fun t =>
        t.fw = s.fw.commit (fwActive s) ∧ t.fw.sel.trial = true ∧ t.fw.sel.gen = s.fw.sel.gen + 1 ∧ t.fw.step = 4
          ∧ Answered o 1 0 { s with fw := t.fw } t)
      ∧ (bitB (field pl 0 1) 0 = true → s.power.phase = .up → Completes (.fwCommit o true) s (BringupBegun 3 s)))
    ∧ (Passes s o 0x00A3 checkAttest pl → (quote (slice pl 0 64) s).length = quoteLen s
      ∧ (∀ r, isLocal s (field pl 64 8) = true →
        writeRange .module (podOffset (field pl 64 8)) ((quote (slice pl 0 64) s).map some) false s = r →
        Completes (.attest o) s fun t => t.fw = s.fw ∧ Answered o (if r.2 = .ok then 1 else 3) (accessReason r.2) r.1 t)
      ∧ (isLocal s (field pl 64 8) = false → routePorts s (podDevice (field pl 64 8)) = [] →
        Completes (.attest o) s (Answered o 3 0x0601 s))
      ∧ (isLocal s (field pl 64 8) = false → routePorts s (podDevice (field pl 64 8)) ≠ [] → Completes (.attest o) s fun t =>
        t.mail = (begin' o s).mail ∧ SameMemory s t ∧ t.fw = s.fw
          ∧ ∃ r ∈ t.pod.reqs, r.type = 2 ∧ r.dst = podDevice (field pl 64 8) ∧ r.why = .store o (natLE 4 (quoteLen s))))
    ∧ (Passes s o 0x00A4 checkLedgerRead pl → Completes (.ledgerRead o) s fun t => t.bring.ledger = s.bring.ledger
        ∧ (ledgerPart pl s = [] → Answered o 1 0 s t)
        ∧ (∀ r, ledgerPart pl s ≠ [] → isLocal s (field pl 16 8) = true → writeRange .module (podOffset (field pl 16 8))
            (((ledgerPart pl s).map LedgerEntry.bytes).flatten.map some) false s = r →
          Answered o (if r.2 = .ok then 1 else 3) (accessReason r.2) r.1 t)
        ∧ (ledgerPart pl s ≠ [] → isLocal s (field pl 16 8) = false → routePorts s (podDevice (field pl 16 8)) = [] →
          Answered o 3 0x0601 s t)
        ∧ (ledgerPart pl s ≠ [] → isLocal s (field pl 16 8) = false → routePorts s (podDevice (field pl 16 8)) ≠ [] →
          t.mail = (begin' o s).mail ∧ SameMemory s t))
    ∧ (∀ v, ReadsPass s o 0x00A4 tokenReads rd (checkLedgerClear rd) pl v → field pl 0 1 = 1 →
      Completes (.ledgerClear o rd) s fun t =>
        t.bring = { v.bring with ledger := [], clearGen := (v.bring.clearGen + 1) % 2 ^ 32
                                 oldCopy := v.bring.ledger, oldGen := v.bring.clearGen }
          ∧ Answered o 1 0 { v with waits := s.waits, bring := t.bring } t)

/-- Sensor readings, suspicions and clearings, and the thermal governor's tick with THERMAL_HOLD. A sample enters its
readings and every group's temperature by the rules of R425 to R427; with every group below its shutdown threshold the
power state stays. A disagreeing hot-spot pair is flagged and reads the higher. A tier that reads more than 8 degrees
below its estimate, its neighbours agreeing with theirs, is taken 5 degrees above the estimate and refreshed in the
band forced. A Warning or Throttle condition that has fallen clears. The tick enters THERMAL_HOLD with a safety
ramp-down when a prediction comes within 3 degrees of a shutdown threshold, publishes the time to shutdown in it, and
else lowers a hot spot's rail when its prediction is above target. THERMAL_CFG stores its limits; a report changes
nothing but reporting. It concludes that these forms complete: thermalCfg, sensorSample, thresholdClear,
sensorDisagree, thermalModelTick, tierSensorSuspect, thermalReport. -/
def Obligations.SensorsAndThermalGovernor : Prop :=
  ∀ s : State, s.power.standby = true →
    (∀ rs u, rs.foldl takeReading s = u → Completes (.sensorSample rs) s fun t =>
      t.thermal.reading = u.thermal.reading ∧ (∀ g, g < 52 → groupTemp t g = judgeGroup u g)
        ∧ ((∀ g, g < 52 → judgeGroup u g < shutdownAt g) → t.power = s.power))
    ∧ (∀ h a b, h < 32 → Tab.get false s.thermal.flagged h = false → Tab.get 0 s.thermal.reading (2 * h) = a →
      Tab.get 0 s.thermal.reading (2 * h + 1) = b → b + 6000 < a ∨ a + 6000 < b → Completes (.sensorDisagree h) s fun t =>
        t.thermal = { s.thermal with flagged := Tab.set false s.thermal.flagged h true
                                     temp := Tab.set 0 s.thermal.temp h (max a b) }
          ∧ Reports { s with thermal := t.thermal } t)
    ∧ (∀ m e, s.power.coreRails = true → 1 ≤ m → m ≤ 8 → Tab.get false s.thermal.suspect (m - 1) = false → groupTemp s (31 + m) + 8000 < e →
      neighboursAgree s (m - 1) = true → Completes (.tierSensorSuspect m e) s fun t =>
        groupTemp t (31 + m) = e + 5000 ∧ Tab.get false t.thermal.suspect (m - 1) = true
          ∧ (tierOf t (m - 1)).band = 2 ∧ (tierOf t (m - 1)).forced = true
          ∧ Reports { s with thermal := t.thermal, stack := t.stack } t ∧ SameMemory s t)
    ∧ (∀ g n, groupIndex g = some n →
      (Tab.get false s.thermal.warn n = true → groupTemp s n ≤ warnAt n - 5000 → Completes (.thresholdClear g false) s fun t =>
        t.thermal = { s.thermal with warn := Tab.set false s.thermal.warn n false }
          ∧ Reports { s with thermal := t.thermal } t)
      ∧ (Tab.get false s.thermal.throttle n = true → heldOf s n = {} → groupTemp s n ≤ throttleAt n - 5000 →
        Completes (.thresholdClear g true) s fun t =>
          t.thermal = { s.thermal with throttle := Tab.set false s.thermal.throttle n false, throtLog := t.thermal.throtLog }
            ∧ Reports { s with thermal := t.thermal } t))
    ∧ (∀ ps ms u, s.power.coreRails = true → ps.foldl takePrediction s = u →
      (s.thermal.hold = false → (∀ g, g < 52 → aheadOf u g < shutdownAt g - 3000) →
        Completes (.thermalModelTick ps ms) s fun t => t.thermal.hold = false ∧ t.power = s.power ∧ t.pace.emerg = s.pace.emerg
          ∧ SameMemory s t)
      ∧ (s.thermal.hold = false → (∃ g, g < 52 ∧ shutdownAt g - 3000 ≤ aheadOf u g) →
        Completes (.thermalModelTick ps ms) s fun t => t.thermal.hold = true ∧ t.thermal.holdLoss = false
          ∧ t.thermal.tts = ttsOf ms ∧ t.pace.emerg = true ∧ t.pace.ballast = false ∧ SameMemory s t)
      ∧ (s.thermal.hold = true → s.coolant.loss = true → Completes (.thermalModelTick ps ms) s fun t =>
        t.thermal.hold = true ∧ t.thermal.tts = ttsOf ms ∧ SameMemory s t)
      ∧ (∀ g, g < 32 → s.thermal.hold = false → throttleAt g < aheadOf u g → (heldOf s g).rail < railRoom s g →
        Completes (.thermalModelTick ps ms) s fun t =>
          (heldOf t g).rail = railStep (heldOf s g).rail (coreOff s (g / 2)) (railRoom s g)))
    ∧ (∀ o pl, Passes s o 0x00C0 checkThermalCfg pl → Completes (.thermalCfg o) s fun t =>
        t.thermal = { s.thermal with nBase := field pl 0 1, nTier := field pl 1 1, reportMs := field pl 4 4
                                     noticed := t.thermal.noticed }
          ∧ Answered o 1 0 { s with thermal := t.thermal } t)
    ∧ (s.thermal.reportMs ≠ 0 → s.power.coreRails = true → Completes .thermalReport s (Reports s))

/-- Flow samples and the flow cap, pump and valve, the coolant Warning and COOLANT_LOSS. A flow reading is entered
with its cap of 1200 W per L/min below 3.0 L/min; once the sensor has failed the estimate is entered, and a first
missing reading is the failure. Each cycle the controller sets pump demand, at most 100 % and 100 % in a Warning,
moves the share by at most one point, and notes the tachometer. PUMP_TACH_LOST is noted once. The Warning and
COOLANT_LOSS arise below their limits, raise the pump to 100 % and, on loss, hold the module with a safety ramp-down;
both clear above their limits. COOLANT_CFG stores its settings. It concludes that these forms complete: coolantCfg,
flowSample, coolantCycle, pumpTachLost, coolantWarning, coolantWarningClear, coolantLoss, coolantLossClear. -/
def Obligations.CoolantLoop : Prop :=
  ∀ s : State,
    (s.power.standby = true →
      (∀ f, failedSensor s 242 = false → Completes (.flowSample (some f)) s fun t =>
        t.coolant = { s.coolant with flow := f, hist := (f :: s.coolant.hist).take 10000, capOn := decide (f < 3000)
                                     capW := if f < 3000 then 1200 * f / 1000 else 0 }
          ∧ t = { s with coolant := t.coolant })
      ∧ (∀ r, failedSensor s 242 = true → exec (.flowSample r) s = .next (enterFlow (estimateFlow s) s))
      ∧ (failedSensor s 242 = false → Completes (.flowSample none) s fun t =>
        failedSensor t 242 = true ∧ t.coolant.flowEst = true ∧ t.coolant.sticky = true
          ∧ t.coolant.hist = [t.coolant.flow] ∧ t.power = s.power ∧ SameMemory s t))
    ∧ (coolantRuns s = true →
      (∀ hz, Completes (.coolantCycle hz) s fun t =>
        t = { s with coolant := { s.coolant with pump := t.coolant.pump, valve := t.coolant.valve, tach := hz } }
          ∧ t.coolant.pump ≤ 100 ∧ (s.coolant.pumpMin ≤ 100 → s.coolant.pumpMin ≤ t.coolant.pump)
          ∧ (coolantWarn s = true ∨ s.coolant.loss = true → t.coolant.pump = 100)
          ∧ t.coolant.valve ≤ s.coolant.valve + 1 ∧ s.coolant.valve ≤ t.coolant.valve + 1
          ∧ (s.coolant.loss = true → t.coolant.valve = s.coolant.valve))
      ∧ (s.coolant.tachLog = false → 30 ≤ s.coolant.pump → Completes .pumpTachLost s fun t =>
        t.coolant = { s.coolant with tachLog := true, tach := 0 } ∧ Reports { s with coolant := t.coolant } t)
      ∧ (coolantWarn s = false → s.coolant.flow < 3000 ∨ 40000 < s.coolant.inlet → Completes .coolantWarning s fun t =>
        t.coolant = { s.coolant with warning := true, pump := 100 } ∧ bitB t.tele.alert 1 = true
          ∧ Reports { s with coolant := t.coolant } t)
      ∧ (s.coolant.loss = false → s.coolant.flow < 400 → Completes .coolantLoss s fun t =>
        t.coolant = { s.coolant with loss := true, pump := 100 } ∧ t.thermal.hold = true ∧ t.thermal.holdLoss = true
          ∧ t.pace.emerg = true ∧ t.power = s.power ∧ SameMemory s t))
    ∧ (s.coolant.warning = true → s.coolant.sticky = false → 3200 ≤ s.coolant.flow → s.coolant.inlet ≤ 38000 →
      Completes .coolantWarningClear s fun t =>
        t.coolant = { s.coolant with warning := false } ∧ Reports { s with coolant := t.coolant } t)
    ∧ (s.coolant.loss = true → 2500 ≤ s.coolant.flow → Completes .coolantLossClear s fun t =>
        t.coolant = { s.coolant with loss := false } ∧ Reports { s with coolant := t.coolant } t)
    ∧ (∀ o pl, Passes s o 0x00C1 checkCoolantCfg pl → Completes (.coolantCfg o) s fun t =>
        t.coolant = { s.coolant with
            pumpMin := field pl 0 1, pump := max (field pl 0 1) s.coolant.pump, fixed := field pl 1 1 == 1
            share := if field pl 2 1 = 0 then s.coolant.share else field pl 2 1 }
          ∧ Answered o 1 0 { s with coolant := t.coolant } t)

/-- Tile programs: every instruction of Table 3.5 on its registers, its local buffer and memory, and its faults. For a
running tile of a TILE_PROGRAM at an instruction of the class: integer, vector and convert instructions write their
destination and pass on, control goes where the condition says, and a local-buffer access inside the buffer stores or
loads its bytes and leaves the others. A transfer ends past the instruction or in a fault; one that hits a held line
moves that line's bytes, or faults where they are poison. An add-to-line is the home's, and a refused one faults. A
fence writes the dirty lines back and drops every line, faults when one is refused, waits at the instruction while it
has not ended, and writes nothing for clean lines. A transfer, an add and a fence that would meet a line that waits
come again. SYNC waits at the barrier, its arrival on its way over the network, HALT ends, IDENT reads, and a reserved
opcode faults. A value the spec leaves open is free. It concludes that these forms complete: tileScalarInteger,
tileControl, tileLbScalar, tileVectorArith, tileVectorConvert, tileLbVector, tileMemoryTransfer, tileAddToLine, fence,
sync, tileIdent, tileHalt, tileReservedOpcode. -/
def Obligations.TilePrograms : Prop :=
  ∀ (s : State) (t w : Nat) (k : Tile) (rd : Remote), tileOf s t = k →
    (TileTurn s t 0x00 0x07 w → ∀ op form, Completes (.tileScalarInteger t op form) s
      (TileDone t (Tile.passed (k.putX (opRd w) (intOp 64 op (regX k.x (opRs1 w))
        (if form = .register then regX k.x (opRs2 w) else ofSigned 64 (opImm w)) (Config.freeWord s.fresh).toNat))) s))
    ∧ (TileTurn s t 0x08 0x0B w → ∀ op, ctlExists op = true → Completes (.tileControl t op) s
      (TileDone t (k.goes (control 64 op (regX k.x (opRs1 w)) (regX k.x (opRs2 w)) k.pc k.loops)) s))
    ∧ (TileTurn s t 0x0C 0x0F w → ∀ size sg, size = 8 ∨ size = 16 ∨ size = 32 ∨ size = 64 →
      (tileAddr s t w + size / 8 ≤ 2 ^ 21 →
        (Completes (.tileLbScalar t true size sg) s fun u => ∃ k', TileDone t k' s u ∧ k'.x = k.x ∧ k'.v = k.v
          ∧ k'.pc = k.passed.pc ∧ lbRead k' (tileAddr s t w) (size / 8) = natLE (size / 8) (regX k.x (opRd w))
          ∧ ∀ j, j < tileAddr s t w ∨ tileAddr s t w + size / 8 ≤ j → lbByte k' j = lbByte k j)
        ∧ Completes (.tileLbScalar t false size sg) s (TileDone t (Tile.passed (k.putX (opRd w)
          (if sg then ofSigned 64 (toSigned size (leNat (lbRead k (tileAddr s t w) (size / 8))))
            else leNat (lbRead k (tileAddr s t w) (size / 8))))) s))
      ∧ (2 ^ 21 < tileAddr s t w + size / 8 → ∀ st, Completes (.tileLbScalar t st size sg) s (TileFaulted t s)))
    ∧ (TileTurn s t 0x10 0x17 w →
      (∀ op ln, vecOpExists op ln = true → tileVecOp op = true →
        (∀ v, vecOp op ln (regV k.v (opRs1 w)) (regV k.v (opRs2 w)) (regV k.v (opRd w)) 0 = .vec v →
          Completes (.tileVectorArith t op ln) s (TileDone t (Tile.passed (k.putV (opRd w) v)) s))
        ∧ (∃ v, vecOp op ln (regV k.v (opRs1 w)) (regV k.v (opRs2 w)) (regV k.v (opRd w)) 0 = .vec v))
      ∧ (∀ f round sat, round ≤ 5 → laneFormat f = true → Completes (.tileVectorConvert t (.fromFp32 f) round sat) s
        (TileDone t (Tile.passed (k.putV (opRd w) (ofLanes ((lanes (regV k.v (opRs1 w))).zipIdx.map
          fun x => toFmt f (convRnd k w round sat x.2) x.1)))) s))
      ∧ (∀ f round sat, round ≤ 5 → laneFormat f = true → Completes (.tileVectorConvert t (.toFp32 f) round sat) s
        (TileDone t (Tile.passed (k.putV (opRd w) (ofLanes ((lanes (regV k.v (opRs1 w))).zipIdx.map
          fun x => fromFmt f (convRnd k w round sat x.2) (x.1 % 2 ^ elemBits f))))) s))
      ∧ (∀ op round sat, round ≤ 5 → op = .xfToFp32 ∨ op = .fp32ToXf → regX k.x (opRs1 w) + 128 ≤ 2 ^ 21 →
        Completes (.tileVectorConvert t op round sat) s fun u => ∃ k', TileDone t k' s u ∧ k'.pc = k.passed.pc ∧ k'.x = k.x)
      ∧ (∀ f fm round sat, round ≤ 5 → fmtOf f = some fm → isMx f = true → Completes (.tileVectorConvert t (.toMx f) round sat) s
        fun u => ∃ k', TileDone t k' s u ∧ k'.pc = k.passed.pc ∧ k'.x = k.x ∧ k'.lb = k.lb))
    ∧ (TileTurn s t 0x18 0x1B w → ∀ mode, (∀ a ∈ lbLanes k w mode, a + 4 ≤ 2 ^ 21) →
      Completes (.tileLbVector t false mode) s (TileDone t (Tile.passed (k.putV (opRd w) (ofLanes ((lbLanes k w mode).map fun a => leNat (lbRead k a 4))))) s)
      ∧ Completes (.tileLbVector t true mode) s fun u => ∃ k', TileDone t k' s u ∧ k'.x = k.x ∧ k'.v = k.v
          ∧ k'.pc = k.passed.pc)
    ∧ (TileTurn s t 0x1C 0x1F w →
      (∀ st len, regX k.x (opRd w) + len ≤ 2 ^ 21 →
        Waits (fun s => (moveLines t st (regX k.x (opRs1 w) % 2 ^ 54) (regX k.x (opRd w)) len rd (tally 1 t 11 1 s)).1) s = false →
        Completes (.tileMemoryTransfer t st len rd) s fun u =>
        ((tileOf u t).state = .faulted ∨ (tileOf u t).pc = k.passed.pc) ∧ ∀ i, i ≠ t → tileOf u i = tileOf s i)
      ∧ (∀ len l, 0 < len → regX k.x (opRd w) + len ≤ 2 ^ 21 → regX k.x (opRs1 w) % 2 ^ 54 % 128 + len ≤ 128 →
        l1Find k (regX k.x (opRs1 w) % 2 ^ 54 / 128 * 128) = some l →
        byteMask (regX k.x (opRs1 w) % 2 ^ 54 % 128) len &&& l.held = byteMask (regX k.x (opRs1 w) % 2 ^ 54 % 128) len →
        (∀ x ∈ k.l1, l1Set x.addr = l1Set l.addr → x.way = l.way → x.addr = l.addr) →
        (l.poison &&& byteSectors (byteMask (regX k.x (opRs1 w) % 2 ^ 54 % 128) len) = 0 →
          Completes (.tileMemoryTransfer t false len rd) s fun u => (tileOf u t).pc = k.passed.pc ∧ SameMemory s u
            ∧ lbRead (tileOf u t) (regX k.x (opRd w)) len = slice l.data (regX k.x (opRs1 w) % 2 ^ 54 % 128) len)
        ∧ (l.poison &&& byteSectors (byteMask (regX k.x (opRs1 w) % 2 ^ 54 % 128) len) ≠ 0 →
          Completes (.tileMemoryTransfer t false len rd) s (TileFaulted t s)))
      ∧ (∀ code mask q, regX k.x (opRd w) + 128 ≤ 2 ^ 21 → (addWidth code).isSome = true → tileBad s t = false →
        l1Find k (regX k.x (opRs1 w) % 2 ^ 54 / 128 * 128) = none → isLocal s (regX k.x (opRs1 w) % 2 ^ 54 / 128 * 128) = true →
        homeAdd (.tile t) (podOffset (regX k.x (opRs1 w) % 2 ^ 54 / 128 * 128)) code mask (lbRead k (regX k.x (opRd w)) 128)
          (tally 1 t 6 1 (noteWrote t (regX k.x (opRs1 w) % 2 ^ 54 / 128 * 128) (addSectors code mask)
            (tally 1 t 8 1 (tally 1 t 11 1 { s with waits := false })))) = q → waited s q.1 = false →
        (q.2 = .ok → Completes (.tileAddToLine t code mask rd) s fun u => (∃ ws, tileOf u t = { k.passed with wrote := ws })
          ∧ u = { q.1 with tiles := u.tiles, waits := s.waits } ∧ ∀ i, i ≠ t → tileOf u i = tileOf s i)
        ∧ (q.2 ≠ .ok → Completes (.tileAddToLine t code mask rd) s (TileFaulted t s)))
      ∧ ((∀ l ∈ k.l1, l.dirty = 0) → unacked s t = false → Completes (.fence t rd) s (TileDone t (Tile.passed { k with l1 := [] }) s))
      ∧ (∀ r, fenceTile t (some rd) { s with waits := false } = r → waited s r.1 = false →
        (r.2 = true → Completes (.fence t rd) s (TileFaulted t s))
        ∧ (r.2 = false → fencing r.1 t = true → exec (.fence t rd) s = .next { r.1 with waits := s.waits })
        ∧ (r.2 = false → fencing r.1 t = false → Completes (.fence t rd) s fun u =>
          (tileOf u t).l1 = [] ∧ (tileOf u t).pc = k.passed.pc)))
    ∧ (TileTurn s t 0x20 0x20 w → Completes (.sync t) s fun u => TileDone t { k.passed with state := .atSync } { s with mesh := u.mesh } u)
    ∧ (TileTurn s t 0x21 0x21 w → ∀ n v, [t, (Tab.get {} s.tiles.stat t).width,
        (Tab.get {} s.pace.mons (4 * (t / 64) + t % 16 / 4)).pace, now s][n]? = some v → Completes (.tileIdent t n) s
      (TileDone t (Tile.passed (k.putX (opRd w) v)) s))
    ∧ (TileTurn s t 0x3F 0x3F w → Completes (.tileHalt t) s (TileDone t { k with state := .halted } s))
    ∧ (tileRuns s t = true → reservedMajor (opMajor (tileWord s t)) = true →
      Completes (.tileReservedOpcode t) s (TileFaulted t s))

/-- Awl programs: scalar, control, scratch, vector and identity instructions, yield points, HOLD, RELEASE and HALT.
For an awl of the run that executes an instruction of the class, with no register awaiting a load: the destination is
written, the instruction is counted, control passes on, and a yield point follows where one is due; no other awl and
no byte of memory changes. Scratch accesses inside 64 KiB store and load their bytes, others fault with SCRATCH. A
jump past the program faults with PROG_ADDR, as does an instruction past it; a reserved opcode or function code is
illegal, in the row of its class too. YIELD is a yield point, HOLD and RELEASE set and clear the hold, HALT ends the
program after a yield point. It concludes that these forms complete: awlScalarInteger, awlControl, awlScratchScalar,
awlScratchVector, awlVectorArith, awlVectorConvert, awlIdent, yieldPoint, hold, release, awlHalt,
awlIllegalInstruction. -/
def Obligations.AwlInstructions : Prop :=
  ∀ (s : State) (a w : Nat) (k : Awl), awlOf s a = k →
    (∀ op form, AwlTurn s a 0x00 0x07 ([opRs1 w, opRd w] ++ if form = .register then [opRs2 w] else []) [] w →
      Completes (.awlScalarInteger a op form) s (AwlDone a (awlPast s a (k.putX (opRd w)
          (intOp 32 op (regX k.x (opRs1 w)) (if form = .register then regX k.x (opRs2 w) else ofSigned 32 (opImm w))
          (freeNow s)))) s))
    ∧ (AwlTurn s a 0x08 0x0B [opRs1 w, opRs2 w] [] w → ∀ op n, ctlExists op = true →
      control 32 op (regX k.x (opRs1 w)) (regX k.x (opRs2 w)) k.pc k.loops = n →
      (4 * n.1 + 4 ≤ (runProg s).length → Completes (.awlControl a op) s (AwlDone a (awlEnd s a k n) s))
      ∧ ((runProg s).length < 4 * n.1 + 4 → Completes (.awlControl a op) s (AwlFaulted a 2 s)))
    ∧ (AwlTurn s a 0x0C 0x0D [opRs1 w, opRd w] [] w → ∀ size sg, size = 8 ∨ size = 16 ∨ size = 32 →
      (scratchAddr s a w + size / 8 ≤ 0x10000 →
        (Completes (.awlScratchScalar a true size sg) s fun t => ∃ sc, AwlDone a (awlPast s a { k with scratch := sc }) s t
          ∧ scratchRead t a (scratchAddr s a w) (size / 8) = natLE (size / 8) (regX k.x (opRd w))
          ∧ ∀ j, j < scratchAddr s a w ∨ scratchAddr s a w + size / 8 ≤ j → scratchByte t a j = scratchByte s a j)
        ∧ Completes (.awlScratchScalar a false size sg) s (AwlDone a (awlPast s a (k.putX (opRd w)
          (if sg then ofSigned 32 (toSigned size (leNat (scratchRead s a (scratchAddr s a w) (size / 8))))
            else leNat (scratchRead s a (scratchAddr s a w) (size / 8))))) s))
      ∧ (0x10000 < scratchAddr s a w + size / 8 → ∀ st, Completes (.awlScratchScalar a st size sg) s (AwlFaulted a 3 s)))
    ∧ (AwlTurn s a 0x0E 0x0F [opRs1 w] [opRd w] w → opRd w < 8 → scratchAddr s a w + 64 ≤ 0x10000 →
      scratchAddr s a w % 64 = 0 →
      (Completes (.awlScratchVector a true) s fun t => ∃ sc, AwlDone a (awlPast s a { k with scratch := sc }) s t
        ∧ scratchRead t a (scratchAddr s a w) 64 = natLE 64 (regV k.v (opRd w)))
      ∧ Completes (.awlScratchVector a false) s (AwlDone a (awlPast s a (k.putV (opRd w) (leNat (scratchRead s a (scratchAddr s a w) 64)))) s))
    ∧ (∀ op ln, vecOpExists op ln = true → ln ≠ .bf16 → AwlTurn s a 0x10 0x17 (vecFields op w).1 (vecFields op w).2 w →
      legalV (vecFields op w).2 = true →
      (∀ v, vecOp op ln (regV k.v (opRs1 w)) (regV k.v (opRs2 w)) (regV k.v (opRd w)) (regX k.x (opRs1 w)) = .vec v →
        Completes (.awlVectorArith a op ln) s (AwlDone a (awlPast s a (k.putV (opRd w) v)) s))
      ∧ (∀ x, vecOp op ln (regV k.v (opRs1 w)) (regV k.v (opRs2 w)) (regV k.v (opRd w)) (regX k.x (opRs1 w)) = .scalar x →
        Completes (.awlVectorArith a op ln) s (AwlDone a (awlPast s a (k.putX (opRd w) x)) s)))
    ∧ (∀ f high tz sat, awlFormat f = true → AwlTurn s a 0x18 0x19 [] [opRd w, opRs1 w] w → opRd w < 8 → opRs1 w < 8 →
      Completes (.awlVectorConvert a (.pack f high) tz sat) s (AwlDone a (awlPast s a (k.putV (opRd w)
          (packHalf f high { mode := if tz then 1 else 0, sat := sat } (regV k.v (opRs1 w)) (regV k.v (opRd w))))) s)
      ∧ Completes (.awlVectorConvert a (.unpack f high) tz sat) s (AwlDone a (awlPast s a (k.putV (opRd w)
          (unpackHalf f high { mode := if tz then 1 else 0, sat := sat } (regV k.v (opRs1 w))))) s))
    ∧ (AwlTurn s a 0x1E 0x1E [opRd w] [] w → ∀ n v, [a, awlTier a, awlShank a, (Tab.get {} s.pace.mons (15 + awlTier a)).pace,
        now s, now s / 2 ^ 32][n]? = some v → Completes (.awlIdent a n) s
      (AwlDone a (awlPast s a (k.putX (opRd w) v)) s))
    ∧ (AwlTurn s a 0x1E 0x1E [] [] w →
      Completes (.hold a) s (AwlDone a (awlPast s a { k with inHold := true }) s)
      ∧ Completes (.release a) s (AwlDone a (awlPast s a { k with inHold := false }) s)
      ∧ (k.loads = [] → Completes (.yieldPoint a) s (AwlDone a (Awl.yielded { k with
          last := k.pc, pc := (nextPc k.pc k.loops).1, loops := (nextPc k.pc k.loops).2
          insns := min 0xFFFFFFFF (k.insns + 1) } .none (awlsPaused s)) s)))
    ∧ (AwlTurn s a 0x3F 0x3F [] [] w → k.loads = [] → Completes (.awlHalt a) s fun t =>
      awlOf t a = { k.yielded .none (awlsPaused s) with
        state := .halted, last := k.pc, insns := min 0xFFFFFFFF (k.insns + 1) } ∧ SameMemory s t)
    ∧ (awlRuns s a = true → awlWord s a = some w →
      (opMajor w ≤ 0x3E → Config.reservedFunction w = true ∨ 0x1F ≤ opMajor w →
        Completes (.awlIllegalInstruction a) s (AwlFaulted a 1 s))
      ∧ (opMajor w ≤ 0x07 → Config.reservedFunction w = true → ∀ op form,
        Completes (.awlScalarInteger a op form) s (AwlFaulted a 1 s)))
    ∧ (awlRuns s a = true → awlWord s a = none → Completes (.yieldPoint a) s (AwlFaulted a 2 s))

/-- Awls load and store lines of their share, exchange messages on the tier bus, meet at barriers, and a run ends. A
load of a line of the awl's share joins the loads in flight and returns its bytes to its registers, or faults at its
own instruction with POISON; a store writes the line's bytes and no others. LINV and LHOME give the line number and
the local index of the hash. SEND and BCAST with a free slot put their message on the bus and wait; a delivery puts it
in the receiver's queue and lets the sender go on; RECV takes the oldest message. The last awl to reach a barrier
waits at it, and the release lets every one go on. When every awl has ended the run ends, and when the budget is spent
every awl still running ends. Accesses to a row being copied wait. It concludes that these forms complete: awlRunEnd,
awlBudgetExpiry, ldl, ldw, awlLoadReturn, stl, stw, linv, lhome, send, bcast, tierBusDelivery, recv, bar,
awlBarrierRelease. -/
def Obligations.AwlLinesBusAndRunEnd : Prop :=
  ∀ (s : State) (a w : Nat) (k : Awl), awlOf s a = k →
    (AwlTurn s a 0x1A 0x1A [opRs1 w] [opRd w, opRd w + 1] w → opRd w < 8 → opRd w % 2 = 0 → k.loads.length < 4 →
      inShare s a (lineIndex s a w (opImm w)) = true → Completes (.ldl a) s (AwlDone a (awlPast s a { k with
        loads := k.loads ++ [⟨k.pc, false, opRd w, lineIndex s a w (opImm w), 0⟩] }) s))
    ∧ (∀ off, AwlTurn s a 0x1A 0x1A [opRs1 w, opRd w] [] w → wordOff w = some off → k.loads.length < 4 →
      inShare s a (lineIndex s a w 0) = true → Completes (.ldw a) s (AwlDone a (awlPast s a { k with
        loads := k.loads ++ [⟨k.pc, true, opRd w, lineIndex s a w 0, off⟩] }) s))
    ∧ (∀ l rest errs again r, k.loads = l :: rest → k.state = .running → awlRowWaits s a l.idx = false →
      awlRead a l.idx (if l.word then 2 ^ (l.off / 32) else 15) errs again s = r →
      (r.2.poison = 0 → Completes (.awlLoadReturn a errs again) s fun t => (awlOf t a).loads = rest
        ∧ (l.word = true → (awlOf t a).x = setX k.x 32 l.reg (field r.2.data l.off 4) ∧ (awlOf t a).v = k.v)
        ∧ (l.word = false → (awlOf t a).x = k.x
          ∧ regV (awlOf t a).v l.reg = field r.2.data 0 64 ∧ regV (awlOf t a).v (l.reg + 1) = field r.2.data 64 64))
      ∧ (r.2.poison ≠ 0 → Completes (.awlLoadReturn a errs again) s fun t =>
        (awlOf t a).state = .faulted ∧ (awlOf t a).cause = 5 ∧ (awlOf t a).last = l.pc))
    ∧ (AwlTurn s a 0x1B 0x1B [opRs1 w] [opRd w, opRd w + 1] w → opRd w < 8 → opRd w % 2 = 0 →
      k.loads.any (fun l => l.idx == lineIndex s a w (opImm w)) = false → inShare s a (lineIndex s a w (opImm w)) = true →
      awlRowWaits s a (lineIndex s a w (opImm w)) = false → Completes (.stl a) s fun t => awlOf t a = awlPast s a k ∧ (∀ b, b ≠ a → awlOf t b = awlOf s b)
        ∧ Stored s t (awlAddr s a (lineIndex s a w (opImm w)))
          ((natLE 64 (regV k.v (opRd w)) ++ natLE 64 (regV k.v (opRd w + 1))).map some))
    ∧ (∀ off, AwlTurn s a 0x1B 0x1B [opRs1 w, opRd w] [] w → wordOff w = some off →
      k.loads.any (fun l => l.idx == lineIndex s a w 0) = false → inShare s a (lineIndex s a w 0) = true →
      awlRowWaits s a (lineIndex s a w 0) = false → CleanLine s (awlAddr s a (lineIndex s a w 0)) → Completes (.stw a []) s fun t =>
        awlOf t a = awlPast s a k ∧ (∀ b, b ≠ a → awlOf t b = awlOf s b)
          ∧ Stored s t (awlAddr s a (lineIndex s a w 0) + off) ((natLE 4 (regX k.x (opRd w))).map some))
    ∧ (AwlTurn s a 0x1C 0x1C [opRs1 w, opRd w] [] w →
      Completes (.linv a) s (AwlDone a (awlPast s a (k.putX (opRd w) (awlAddr s a (regX k.x (opRs1 w)) / 128))) s)
      ∧ Completes (.lhome a) s (AwlDone a (awlPast s a (k.putX (opRd w) (lhomeOf s a (regX k.x (opRs1 w))))) s))
    ∧ (BusTurn s a .send w → opRd w < 8 →
      (∀ b, awlOfRank s (regX k.x (opRs1 w)) = some b → awlEnded s b = false → hasSlot s b = true →
        Completes (.send a) s fun t => t.awls.bus = s.awls.bus ++ [⟨a, k.rank, some b, regV k.v (opRd w)⟩]
          ∧ (awlOf t a).wait = .send ∧ (awlOf t b).resv = (awlOf s b).resv + 1 ∧ SameMemory s t)
      ∧ (awlOfRank s (regX k.x (opRs1 w)) = none → Completes (.send a) s (AwlFaulted a 6 s))
      ∧ ((∀ b ∈ tierMates s a, hasSlot s b = true) → Completes (.bcast a) s fun t =>
        t.awls.bus = s.awls.bus ++ [⟨a, k.rank, none, regV k.v (opRd w)⟩] ∧ (awlOf t a).wait = .send ∧ SameMemory s t))
    ∧ (∀ m b d, busPick s m = some b → b.dst = some d → awlEnded s d = false → Completes (.tierBusDelivery m) s fun t =>
      (awlOf t d).rxq = (awlOf s d).rxq ++ [(b.rank, b.payload)] ∧ (awlOf t d).resv = (awlOf s d).resv - 1
        ∧ (awlOf t b.src).pc = (nextPc (awlOf s b.src).pc (awlOf s b.src).loops).1
        ∧ t.awls.bus = s.awls.bus.filter (fun c => c.src != b.src) ∧ SameMemory s t)
    ∧ (∀ r p rest, BusTurn s a .recv w → opRs1 w < 8 → k.rxq = (r, p) :: rest → Completes (.recv a) s
      (AwlDone a (awlPast s a { k with
        rxq := rest, wait := .none, v := setV k.v (opRs1 w) p, x := setX k.x 32 (opRd w) r }) s))
    ∧ (awlRuns s a = true → k.loads = [] → awlWord s a = some w → opMajor w = 0x1D → Config.reservedFunction w = false →
      (∀ b ∈ runAwls s, b ≠ a → atBarrier s b = true) → Completes (.bar a) s (AwlDone a { k with wait := .bar } s))
    ∧ ((runAwls s).all (atBarrier s) = true → (runAwls s).Nodup → a ∈ runAwls s → k.state = .running → k.wait = .bar →
      Completes .awlBarrierRelease s fun t => (awlOf t a).wait ≠ .bar ∧ (awlOf t a).pc = (nextPc k.pc k.loops).1
        ∧ SameMemory s t)
    ∧ (∀ r rd, s.awls.cur = some r → r.awls.all (awlEnded s) = true → Waits (fun s => (writeResults r rd s).1) s = false →
      Completes (.awlRunEnd rd) s fun t =>
      t.awls = { s.awls with cur := none, awl := [], bus := [] } ∧ t.obj.lends = s.obj.lends)
    ∧ ((runAwls s).any (fun b => !awlEnded s b) = true → budgetSpent s = true → Completes .awlBudgetExpiry s fun t =>
      (∀ b ∈ runAwls s, awlEnded t b = true ∧ (awlEnded s b = false → (awlOf t b).state = .budget))
        ∧ t = { s with awls := t.awls } ∧ t.awls.bus = [])

/-- At the start of a run every register of an awl but those of Table 8.8b reads 0. Formalises 08_near_bank_awls.md,
R242. When the run at the head of the queue may start and its program and argument block can be read, AWL_RUN_START
completes: the run is in progress with the awls of R241, and each of them runs from instruction 0 with every scalar
register but x1 to x11 and every vector register reading 0, and x1 to x11 as Table 8.8b names them. It concludes that
these forms complete: awlRunStart. -/
def Obligations.AwlsAtEntry : Prop :=
  ∀ (s : State) (q : RunReq) (rest : List RunReq) (u : Sub) (rd : Remote) (s1 : State) (p g : State × PodRead),
    s.awls.queue = q :: rest → subOf s q.sub = some u → s.awls.cur = none → awlsPaused s = false → ready s = true →
    mayStart s u = true → startSub q.sub { s with waits := false, awls := { s.awls with queue := rest } } = s1 → awlsOf s q.block ≠ [] →
    podRead .module (field q.block 8 8) (field q.block 4 2) rd s1 = p → p.2.reason = 0 → p.2.poison = false →
    podRead .module (field q.block 16 8) (field q.block 6 2) rd p.1 = g → g.2.reason = 0 → g.2.poison = false → waited s g.1 = false →
    Completes (.awlRunStart rd) s fun t => ∃ r, t.awls.cur = some r ∧ r.block = q.block ∧ r.prog = p.2.data
      ∧ r.awls = awlsOf s q.block ∧ t.awls.queue = rest
      ∧ ∀ a ∈ r.awls, (awlOf t a).state = .running ∧ (awlOf t a).pc = 0
        ∧ (∀ i, i = 0 ∨ 11 < i → regX (awlOf t a).x i = 0) ∧ (∀ i, regV (awlOf t a).v i = 0)
        ∧ regX (awlOf t a).x 1 = a ∧ regX (awlOf t a).x 2 = awlTier a ∧ regX (awlOf t a).x 3 = awlShank a
        ∧ (regX (awlOf t a).x 4, regX (awlOf t a).x 5)
            = share (regionBlocks s (field q.block 0 1 % 64)) (awlTier a)
        ∧ r.awls[regX (awlOf t a).x 6]? = some a ∧ regX (awlOf t a).x 7 = r.awls.length
        ∧ regX (awlOf t a).x 10 = field q.block 36 4 ∧ regX (awlOf t a).x 11 = field q.block 6 2

/-- A step runs the command at the front of the queue, and with none waiting the timebase counts. For every command
and state, a step with the command at the front of the queue is that command run on the state with the queue's rest.
With no command waiting the step completes: without a timebase it changes nothing; with one it adds one tick, steps
the network and the array's ramp, takes a tick from the budget of a run that is not wholly paused, counts what the
network does and the stage's time, and, where no host read of memory waits to be served, changes nothing else. That
these happen in the idle step is the model's choice (log 2). No word spells a command of this block, so putting one at
the front of the queue changes nothing. -/
def Obligations.StepRunsTheFrontCommand : Prop :=
  (∀ (c : Instr) (s : State) (rest : List Instr), step { s with pending := c :: rest } = exec c { s with pending := rest })
    ∧ (∀ s : State, s.pending = [] → ∃ t, step s = .next t
      ∧ (s.power.timebaseOn = false → t = s)
      ∧ (s.power.timebaseOn = true → t.timebase = (s.timebase + 1) % 2 ^ 64
        ∧ (s.sched.op = none → t.pace.active ≤ s.pace.active) ∧ t.pace.active ≤ s.pace.active + 1
        ∧ (s.pcie.bar2Held = [] → t = { s with
            timebase := t.timebase, mesh := t.mesh, ev := t.ev
            pace := { s.pace with steps := t.pace.steps, ramp := t.pace.ramp, moved := t.pace.moved, active := t.pace.active }
            bring := { s.bring with stageNs := t.bring.stageNs, reports := t.bring.reports }
            awls := { s.awls with cur := t.awls.cur } })
        ∧ t.awls.cur = s.awls.cur.map fun r => { r with
            left := if (runAwls s).all (fun a => awlEnded s a || ((awlOf s a).paused && awlsPaused s)) then r.left else r.left - 1 }))
    ∧ ∀ (s : State) (nbits w : Nat), decodeTableWord nbits w = none ∧ s.withFetchWord nbits w = s

/-- Before power is applied the module is in OFF with nothing in memory, no object, no work and no command waiting.
The reset state is OFF with no rail up. Every byte of memory reads 0 and carries no mark, no line is cached, no object
exists, no work is under way, no shutdown is recorded, no event is logged, and the memory is in its canonical form.
With the seat sense closed, 56 V applied, the standby rail up and the start wait passed, bring-up begins. The values
of this state that the spec does not give are the model's (its assumption log). -/
def Obligations.ResetState : Prop :=
  State.reset.power.phase = .off ∧ State.reset.power.standby = false ∧ State.reset.power.coreRails = false
    ∧ (∀ a, cellByte State.reset a = 0) ∧ (∀ i, Tab.get {} State.reset.stack.mark i = {}) ∧ State.reset.cache = {}
    ∧ State.reset.obj = {} ∧ State.reset.sched = {} ∧ State.reset.mail = {} ∧ State.reset.awls = {}
    ∧ State.reset.shut.cause = 0 ∧ State.reset.timebase = 0 ∧ State.reset.pending = []
    ∧ MemoryCanonical State.reset
    ∧ ∃ r t u v, exec .seatSenseClose State.reset = .next r ∧ exec (.powerApplication 56000) r = .next t
        ∧ exec (.standbyRailRegulation 0) t = .next u ∧ exec .startWaitExpiry u = .next v ∧ v.power.phase = .bringup 0

/-- Every step keeps memory and its marks in their canonical form. Memory and its marks are lists of addresses that
rise strictly and name no value that an unlisted address already reads as. For every state in which they are so,
whatever command stands at the front of the queue, a step that answers a next state keeps them so: equal memories stay
equal data. -/
def Obligations.MemoryStaysCanonical : Prop :=
  ∀ s t : State, MemoryCanonical s → step s = .next t → MemoryCanonical t

/-- Device addresses have 48 bits; a pod global address has the device number in bits 53 to 48. Formalises
00_scope.md, R12. Every pair of a device number from 0 to 63 and a device address of 48 bits makes one pod global
address of 54 bits, from which the model reads them back; and every number of 54 bits is the pod global address of the
device number and device address that the model reads in it. -/
def Obligations.AddressFields : Prop :=
  (∀ d x, d < 64 → x < 2 ^ 48 → d * 2 ^ 48 + x < 2 ^ 54 ∧ podDevice (d * 2 ^ 48 + x) = d ∧ podOffset (d * 2 ^ 48 + x) = x)
    ∧ (∀ a, a < 2 ^ 54 → podDevice a < 64 ∧ podOffset a < 2 ^ 48 ∧ podDevice a * 2 ^ 48 + podOffset a = a)

/-- Registered Lasts survive exactly the resets that the model table survives, and no reset leaves LOCKSTEP.
Formalises 10_mesh_and_lockstep.md, R298. FLR, HOT_RESET and DL_DOWN leave every model and every registered Last
registered, with the discipline BOUNDED and no Last installed. The resets that rerun bring-up (after power
application, by PERST#, by STACK_RESET, by the Cobbler watchdog), in READY or during bring-up, leave no model and no
Last, the discipline BOUNDED and no Last installed. It concludes that these forms complete: startWaitExpiry,
perstPulse, cobblerWatchdog, flr, hotReset, dlDown, stackReset. -/
def Obligations.LastsSurviveLikeModels : Prop :=
  ∀ s : State,
    (∀ c, (c = Instr.flr ∧ hostHeard s = true) ∨ ((c = Instr.hotReset ∨ c = Instr.dlDown) ∧ linkHears s = true) →
      Completes c s fun t => t.obj.models = s.obj.models
        ∧ (∀ i, (obj t.obj.lasts i).isSome = (obj s.obj.lasts i).isSome) ∧ t.pace.net = false ∧ t.obj.installed = none)
    ∧ (∀ c, (c = .startWaitExpiry ∧ s.power.startWait = true ∧ s.power.phase = .off ∧ s.power.standby = true
          ∧ s.power.seatClosed = true ∧ 49000 ≤ s.power.vin)
        ∨ (c = .perstPulse ∧ s.power.perstHigh = true ∧ (s.power.phase = .up ∨ ∃ n, s.power.phase = .bringup n))
        ∨ (∃ b, c = .cobblerWatchdog b ∧ (s.power.phase = .up ∨ ∃ n, s.power.phase = .bringup n))
        ∨ (∃ o a, c = .stackReset o ∧ (s.power.phase = .up ∨ ∃ n, s.power.phase = .bringup n) ∧ accepted s o 0x00D0 = some a ∧ field a.payload 0 4 = 0x53544B52) →
      Completes c s fun t => t.obj.models = [] ∧ t.obj.lasts = [] ∧ t.pace.net = false ∧ t.obj.installed = none)
end

