-- ==== Sys2Proof/Laws/Tab.lean ====
section
/-! SUPPORT. The laws of the sparse tables: a read after a write, a write leaves every other key alone, and every
operation keeps the canonical form. -/

namespace Sys2Proof

theorem Tab.get_insert {α : Type} (d : α) (t : Tab α) (k j : Nat) (v : α) :
    Tab.get d (Tab.insert t k v) j = if j = k then v else Tab.get d t j := by
  induction t with
  | nil => simp [Tab.insert, Tab.get]
  | cons e t ih =>
    obtain ⟨k', v'⟩ := e
    simp only [Tab.insert]
    split
    · simp [Tab.get]
    · split
      · subst k'
        simp only [Tab.get]
        split <;> rfl
      · simp only [Tab.get, ih]
        split <;> split <;> simp_all

theorem Tab.get_erase {α : Type} (d : α) (t : Tab α) (k j : Nat) :
    Tab.get d (Tab.erase t k) j = if j = k then d else Tab.get d t j := by
  induction t with
  | nil => simp [Tab.erase, Tab.get]
  | cons e t ih =>
    obtain ⟨k', v'⟩ := e
    simp only [Tab.erase]
    split
    · subst k'
      simp only [Tab.get, ih]
      split <;> simp_all
    · simp only [Tab.get, ih]
      split <;> split <;> simp_all

/-- What a table reads after a write. -/
theorem Tab.get_set {α : Type} [DecidableEq α] (d : α) (t : Tab α) (k j : Nat) (v : α) :
    Tab.get d (Tab.set d t k v) j = if j = k then v else Tab.get d t j := by
  unfold Tab.set
  split
  · rename_i h; rw [Tab.get_erase, h]
  · exact Tab.get_insert ..

@[simp] theorem Tab.get_set_self {α : Type} [DecidableEq α] (d : α) (t : Tab α) (k : Nat) (v : α) :
    Tab.get d (Tab.set d t k v) k = v := by simp [Tab.get_set]

theorem Tab.get_set_ne {α : Type} [DecidableEq α] (d : α) (t : Tab α) {k j : Nat} (v : α) (h : j ≠ k) :
    Tab.get d (Tab.set d t k v) j = Tab.get d t j := by simp [Tab.get_set, h]

theorem Tab.get_upd {α : Type} [DecidableEq α] (d : α) (t : Tab α) (k j : Nat) (f : α → α) :
    Tab.get d (Tab.upd d t k f) j = if j = k then f (Tab.get d t k) else Tab.get d t j := Tab.get_set ..

@[simp] theorem Tab.get_upd_self {α : Type} [DecidableEq α] (d : α) (t : Tab α) (k : Nat) (f : α → α) :
    Tab.get d (Tab.upd d t k f) k = f (Tab.get d t k) := by simp [Tab.get_upd]

theorem Tab.get_upd_ne {α : Type} [DecidableEq α] (d : α) (t : Tab α) {k j : Nat} (f : α → α) (h : j ≠ k) :
    Tab.get d (Tab.upd d t k f) j = Tab.get d t j := by simp [Tab.get_upd, h]

@[simp] theorem Tab.get_nil {α : Type} (d : α) (k : Nat) : Tab.get d [] k = d := rfl

theorem Tab.get_setMany {α : Type} [DecidableEq α] (d : α) (ks : List Nat) (f : Nat → α) (t : Tab α) (j : Nat) :
    Tab.get d (Tab.setMany d t ks f) j = if j ∈ ks then f j else Tab.get d t j := by
  unfold Tab.setMany
  induction ks generalizing t with
  | nil => simp
  | cons k ks ih =>
    simp only [List.foldl_cons, ih, Tab.get_set, List.mem_cons]
    by_cases h : j ∈ ks
    · simp [h]
    · by_cases h' : j = k
      · simp [h']
      · simp [h, h']

theorem Tab.all_lt_insert {α : Type} (t : Tab α) (k b : Nat) (v : α) (h : t.all (fun e => decide (b < e.1)) = true)
    (hk : b < k) : (Tab.insert t k v).all (fun e => decide (b < e.1)) = true := by
  induction t with
  | nil => simp [Tab.insert, hk]
  | cons e t ih =>
    obtain ⟨k', v'⟩ := e
    simp only [List.all_cons, Bool.and_eq_true, decide_eq_true_eq] at h
    simp only [Tab.insert]
    split
    · simp [hk, h.1, h.2]
    · split
      · simp [hk, h.2]
      · simp [h.1, ih h.2]

theorem Tab.all_lt_erase {α : Type} (t : Tab α) (k b : Nat) (h : t.all (fun e => decide (b < e.1)) = true) :
    (Tab.erase t k).all (fun e => decide (b < e.1)) = true := by
  induction t with
  | nil => rfl
  | cons e t ih =>
    obtain ⟨k', v'⟩ := e
    simp only [List.all_cons, Bool.and_eq_true, decide_eq_true_eq] at h
    simp only [Tab.erase]
    split
    · exact ih h.2
    · simp [h.1, ih h.2]

theorem Tab.wf_erase {α : Type} [DecidableEq α] (d : α) (t : Tab α) (k : Nat) (h : Tab.wf d t = true) :
    Tab.wf d (Tab.erase t k) = true := by
  induction t with
  | nil => rfl
  | cons e t ih =>
    obtain ⟨k', v'⟩ := e
    simp only [Tab.wf, Bool.and_eq_true] at h
    simp only [Tab.erase]
    split
    · exact ih h.2
    · simp only [Tab.wf, Bool.and_eq_true]
      exact ⟨⟨h.1.1, Tab.all_lt_erase _ _ _ h.1.2⟩, ih h.2⟩

theorem Tab.wf_insert {α : Type} [DecidableEq α] (d : α) (t : Tab α) (k : Nat) (v : α) (hv : v ≠ d)
    (h : Tab.wf d t = true) : Tab.wf d (Tab.insert t k v) = true := by
  induction t with
  | nil => simp [Tab.insert, Tab.wf, hv]
  | cons e t ih =>
    obtain ⟨k', v'⟩ := e
    have h' := h
    simp only [Tab.wf, Bool.and_eq_true] at h
    simp only [Tab.insert]
    split
    · rename_i hk
      simp only [Tab.wf, Bool.and_eq_true, decide_eq_true_eq, List.all_cons]
      refine ⟨⟨hv, hk, ?_⟩, ⟨of_decide_eq_true h.1.1, h.1.2⟩, h.2⟩
      have := h.1.2
      simp only [List.all_eq_true, decide_eq_true_eq] at this ⊢
      intro e he; exact Nat.lt_trans hk (this e he)
    · split
      · rename_i hk; subst hk
        simp only [Tab.wf, Bool.and_eq_true, decide_eq_true_eq]
        exact ⟨⟨hv, h.1.2⟩, h.2⟩
      · simp only [Tab.wf, Bool.and_eq_true]
        refine ⟨⟨h.1.1, Tab.all_lt_insert _ _ _ _ h.1.2 (by omega)⟩, ih h.2⟩

/-- A write keeps the canonical form. -/
theorem Tab.wf_set {α : Type} [DecidableEq α] (d : α) (t : Tab α) (k : Nat) (v : α) (h : Tab.wf d t = true) :
    Tab.wf d (Tab.set d t k v) = true := by
  unfold Tab.set
  split
  · exact Tab.wf_erase d t k h
  · exact Tab.wf_insert d t k v ‹_› h

theorem Tab.wf_upd {α : Type} [DecidableEq α] (d : α) (t : Tab α) (k : Nat) (f : α → α) (h : Tab.wf d t = true) :
    Tab.wf d (Tab.upd d t k f) = true := Tab.wf_set d t k _ h

theorem Tab.wf_setMany {α : Type} [DecidableEq α] (d : α) (ks : List Nat) (f : Nat → α) (t : Tab α)
    (h : Tab.wf d t = true) : Tab.wf d (Tab.setMany d t ks f) = true := by
  unfold Tab.setMany
  induction ks generalizing t with
  | nil => exact h
  | cons k ks ih => exact ih _ (Tab.wf_set d t k _ h)

end Sys2Proof
end

