-- ==== Sys2Proof/Laws/Report.lean ====
section
/-! SUPPORT. What each reporting operation can do, said once: every one of them is `Reports`. -/

namespace Sys2Proof.Machine

theorem Reports.refl (s : State) : Reports s s := by
  constructor <;> first | rfl | (intro _; rfl) | exact ⟨[], by simp⟩

theorem Reports.trans {s t u : State} (h : Reports s t) (k : Reports t u) : Reports s u := by
  obtain ⟨l, hl⟩ := h.out
  obtain ⟨m, hm⟩ := k.out
  obtain ⟨q, hq⟩ := h.reqs
  obtain ⟨r, hr⟩ := k.reqs
  constructor
  case out => exact ⟨l ++ m, by rw [hm, hl, List.append_assoc]⟩
  case reqs => exact ⟨q ++ r, by rw [hr, hq, List.append_assoc]⟩
  case ports => intro p; rw [k.ports p, h.ports p]; rfl
  case pcie => rw [k.pcie, h.pcie]
  case pod => rw [k.pod, h.pod]
  case trace => rw [k.trace, h.trace]
  case tele => rw [k.tele, h.tele]
  all_goals first
    | exact k.power.trans h.power | exact k.pace.trans h.pace | exact k.bring.trans h.bring | exact k.mail.trans h.mail
    | exact k.obj.trans h.obj | exact k.sched.trans h.sched | exact k.tiles.trans h.tiles | exact k.stack.trans h.stack
    | exact k.cache.trans h.cache | exact k.awls.trans h.awls | exact k.thermal.trans h.thermal
    | exact k.coolant.trans h.coolant | exact k.shut.trans h.shut | exact k.fw.trans h.fw
    | exact k.timebase.trans h.timebase | exact k.fresh.trans h.fresh | exact k.pending.trans h.pending
    | exact k.sram.trans h.sram | exact k.waits.trans h.waits

/-- A fold of reporting operations. -/
theorem Reports.foldl {α : Type} (f : State → α → State) (l : List α) (h : ∀ s x, Reports s (f s x)) (s : State) :
    Reports s (l.foldl f s) := by
  induction l generalizing s with
  | nil => exact Reports.refl s
  | cons x l ih => exact (h s x).trans (ih _)

/-- A state made from `s` by fields that `Reports` leaves free. -/
theorem Reports.of_ev (s : State) (e : Events) : Reports s { s with ev := e } := by
  constructor <;> first | rfl | (intro _; rfl) | exact ⟨[], by simp⟩

theorem reports_tally (cls unit slot n : Nat) (s : State) : Reports s (tally cls unit slot n s) := Reports.of_ev _ _

theorem reports_setGauge (cls unit slot : Nat) (f : Option Nat → Nat) (s : State) :
    Reports s (setGauge cls unit slot f s) := Reports.of_ev _ _

theorem reports_setDegraded (s : State) : Reports s (setDegraded s) := Reports.of_ev _ _

theorem reports_setAer (b : Nat) (s : State) : Reports s (setAer b s) := by
  constructor <;> first | rfl | (intro _; rfl) | exact ⟨[], by simp [setAer]⟩

theorem reports_alert (b : Nat) (s : State) : Reports s (alert b s) := by
  constructor <;> first | rfl | (intro _; rfl) | exact ⟨[], by simp [alert]⟩

/-- A port's record as a function of the port number after one port's record was set. -/
theorem port_set (s : State) (p q : Nat) (r : Port) :
    Tab.get {} (Tab.set {} s.ports p r) q = if q = p then r else port s q := Tab.get_set ..

theorem Port.put_keeps (pt : Port) (p ty seq vc units start : Nat) (payload : Bytes) :
    (pt.put p ty seq vc units start payload).1
      = pt.sending (pt.put p ty seq vc units start payload).1 := rfl

theorem Port.emit_keeps (pt : Port) (p ty seq vc units start : Nat) (payload : Bytes) :
    (pt.emit p ty seq vc units start payload).1
      = pt.sending (pt.emit p ty seq vc units start payload).1 := by
  unfold Port.emit
  dsimp only
  split <;> rfl

theorem Port.sendData_keeps (pt : Port) (p vc : Nat) :
    (pt.sendData p vc).1 = pt.sending (pt.sendData p vc).1 := by
  unfold Port.sendData
  dsimp only
  rw [Port.emit_keeps]
  rfl

theorem Port.pump_keeps (p n : Nat) (pt : Port) (out : List Output) :
    (Port.pump p n pt out).1 = pt.sending (Port.pump p n pt out).1 := by
  induction n generalizing pt out with
  | zero => rfl
  | succ n ih =>
    simp only [Port.pump]
    split
    · split
      · rw [ih, Port.sendData_keeps]; rfl
      · rfl
    · rfl

/-- A state whose ports table, output and counters changed, one port's record in its queues only. -/
theorem Reports.of_port (s : State) (p : Nat) (r : Port) (l : List Output) (e : Events)
    (h : r = (port s p).sending r) :
    Reports s { s with ports := Tab.set {} s.ports p r, out := s.out ++ l, ev := e } := by
  constructor
  case ports =>
    intro q
    show Tab.get {} (Tab.set {} s.ports p r) q = _
    simp only [port, Tab.get_set]
    split
    · subst q; exact h
    · rfl
  case out => exact ⟨l, rfl⟩
  case reqs => exact ⟨[], by simp⟩
  all_goals rfl

theorem reports_pump (p : Nat) (s : State) : Reports s (pump p s) :=
  Reports.of_port s p _ _ _ (Port.pump_keeps ..)

theorem reports_emitCtl (p ty : Nat) (payload : Bytes) (s : State) : Reports s (emitCtl p ty payload s) :=
  Reports.of_port s p _ _ s.ev (Port.emit_keeps ..)

theorem reports_lctl (p code rest : Nat) (s : State) : Reports s (lctl p code rest s) := reports_emitCtl ..

/-- One port's record changed in its queues only. -/
theorem reports_setPort (p : Nat) (f : Port → Port) (s : State)
    (h : f (port s p) = (port s p).sending (f (port s p))) :
    Reports s (setPort s p f) := by
  constructor
  case ports =>
    intro q
    show Tab.get {} (Tab.upd {} s.ports p f) q = _
    simp only [port, setPort, Tab.get_upd]
    split
    · subst q; exact h
    · rfl
  case out => exact ⟨[], by simp [setPort]⟩
  case reqs => exact ⟨[], by simp [setPort]⟩
  all_goals rfl

theorem reports_sendOn (p vc : Nat) (req fwd : Option Nat) (bs : Bytes) (s : State) :
    Reports s (sendOn p vc req fwd bs s) :=
  Reports.trans (reports_setPort p _ s rfl) (reports_pump p _)

/-- Traffic put on the on-die network is reporting. -/
theorem reports_mesh (s : State) (m : Mesh) : Reports s { s with mesh := m } := by
  constructor <;> first | rfl | (intro _; rfl) | exact ⟨[], by simp⟩

theorem reports_meshSend (a b : Endpoint) (vc flits : Nat) (s : State) : Reports s (meshSend a b vc flits s) := reports_mesh ..

theorem reports_meshLong (a b : Endpoint) (vc flits : Nat) (s : State) : Reports s (meshLong a b vc flits s) := by
  unfold meshLong
  split
  · exact Reports.foldl _ _ (fun s i => reports_meshSend ..) s
  · exact reports_meshSend ..

theorem reports_fabricAsk (p vc unit bytes : Nat) (s : State) : Reports s (fabricAsk p vc unit bytes s) :=
  reports_meshLong ..

theorem reports_sendTo (dst line vc : Nat) (req fwd : Option Nat) (bs : Bytes) (s : State) :
    Reports s (sendTo dst line vc req fwd bs s) := by
  unfold sendTo
  split
  · exact reports_sendOn ..
  · exact Reports.refl s

/-- A state that differs only in the pod's outstanding requests, some appended. -/
theorem Reports.of_pod (s t : State) (h : Reports s t) (n m : Nat) (l : List Request)
    (hl : ∃ k, l = s.pod.reqs ++ k) :
    Reports s { t with pod := { s.pod with reqs := l, nextReq := n, mseq := m } } := by
  obtain ⟨h1, h2, h3, h4, h5, h6, h7, h8, h9, h10, h11, h12, h13, h14, h15, h16, h17, h18, h19, h20, h21, h22, h23, h24,
    h25, h26⟩ := h
  constructor
  case pod => rfl
  case reqs => exact hl
  all_goals assumption

theorem reports_sendRequest (ty dst vc unit op addr len : Nat) (ext : Option Nat) (payload : Bytes) (why : ReqFor)
    (s : State) : Reports s (sendRequest ty dst vc unit op addr len ext payload why s) := by
  unfold sendRequest
  refine Reports.of_pod s _ ?_ _ s.pod.mseq _ ?_
  · split
    · exact Reports.refl s
    · split
      · exact (reports_fabricAsk ..).trans (reports_sendOn ..)
      · exact Reports.refl s
  · split
    · exact ⟨_, rfl⟩
    · exact ⟨[], by simp⟩

theorem reports_sendMailbox (dst service mseq : Nat) (payload : Bytes) (s : State) :
    Reports s (sendMailbox dst service mseq payload s) := reports_sendRequest ..

/-- A state that differs in the interrupt side of the PCIe function and in output appended. -/
theorem Reports.of_pcie (s : State) (a : Nat) (b : Tab Bool) (g : Tab Nat) (hr : List (Nat × Bytes))
    (hm : List Nat) (l : List Output) (hl : ∃ k, l = s.out ++ k) :
    Reports s { s with out := l, pcie := { s.pcie with aer := a, pba := b, gathered := g, heldRecs := hr, heldMsix := hm } } := by
  constructor
  case out => exact hl
  all_goals first | rfl | (intro _; rfl) | exact ⟨[], by simp⟩

theorem reports_hostWrite (addr : Nat) (bs : Bytes) (ep ro : Bool) (s : State) : Reports s (hostWrite addr bs ep ro s) := by
  unfold hostWrite
  split
  · exact Reports.of_pcie s s.pcie.aer s.pcie.pba s.pcie.gathered s.pcie.heldRecs s.pcie.heldMsix _ ⟨_, rfl⟩
  · exact Reports.of_pcie s s.pcie.aer s.pcie.pba s.pcie.gathered _ s.pcie.heldMsix _ ⟨[], by simp⟩

theorem reports_msixSend (v : Nat) (s : State) : Reports s (msixSend v s) := by
  unfold msixSend
  constructor
  case pcie => dsimp only; repeat' split
               all_goals rfl
  case out => dsimp only; split
              · exact ⟨_, rfl⟩
              · exact ⟨[], by simp⟩
  case reqs => exact ⟨[], by simp⟩
  all_goals first | rfl | (intro _; rfl)

theorem reports_raise (v : Nat) (s : State) : Reports s (raise v s) := by
  have step (g : Tab Nat) : Reports s { s with pcie := { s.pcie with gathered := g } } :=
    Reports.of_pcie s s.pcie.aer s.pcie.pba g s.pcie.heldRecs s.pcie.heldMsix s.out ⟨[], by simp⟩
  unfold raise
  extract_lets m g
  split
  · exact reports_msixSend ..
  · split
    · exact (step _).trans (reports_msixSend ..)
    · exact step _

/-- A state that differs in the trace queue and the counters. -/
theorem Reports.of_trace (s : State) (q : List TraceRec) (a b c : Nat) (d : Bool) (e : Events) :
    Reports s { s with trace := { s.trace with queue := q, lost := a, lostNew := b, triggered := d, ahead := c }, ev := e } := by
  constructor <;> first | rfl | (intro _; rfl) | exact ⟨[], by simp⟩

theorem reports_traceRec (kind src data : Nat) (s : State) : Reports s (traceRec kind src data s) := by
  unfold traceRec
  constructor
  case trace => simp only [Trace.push]; repeat' split
                all_goals rfl
  all_goals first | rfl | (intro _; rfl) | exact ⟨[], by simp⟩

theorem reports_announce (r : EvtRec) (s : State) : Reports s (announce r s) := by
  unfold announce
  have h : Reports s (if r.irq then raise 0 s else s) := by
    split
    · exact reports_raise ..
    · exact Reports.refl s
  refine h.trans ?_
  generalize (if r.irq then raise 0 s else s) = u
  simp only
  split
  · exact Reports.of_pcie u _ u.pcie.pba u.pcie.gathered u.pcie.heldRecs u.pcie.heldMsix u.out ⟨[], by simp⟩
  · exact Reports.refl u

/-- The trigger of the trace seen, or not. -/
theorem Reports.of_trigger (s : State) (c : Bool) (n : Nat) :
    Reports s (if c then { s with trace := { s.trace with triggered := true, ahead := n } } else s) := by
  split
  · exact Reports.of_trace s s.trace.queue s.trace.lost s.trace.lostNew n true s.ev
  · exact Reports.refl s

theorem Reports.of_ite {s : State} (c : Prop) [Decidable c] {a b : State} (ha : Reports s a) (hb : Reports s b) :
    Reports s (if c then a else b) := by
  split
  · exact ha
  · exact hb

/-- A state whose pod differs in the sequence number of the next MAILBOX message. -/
theorem Reports.of_mseq (s : State) (n : Nat) : Reports s { s with pod := { s.pod with mseq := n } } := by
  constructor <;> first | rfl | (intro _; rfl) | exact ⟨[], by simp⟩

theorem reports_logRecord (r : EvtRec) (s : State) : Reports s (logRecord r s) := by
  unfold logRecord
  dsimp only
  refine Reports.of_ite _ ?_ ?_
  · refine Reports.trans ?_ (Reports.of_mseq _ _)
    refine Reports.trans ?_ (reports_sendMailbox ..)
    refine Reports.of_ite _ ?_ (Reports.trans ?_ (reports_announce ..)) <;>
      refine Reports.of_ite _ (Reports.trans ?_ (reports_traceRec ..)) ?_ <;>
      exact (Reports.of_ev s _).trans (Reports.of_trigger _ _ _)
  · refine Reports.of_ite _ ?_ (Reports.trans ?_ (reports_announce ..)) <;>
      refine Reports.of_ite _ (Reports.trans ?_ (reports_traceRec ..)) ?_ <;>
      exact (Reports.of_ev s _).trans (Reports.of_trigger _ _ _)

theorem reports_reportEvent (src : Nat) (s : State) : Reports s (reportEvent src s) := by
  unfold reportEvent
  split
  · exact reports_mesh ..
  · exact Reports.refl s

theorem reports_logEvent (code src data : Nat) (s : State) : Reports s (logEvent code src data s) := by
  unfold logEvent
  extract_lets sev win
  split
  · exact Reports.of_ev _ _
  · exact (reports_reportEvent ..).trans (reports_logRecord ..)

theorem reports_logLimited (code key data : Nat) (s : State) : Reports s (logLimited code key data s) := by
  unfold logLimited
  split
  · exact Reports.of_ev _ _
  · exact (Reports.of_ev _ _).trans (reports_logEvent ..)

theorem reports_degradedReport (why : Nat) (s : State) : Reports s (degradedReport why s) := by
  unfold degradedReport
  split
  · exact ((Reports.of_ev _ _).trans (reports_alert ..)).trans (reports_raise ..)
  · exact Reports.refl s

end Sys2Proof.Machine
end

