-- ==== Sys2Proof/Laws/Answer.lean ====
section
/-! SUPPORT. What the answer of a command can do, said once. -/

namespace Sys2Proof.Machine

/-- Reporting goes on after the mailbox was changed. -/
theorem Reports.over_mail {s t : State} (m : Mail) (h : Reports { s with mail := m } t) :
    Reports { s with mail := t.mail } t := by
  have e : t.mail = m := h.mail
  rw [e]; exact h

/-- Every answer is `Answered`, whatever the status, the reason and the reply. -/
theorem answered_answer (o : Origin) (status reason : Nat) (reply : Bytes) (s : State) :
    Answered o status reason s (answer o status reason reply s) := by
  unfold answer
  cases hf : s.mail.accepted.find? (fun a => a.origin == o) with
  | none =>
    refine ⟨Reports.refl s, ?_, rfl, ?_, fun n _ => rfl⟩
    · refine (List.filter_eq_self.2 fun a ha => ?_).symm
      have := List.find?_eq_none.1 hf a ha
      simpa using this
    · intro n a ho h; cases ho; rw [hf] at h; cases h
  | some a =>
    cases o with
    | slot n =>
      dsimp only
      by_cases hm : a.mute
      · rw [if_pos hm]
        refine ⟨Reports.refl _, rfl, rfl, ?_, fun n _ => rfl⟩
        intro m b ho hb hm'
        cases ho; rw [hf] at hb; cases hb; rw [hm] at hm'; cases hm'
      · rw [if_neg hm]
        have key : ∀ u : State, Reports { s with mail := { s.mail.drop (.slot n) with
            slots := Tab.set {} s.mail.slots n ((Tab.get {} s.mail.slots n).answered status reason reply (now s)) } } u →
            Answered (.slot n) status reason s u := by
          intro u hu
          have em : u.mail = _ := hu.mail
          refine ⟨Reports.over_mail _ hu, by rw [em]; rfl, by rw [em]; rfl, ?_, ?_⟩
          · intro m b ho _ _
            cases ho
            rw [em]
            simp [Slot.answered]
          · intro m hm
            have : m ≠ n := fun e => hm (by rw [e])
            rw [em]
            simp [Tab.get_set, this]
        apply key
        refine Reports.of_ite _ (Reports.trans ?_ (reports_raise ..)) ?_ <;> exact reports_traceRec ..
    | relay dev mseq =>
      dsimp only
      have key : ∀ u : State, Reports { s with mail := s.mail.drop (.relay dev mseq) } u →
          Answered (.relay dev mseq) status reason s u := by
        intro u hu
        have em : u.mail = _ := hu.mail
        refine ⟨Reports.over_mail _ hu, by rw [em]; rfl, by rw [em]; rfl, ?_, ?_⟩
        · intro m b ho; cases ho
        · intro m _; rw [em]; rfl
      apply key
      exact (reports_traceRec ..).trans (reports_sendMailbox ..)

theorem answered_answerOk (o : Origin) (reply : Bytes) (s : State) : Answered o 1 0 s (answerOk o reply s) :=
  answered_answer ..

theorem answered_refuse (o : Origin) (f : Fail) (s : State) : Answered o 2 f.reason s (refuse o f s) :=
  answered_answer ..

theorem answered_fail (o : Origin) (f : Fail) (s : State) : Answered o 3 f.reason s (fail o f s) :=
  answered_answer ..

/-- A checked command that passes runs. -/
theorem command_run {o : Origin} {code : Nat} {check : Bytes → State → List Fail} {run : Bytes → State → State}
    {s : State} {a : Accepted} (ha : accepted s o code = some a) (hc : pickFail (check a.payload s) = none) :
    command o code check run s = run a.payload s := by
  simp [command, ha, hc]

/-- A checked command that breaks a rule is refused for the one that `pickFail` names. -/
theorem command_refused {o : Origin} {code : Nat} {check : Bytes → State → List Fail} {run : Bytes → State → State}
    {s : State} {a : Accepted} {f : Fail} (ha : accepted s o code = some a) (hc : pickFail (check a.payload s) = some f) :
    command o code check run s = refuse o f s := by
  simp [command, ha, hc]

end Sys2Proof.Machine
end

