-- ==== Sys2Proof/Laws/Cells.lean ====
section
/-! SUPPORT. What an access to memory can do, said once for each operation of the cells, the lines and the homes: it
touches the stacked memory, the caches and reporting, nothing else, and it keeps memory in its canonical form. -/

namespace Sys2Proof.Machine

/-- From `s` to `t` memory was accessed, and its canonical form kept. -/
structure Touched (s t : State) : Prop where
  accessed  : Accessed s t
  canonical : MemoryCanonical s → MemoryCanonical t

theorem Touched.of_reports {s t : State} (h : Reports s t) : Touched s t := by
  refine ⟨?_, fun c => ?_⟩
  · have e : ({ s with stack := t.stack, cache := t.cache, waits := t.waits, fresh := t.fresh } : State) = s := by
      rw [h.stack, h.cache, h.waits, h.fresh]
    unfold Accessed
    rw [e]
    exact h
  · unfold MemoryCanonical
    rw [h.stack]
    exact c

theorem Touched.refl (s : State) : Touched s s := Touched.of_reports (Reports.refl s)

theorem Accessed.trans {s t u : State} (h : Accessed s t) (k : Accessed t u) : Accessed s u := by
  unfold Accessed at *
  refine Reports.trans (t := { t with stack := u.stack, cache := u.cache, waits := u.waits, fresh := u.fresh }) ?_ k
  obtain ⟨h1, h2, h3, h4, h5, h6, h7, h8, h9, h10, h11, h12, h13, h14, h15, h16, h17, h18, h19, h20, h21, h22, h23, h24,
    h25, h26⟩ := h
  exact ⟨h1, h2, h3, h4, h5, h6, h7, rfl, rfl, h10, h11, h12, h13, h14, h15, h16, rfl, rfl, h19, h20, h21, h22, h23, h24,
    h25, h26⟩

theorem Touched.trans {s t u : State} (h : Touched s t) (k : Touched t u) : Touched s u :=
  ⟨h.accessed.trans k.accessed, fun c => k.canonical (h.canonical c)⟩

/-- A state that differs in the stacked memory, which stays canonical. -/
theorem Touched.of_stack (s : State) (k : Stack)
    (h : MemoryCanonical s → Tab.wf 0 k.mem = true ∧ Tab.wf {} k.mark = true) : Touched s { s with stack := k } :=
  ⟨Reports.refl _, h⟩

/-- A state that differs in the caches. -/
theorem Touched.of_cache (s : State) (c : Caches) : Touched s { s with cache := c } := ⟨Reports.refl _, id⟩

/-- A state in which an access waits, or free values were used. -/
theorem Touched.of_waits (s : State) (b : Bool) : Touched s { s with waits := b } := ⟨Reports.refl _, id⟩
theorem Touched.of_fresh (s : State) (n : Nat) : Touched s { s with fresh := n } := ⟨Reports.refl _, id⟩

/-- A state that differs in counters and other reporting, in output appended. -/
theorem Touched.of_out (s : State) (l : List Output) : Touched s { s with out := s.out ++ l } :=
  Touched.of_reports (by constructor <;> first | rfl | (intro _; rfl) | exact ⟨l, rfl⟩ | exact ⟨[], by simp⟩)

theorem Touched.of_ite {s : State} (c : Prop) [Decidable c] {a b : State} (ha : Touched s a) (hb : Touched s b) :
    Touched s (if c then a else b) := by
  split
  · exact ha
  · exact hb

/-- Accesses one after another, the state first in what is passed on. -/
theorem Touched.fold {α β : Type} (l : List α) (f : State × β → α → State × β) (a : State × β)
    (h : ∀ a x, Touched a.1 (f a x).1) : Touched a.1 (l.foldl f a).1 := by
  induction l generalizing a with
  | nil => exact Touched.refl _
  | cons x l ih => exact (h a x).trans (ih (f a x))

/-- A state paired with an answer. -/
theorem Touched.pair {α : Type} {s t : State} {x : α} (h : Touched s t) : Touched s (t, x).1 := h

theorem Touched.of_iteFst {α : Type} {s : State} (c : Prop) [Decidable c] {t : State} {x : α} {b : State × α}
    (ha : Touched s t) (hb : Touched s b.1) : Touched s (if c then (t, x) else b).1 := by
  split
  · exact ha
  · exact hb

theorem Touched.foldState {α : Type} (l : List α) (f : State → α → State) (s : State)
    (h : ∀ s x, Touched s (f s x)) : Touched s (l.foldl f s) := by
  induction l generalizing s with
  | nil => exact Touched.refl _
  | cons x l ih => exact (h s x).trans (ih (f s x))

theorem touched_tally (cls unit slot n : Nat) (s : State) : Touched s (tally cls unit slot n s) :=
  Touched.of_reports (reports_tally ..)

theorem touched_logEvent (code src d : Nat) (s : State) : Touched s (logEvent code src d s) :=
  Touched.of_reports (reports_logEvent ..)

theorem touched_logLimited (code key d : Nat) (s : State) : Touched s (logLimited code key d s) :=
  Touched.of_reports (reports_logLimited ..)

/-! ### Cells -/

/-- Storing bytes keeps the canonical form, and marks alone are left. -/
theorem Stack.store_wf (k : Stack) (a : Nat) (bs : Bytes) (h : Tab.wf 0 k.mem = true) : Tab.wf 0 (k.store a bs).mem = true := by
  unfold Stack.store
  dsimp only
  generalize k.mem = m at h ⊢
  generalize bs.zipIdx = l
  induction l generalizing m with
  | nil => exact h
  | cons x l ih => exact ih _ (Tab.wf_set _ _ _ _ h)

@[simp] theorem Stack.store_mark (k : Stack) (a : Nat) (bs : Bytes) : (k.store a bs).mark = k.mark := rfl

theorem Stack.mark_wf (k : Stack) (a : Nat) (m : Mark) (h : Tab.wf {} k.mark = true) : Tab.wf {} (k.mark' a m).mark = true :=
  Tab.wf_set _ _ _ _ h

@[simp] theorem Stack.mark_mem (k : Stack) (a : Nat) (m : Mark) : (k.mark' a m).mem = k.mem := rfl

theorem touched_store (s : State) (a b : Nat) (bs : Bytes) (m : Mark) :
    Touched s { s with stack := (s.stack.store a bs).mark' b m } :=
  Touched.of_stack _ _ fun h => ⟨Stack.store_wf _ _ _ h.1, Stack.mark_wf _ _ _ h.2⟩

theorem touched_mark (s : State) (a : Nat) (m : Mark) : Touched s { s with stack := s.stack.mark' a m } :=
  Touched.of_stack _ _ fun h => ⟨h.1, Stack.mark_wf _ _ _ h.2⟩

theorem touched_setShank (t : Nat) (f : Shank → Shank) (s : State) : Touched s (setShank t f s) :=
  Touched.of_stack _ _ id

theorem touched_setSide (i : Nat) (f : Side → Side) (s : State) : Touched s (setSide i f s) := Touched.of_stack _ _ id

theorem touched_setTier (i : Nat) (f : Tier → Tier) (s : State) : Touched s (setTier i f s) := Touched.of_stack _ _ id

theorem touched_shankError (t : Nat) (s : State) : Touched s (shankError t s) := by
  unfold shankError
  extract_lets k u
  have h : Touched s u := (touched_setShank ..).trans (touched_tally ..)
  exact Touched.of_ite _ (h.trans (touched_logEvent ..)) h

theorem touched_sideError (i : Nat) (s : State) : Touched s (sideError i s) := by
  unfold sideError
  extract_lets k u
  have h : Touched s u := (touched_setSide ..).trans (touched_tally ..)
  exact Touched.of_ite _ (h.trans (touched_logEvent ..)) h

theorem touched_count (c : Checker) (s : State) : Touched s (c.count s) := by
  cases c
  · exact touched_shankError ..
  · exact touched_sideError ..

/-- The next row to be copied, chosen. -/
theorem touched_nextCopy (ok : Nat × Nat × Nat → Bool) (f : State → State)
    (g : Nat × Nat × Nat → List (Nat × Nat × Nat) → State → State) (hf : ∀ s, Touched s (f s))
    (hg : ∀ r l s, Touched s (g r l s)) (rows : List (Nat × Nat × Nat)) (s : State) :
    Touched s (nextCopy ok f g rows s) := by
  induction rows generalizing s with
  | nil => exact Touched.refl s
  | cons r l ih => exact Touched.of_ite _ (hg ..) ((hf s).trans (ih _))

theorem touched_shankExhausted (t : Nat) (s : State) : Touched s (shankExhausted t s) :=
  Touched.of_ite _ (Touched.refl s) ((touched_setShank ..).trans (touched_logEvent ..))

theorem touched_sideExhausted (i : Nat) (s : State) : Touched s (sideExhausted i s) :=
  Touched.of_ite _ (Touched.refl s) ((touched_setSide ..).trans (touched_logEvent ..))

theorem touched_copyShankRow (t : Nat) (rows : List (Nat × Nat × Nat)) (s : State) : Touched s (copyShankRow t rows s) :=
  (touched_setShank ..).trans (touched_nextCopy _ _ _ (touched_shankExhausted t) (fun _ _ _ => touched_setShank ..) ..)

theorem touched_copySideRow (i : Nat) (rows : List (Nat × Nat × Nat)) (s : State) : Touched s (copySideRow i rows s) :=
  (touched_setSide ..).trans (touched_nextCopy _ _ _ (touched_sideExhausted i) (fun _ _ _ => touched_setSide ..) ..)

theorem touched_startRemap (t m b r : Nat) (s : State) : Touched s (startRemap t m b r s) :=
  Touched.of_ite _ (Touched.refl s) (Touched.of_ite _ (touched_setShank ..) (touched_copyShankRow ..))

theorem touched_startSideRemap (i p b r : Nat) (s : State) : Touched s (startSideRemap i p b r s) :=
  Touched.of_ite _ (Touched.refl s) (Touched.of_ite _ (touched_setSide ..) (touched_copySideRow ..))

theorem touched_remap (c : Checker) (s : State) : Touched s (c.remap s) := by
  cases c
  · exact touched_startRemap ..
  · exact touched_startSideRemap ..

theorem touched_uncorrectable (c : Checker) (a : Nat) (s : State) : Touched s (c.uncorrectable a s) := by
  cases c <;> exact (touched_tally ..).trans (touched_logEvent ..)

/-- A sector read at its checker. -/
theorem touched_readSector (c : Checker) (a : Nat) (errs again : List CellError) (s : State) :
    Touched s (readSector c a errs again s).1 := by
  unfold readSector
  extract_lets m isStack vote rewrite m' u
  have h0 : Touched s u := Touched.of_ite _ ((touched_mark ..).trans (touched_count ..)) (Touched.refl s)
  clear_value u isStack vote m'
  split
  · exact h0
  · dsimp only
    split
    · exact h0
    · exact h0
    · have k (w : State) (x : Nat) (p : Bytes) (q : Mark) :
          Touched w (c.count { w with stack := (w.stack.store x p).mark' x q }) :=
        (touched_store ..).trans (touched_count ..)
      split
      · split
        · exact h0.trans ((k ..).trans (touched_remap ..))
        · exact h0.trans (k ..)
      · exact h0.trans (k ..)
    · have k (w : State) (x : Nat) (p : Bytes) (q : Mark) :
          Touched w (c.uncorrectable x { w with stack := (w.stack.store x p).mark' x q }) :=
        (touched_store ..).trans (touched_uncorrectable ..)
      exact h0.trans ((k u a _ _).trans (Touched.of_ite _ (touched_remap ..) (Touched.refl _)))

/-- A sector write at its checker. -/
theorem touched_writeSector (c : Checker) (a : Nat) (new : List (Option Byte)) (poison : Bool) (errs : List CellError)
    (s : State) : Touched s (writeSector c a new poison errs s) := by
  unfold writeSector
  extract_lets m isStack k u vote v
  have h0 : Touched s u := by cases c <;> exact touched_tally ..
  have h1 : Touched s v := Touched.of_ite _ (h0.trans (touched_count ..)) h0
  clear_value v u isStack vote
  split
  · exact Touched.of_ite _ (touched_mark ..) (Touched.refl s)
  · split
    · exact touched_store ..
    · split
      · exact h1.trans (touched_store ..)
      · dsimp only
        split
        · exact h1.trans (touched_store ..)
        · exact h1.trans ((touched_store ..).trans (touched_count ..))
        · exact h1.trans (touched_store ..)
        · exact h1.trans ((touched_store ..).trans (touched_uncorrectable ..))

/-! ### Lines -/

theorem touched_lostAccess (p : Place) (s : State) : Touched s (lostAccess p s) := by
  unfold lostAccess
  split
  · exact Touched.of_ite _ ((touched_tally ..).trans (touched_logLimited ..)) (Touched.refl s)
  · exact Touched.refl s

theorem touched_openRow (t l : Nat) (s : State) : Touched s (openRow t l s) := Touched.of_stack _ _ id

theorem touched_sideMoves (i line n : Nat) (s : State) : Touched s (sideMoves i line n s) := touched_setSide ..

theorem touched_crossDone (t : Nat) (s : State) : Touched s (crossDone t s) := Touched.of_ite _ (Touched.of_fresh ..) (Touched.refl s)

theorem touched_endTry (t : Nat) (w : Bool) (a : Nat) (s : State) : Touched s (endTry t w a s) :=
  Touched.of_ite _ (touched_setShank ..) (Touched.refl s)

/-- A line read at its tier or side-stack controller. -/
theorem touched_readLine (p : Place) (a sectors : Nat) (errs again : List CellError) (s : State) :
    Touched s (readLine p a sectors errs again s).1 := by
  have sectorsRead (q : Checker) (u : State) := Touched.fold (List.range 4) (fun (acc : State × LineRead) i =>
      if bitB sectors i then
        let r := readSector q (a + 32 * i) (errsOf errs i) (errsOf again i) acc.1
        (r.1, { data := acc.2.data ++ r.2.data
                poison := acc.2.poison + if r.2.poison then 2 ^ i else 0
                dead := acc.2.dead + if r.2.dead then 2 ^ i else 0 })
      else (acc.1, { acc.2 with data := acc.2.data ++ zeros 32 })) (u, ({ data := [] } : LineRead)) (by
        intro acc i
        dsimp only
        split
        · exact touched_readSector ..
        · exact Touched.refl _)
  unfold readLine
  by_cases h : placeLost s p = true
  · rw [if_pos h]
    exact touched_lostAccess ..
  · rw [if_neg h]
    cases p with
    | stack t l =>
      exact ((touched_endTry t false a s).trans ((touched_tally 3 t 0 1 _).trans (touched_openRow t l _))).trans
        ((sectorsRead _ _).trans (touched_tally ..))
    | side i o => exact ((touched_tally 7 i 0 1 s).trans (touched_sideMoves ..)).trans (sectorsRead _ _)
    | hole => exact sectorsRead _ _

/-- A line written at its tier or side-stack controller. -/
theorem touched_writeLine (p : Place) (a : Nat) (data : List (Option Byte)) (stamps : Nat) (errs : List CellError) (s : State) :
    Touched s (writeLine p a data stamps errs s) := by
  have sectorsWritten (q : Checker) (u : State) := Touched.foldState (List.range 4) (fun s i =>
    writeSector q (a + 32 * i) ((data.drop (32 * i)).take 32) (bitB stamps i) (errsOf errs i) s) u
    fun _ _ => touched_writeSector ..
  unfold writeLine
  by_cases h : placeLost s p = true
  · rw [if_pos h]
    exact touched_lostAccess ..
  · rw [if_neg h]
    cases p with
    | stack t l =>
      exact ((touched_endTry t true a s).trans ((touched_tally 3 t 1 1 _).trans (touched_openRow t l _))).trans
        (sectorsWritten _ _)
    | side i o => exact ((touched_tally 7 i 1 1 s).trans (touched_sideMoves ..)).trans (sectorsWritten _ _)
    | hole => exact sectorsWritten _ _

/-- A line read across its shank or at its controller, or an access that waits. -/
theorem touched_crossRead (p : Place) (a sectors : Nat) (errs again : List CellError) (s : State) :
    Touched s (crossRead p a sectors errs again s).1 := by
  refine Touched.of_iteFst _ (Touched.of_waits ..) ?_
  cases p with
  | stack t l => exact (touched_readLine ..).trans (touched_crossDone ..)
  | side i off => exact touched_readLine ..
  | hole => exact touched_readLine ..

/-- A line written across its shank or at its controller. -/
theorem touched_passWrite (p : Place) (a : Nat) (data : List (Option Byte)) (stamps : Nat) (errs : List CellError) (s : State) :
    Touched s (passWrite p a data stamps errs s) := by
  cases p with
  | stack t l => exact (touched_crossDone ..).trans (touched_writeLine ..)
  | side i off => exact touched_writeLine ..
  | hole => exact touched_writeLine ..

theorem touched_holdWrite (req : Requester) (p : Place) (a : Nat) (data : List (Option Byte)) (stamps : Nat) (s : State) :
    Touched s (holdWrite req p a data stamps s) := by
  cases p with
  | stack t l => exact touched_setShank ..
  | side i o => exact touched_setSide ..
  | hole => exact Touched.refl s

/-- A line written likewise. -/
theorem touched_crossWrite (req : Requester) (p : Place) (a : Nat) (data : List (Option Byte)) (stamps : Nat) (s : State) :
    Touched s (crossWrite req p a data stamps s) := Touched.of_ite _ (Touched.of_ite _ (touched_holdWrite ..) (Touched.of_waits ..)) (touched_passWrite ..)

/-- A command held back has touched what it touches, or nothing. -/
theorem touched_heldBack (f : State → State) (s : State) (h : ∀ u, Touched u (f u)) : Touched s (heldBack f s) :=
  Touched.of_ite _ (Touched.refl s) (((Touched.of_waits s false).trans (h _)).trans (Touched.of_waits ..))

/-! ### Homes -/

theorem touched_setLine (t set way : Nat) (v : L2Line) (s : State) : Touched s (setLine t set way v s) := Touched.of_cache ..

theorem touched_touch (t set way : Nat) (s : State) : Touched s (touch t set way s) := Touched.of_cache ..

theorem touched_mesh (s : State) (m : Mesh) : Touched s { s with mesh := m } := Touched.of_reports (reports_mesh ..)

theorem touched_askHome (req : Requester) (h : Endpoint) (n : Nat) (s : State) : Touched s (askHome req h n s) := by
  unfold askHome
  split
  · exact touched_mesh ..
  · exact Touched.refl s

theorem touched_homeReply (req : Requester) (h : Endpoint) (n : Nat) (s : State) : Touched s (homeReply req h n s) := by
  unfold homeReply
  split
  · exact touched_mesh ..
  · exact Touched.refl s

/-- The request and its response on the way to a home and back. -/
theorem touched_asked (req : Requester) (h : Endpoint) (m n : Nat) (s : State) :
    Touched s (homeReply req h n (askHome req h m s)) := (touched_askHome ..).trans (touched_homeReply ..)

theorem touched_notePlain (a : Nat) (s : State) : Touched s (notePlain a s) := Touched.of_stack _ _ id

/-- An add-to-line on a line that is present whole. -/
theorem touched_addAt (a code mask : Nat) (operand : Bytes) (acc : State × L2Line) :
    Touched acc.1 (addAt a code mask operand acc).1 := by
  have h : Touched acc.1 { acc.1 with stack := { acc.1.stack with
      adds := Tab.set 0 acc.1.stack.adds (a / 128) (addKinds acc.1 a code) } } := Touched.of_stack _ _ id
  exact Touched.of_iteFst _ (h.trans (Touched.of_fresh ..)) (Touched.pair h)

theorem touched_writeBack (t : Nat) (v : L2Line) (s : State) : Touched s (writeBack t v s) := by
  unfold writeBack
  split
  · exact Touched.refl s
  · exact Touched.of_ite _ ((touched_tally ..).trans (touched_crossWrite ..)) (Touched.refl s)

theorem touched_evict (t set way : Nat) (s : State) : Touched s (evict t set way s) := by
  unfold evict
  exact Touched.of_ite _ ((touched_tally ..).trans ((touched_writeBack ..).trans (touched_setLine ..))) (Touched.refl s)

theorem touched_allocate (t l : Nat) (v : L2Line) (s : State) : Touched s (allocate t l v s) := by
  unfold allocate
  refine Touched.trans (Touched.trans ?_ (touched_setLine ..)) (touched_touch ..)
  exact Touched.of_ite _ (Touched.refl s) (touched_evict ..)

theorem touched_dropLines (f : Nat → L2Line → Bool) (s : State) : Touched s (dropLines f s) := Touched.of_cache ..

theorem touched_flushLines (f : Nat → L2Line → Bool) (s : State) : Touched s (flushLines f s) :=
  (Touched.foldState _ _ _ fun _ _ => touched_writeBack ..).trans (touched_dropLines ..)

theorem touched_cleanLines (s : State) : Touched s (cleanLines s) := by
  unfold cleanLines
  refine Touched.trans (Touched.foldState _ _ _ fun s x => ?_) (Touched.of_cache ..)
  exact Touched.of_ite _ (touched_writeBack ..) (Touched.refl s)

theorem touched_fillLine (t l a : Nat) (s : State) : Touched s (fillLine t l a s).1 := touched_crossRead ..

theorem touched_thrashCount (t : Nat) (p m : Bool) (s : State) : Touched s (thrashCount t p m s) :=
  Touched.of_ite _ (Touched.refl s) (Touched.of_cache ..)

theorem touched_countAccess (t l slot : Nat) (s : State) : Touched s (countAccess t l slot s) :=
  (touched_thrashCount ..).trans (touched_tally ..)

theorem touched_refusedAccess (req : Requester) (a : Nat) (acc : Access) (s : State) :
    Touched s (refusedAccess req a s acc) := by
  unfold refusedAccess
  split
  · exact Touched.refl s
  · exact touched_logLimited ..
  · refine Touched.trans ?_ (touched_logLimited ..)
    split
    · exact touched_tally ..
    · exact Touched.refl s

theorem touched_deadReads (req : Requester) (a dead : Nat) (s : State) : Touched s (deadReads req a dead s) := by
  unfold deadReads
  refine Touched.of_ite _ (Touched.refl s) (Touched.trans ?_ (touched_logLimited ..))
  split
  · exact touched_tally ..
  · exact Touched.refl s

/-! ### Requests held at a slice -/

theorem touched_giveLine (req : Requester) (home : Endpoint) (a : Nat) (r : LineRead) (s : State) :
    Touched s (giveLine req home a r s) :=
  (Touched.of_out ..).trans ((touched_homeReply ..).trans (touched_deadReads ..))

theorem touched_giveAck (req : Requester) (home : Endpoint) (s : State) : Touched s (giveAck req home s) :=
  (Touched.of_out ..).trans (touched_homeReply ..)

theorem touched_sliceRefuse (req : Requester) (a : Nat) (acc : Access) (s : State) :
    Touched s (sliceRefuse req a acc s) :=
  ((touched_refusedAccess ..).trans (touched_homeReply ..)).trans (Touched.of_out ..)

/-- A held request served. -/
theorem touched_serveMiss (t a : Nat) (q : MissReq) (acc : State × L2Line) :
    Touched acc.1 (serveMiss t a q acc).1 := by
  cases q with
  | read req b => exact touched_giveLine ..
  | write req d => exact (touched_giveAck ..).trans (touched_notePlain ..)
  | post req d k => exact touched_notePlain ..
  | add req c m d => exact ((touched_giveAck ..).trans (touched_tally ..)).trans (touched_addAt a c m d (_, acc.2))

theorem touched_waitLate (t l : Nat) (q : MissReq) (s : State) : Touched s (waitLate t l q s) := Touched.of_cache ..

theorem touched_joinMiss (t l : Nat) (q : MissReq) (s : State) : Touched s (joinMiss t l q s) := by
  unfold joinMiss
  split
  · exact Touched.of_ite _ ((Touched.of_cache ..).trans (touched_tally ..)) (touched_waitLate ..)
  · exact Touched.of_ite _ ((touched_waitLate ..).trans (touched_tally ..)) (Touched.of_cache ..)

theorem touched_answerLost (p : Place) (q : MissReq) (s : State) : Touched s (answerLost p q s) := by
  cases q with
  | read req b => exact (touched_lostAccess ..).trans (touched_giveLine ..)
  | write req d => exact (touched_lostAccess ..).trans (touched_giveAck ..)
  | post req d k => exact touched_lostAccess ..
  | add req c m d => exact (touched_lostAccess ..).trans (touched_giveAck ..)

theorem touched_countSlot (t : Nat) (k : Option Nat) (s : State) :
    Touched s (match k with | some k => tally 2 t k 1 s | none => s) := by
  cases k with
  | none => exact Touched.refl s
  | some k => exact touched_tally ..

/-- A request that has arrived at its slice. -/
theorem touched_enterMiss (t l a : Nat) (q : MissReq) (s : State) : Touched s (enterMiss t l a q s) := by
  unfold enterMiss
  refine Touched.of_ite _ (touched_answerLost ..) (Touched.of_ite _ (touched_waitLate ..)
    (Touched.of_ite _ (touched_joinMiss ..) ?_))
  split
  · refine Touched.of_ite _ ?_ ((touched_countSlot t _ s).trans (touched_joinMiss ..))
    exact (touched_countSlot t _ s).trans
      ((touched_serveMiss t a _ (_, _)).trans ((touched_setLine ..).trans (touched_touch ..)))
  · exact (touched_giveAck ..).trans ((touched_notePlain ..).trans ((touched_tally ..).trans (touched_allocate ..)))
  · exact (touched_countSlot t _ s).trans (touched_joinMiss ..)

theorem touched_retryLate (t : Nat) (s : State) : Touched s (retryLate t s) :=
  (Touched.of_cache s _).trans (Touched.foldState _ _ _ fun _ _ => Touched.foldState _ _ _ fun _ _ => touched_enterMiss ..)

/-- A miss entry filled. -/
theorem touched_completeEntry (t l : Nat) (r : LineRead) (s : State) : Touched s (completeEntry t l r s) := by
  have served (reqs : List MissReq) (a : Nat) (acc : State × L2Line) :=
    Touched.fold reqs (fun acc q => serveMiss t a q acc) acc fun _ _ => touched_serveMiss ..
  unfold completeEntry
  extract_lets own reqs a c u
  have h : Touched s u := Touched.of_cache ..
  clear_value u
  refine h.trans (Touched.of_ite _ ?_ ?_)
  · exact (Touched.foldState _ _ _ fun _ _ => touched_answerLost ..).trans (touched_retryLate ..)
  · exact (served _ _ (u, _)).trans
      ((Touched.of_ite _ (touched_allocate ..) (Touched.refl _)).trans (touched_retryLate ..))

theorem touched_serveEarlier (t l : Nat) (s : State) : Touched s (serveEarlier t l s) :=
  Touched.of_ite _ ((touched_crossRead ..).trans ((touched_tally ..).trans (touched_completeEntry ..)))
    (Touched.of_ite _ (Touched.of_waits ..) (Touched.refl s))

theorem touched_needEntry (t : Nat) (s : State) : Touched s (needEntry t s) :=
  Touched.of_ite _ (Touched.of_waits ..) (Touched.refl s)

/-- A request at its home slice. -/
theorem touched_sliceRequest (t l a : Nat) (q : MissReq) (s : State) : Touched s (sliceRequest t l a q s) :=
  (touched_askHome ..).trans
    (Touched.of_ite _ (touched_answerLost ..) ((touched_thrashCount ..).trans (touched_enterMiss ..)))

/-- A request that a tile issues. -/
theorem touched_l2Row (req : Requester) (a : Nat) (q : MissReq) (s : State) : Touched s (l2Row req a q s) := by
  refine Touched.of_ite _ ?_ (Touched.refl s)
  unfold slicePath
  split
  · exact touched_sliceRequest ..
  · exact Touched.refl s
  · exact touched_sliceRefuse ..

/-! ### The home as larger commands meet it -/

theorem touched_sliceRead (req : Requester) (t l a sectors : Nat) (s : State) :
    Touched s (sliceRead req t l a sectors s).1 := by
  have filled (u : State) : Touched u (fillLine t l a (needEntry t u)).1 := (touched_needEntry ..).trans (touched_fillLine ..)
  unfold sliceRead
  dsimp only
  have h := (touched_countAccess t l (if allocates req then (if holdsWhole (presentLine s t l) sectors then 0 else 1) else 7) s).trans
    (touched_serveEarlier t l _)
  generalize serveEarlier t l _ = u at h
  cases findWay u t l with
  | some w =>
    refine Touched.of_iteFst _ (h.trans (touched_touch ..)) (Touched.pair (h.trans ?_))
    exact (filled u).trans ((touched_setLine ..).trans (touched_touch ..))
  | none => exact Touched.pair (h.trans ((filled u).trans (Touched.of_ite _ (touched_allocate ..) (Touched.refl _))))

theorem touched_viewLine (req : Requester) (a sectors : Nat) (s : State) : Touched s (viewLine req a sectors s).1 := by
  unfold viewLine
  dsimp only
  have h := touched_asked req (locate s a).home 1 2 s
  generalize homeReply req (locate s a).home 2 (askHome req (locate s a).home 1 s) = u at h
  cases locate u a with
  | hole => exact Touched.pair h
  | side i o => exact h.trans (touched_crossRead ..)
  | stack t l => exact Touched.of_iteFst _ (h.trans (touched_lostAccess ..)) (h.trans (touched_sliceRead ..))

/-- A read at a home. -/
theorem touched_homeRead (req : Requester) (a sectors : Nat) (s : State) : Touched s (homeRead req a sectors s).1 := by
  unfold homeRead
  cases accessOf s a with
  | ok => exact Touched.pair ((touched_viewLine ..).trans (touched_deadReads ..))
  | _ => exact Touched.pair ((touched_asked ..).trans (touched_refusedAccess ..))

theorem touched_sliceWrite (req : Requester) (t l a : Nat) (data : List (Option Byte)) (stamps : Nat) (s : State) :
    Touched s (sliceWrite req t l a data stamps s) := by
  unfold sliceWrite
  dsimp only
  have h := touched_countAccess t l 3 s
  generalize countAccess t l 3 s = u at h
  refine Touched.of_ite _ (h.trans (Touched.of_waits ..)) (Touched.of_ite _ (h.trans (touched_waitLate ..))
    (Touched.of_ite _ (h.trans (touched_joinMiss ..)) ?_))
  have k := h.trans (touched_notePlain a u)
  cases findWay s t l with
  | some w => exact k.trans ((touched_setLine ..).trans (touched_touch ..))
  | none => exact k.trans (Touched.of_ite _ (touched_allocate ..) (touched_crossWrite ..))

/-- A write at a home. -/
theorem touched_homeWrite (req : Requester) (a : Nat) (data : List (Option Byte)) (stamps : Nat) (s : State) :
    Touched s (homeWrite req a data stamps s).1 := by
  unfold homeWrite
  dsimp only
  have h := touched_asked req (locate s a).home 2 1 s
  generalize homeReply req (locate s a).home 1 (askHome req (locate s a).home 2 s) = u at h
  generalize a / 128 * 128 = l
  cases accessOf u a with
  | ok =>
    dsimp only
    cases locate u l with
    | stack t i => exact Touched.pair (h.trans (Touched.of_ite _ (touched_lostAccess (.stack t i) u) (touched_sliceWrite ..)))
    | _ => exact Touched.pair (h.trans ((touched_notePlain ..).trans (touched_crossWrite ..)))
  | _ => exact Touched.pair (h.trans (touched_refusedAccess ..))

/-- An add-to-line at a side-stack controller. -/
theorem touched_sideAdd (i off a code mask : Nat) (operand : Bytes) (errs again : List CellError) (s : State) :
    Touched s (sideAdd i off a code mask operand errs again s) := by
  refine Touched.of_ite _ (touched_lostAccess (.side i off) s) ?_
  exact ((touched_readLine ..).trans (touched_tally ..)).trans
    ((touched_addAt a code mask operand (_, _)).trans (touched_writeLine ..))

/-- A line filled, added to and placed. -/
theorem touched_addFilled (t l a code mask : Nat) (operand : Bytes) (s : State) :
    Touched s (allocate t l (addAt a code mask operand (fillLine t l a s)).2 (addAt a code mask operand (fillLine t l a s)).1) :=
  (touched_fillLine t l a s).trans ((touched_addAt a code mask operand _).trans (touched_allocate ..))

/-- An add-to-line at a home. -/
theorem touched_homeAdd (req : Requester) (a code mask : Nat) (operand : Bytes) (s : State) :
    Touched s (homeAdd req a code mask operand s).1 := by
  unfold homeAdd
  dsimp only
  have h := touched_asked req (locate s a).home 2 1 s
  generalize homeReply req (locate s a).home 1 (askHome req (locate s a).home 2 s) = u at h
  cases accessOf u a with
  | ok =>
    dsimp only
    cases locate u a with
    | stack t l =>
      refine Touched.of_iteFst _ (h.trans (touched_lostAccess (.stack t l) u)) (Touched.pair (h.trans ?_))
      have k := (touched_countAccess t l (if code = 5 then 5 else 4) u).trans (touched_serveEarlier t l _)
      generalize serveEarlier t l _ = v at k
      exact k.trans (Touched.trans (Touched.of_ite _ (Touched.refl v) (touched_needEntry t v))
        (touched_addFilled t l a code mask operand _))
    | side i o => exact Touched.pair (h.trans (Touched.of_ite _ (Touched.of_waits ..) (touched_sideAdd ..)))
    | hole => exact Touched.pair h
  | _ => exact Touched.pair (h.trans (touched_refusedAccess ..))

/-! ### Transfers of the shanks and the side-stack controllers -/

theorem touched_stackRead (req : Requester) (t l a sectors : Nat) (errs again : List CellError) (cross : List LaneError)
    (s : State) : Touched s (stackRead req t l a sectors errs again cross s) :=
  (touched_readLine ..).trans (Touched.of_out ..)

theorem touched_stackWrite (req : Requester) (t l a : Nat) (data : List (Option Byte)) (errs : List CellError)
    (cross : List LaneError) (s : State) : Touched s (stackWrite req t l a data errs cross s) :=
  ((touched_notePlain ..).trans (touched_writeLine ..)).trans (Touched.of_out ..)

theorem touched_noteTry (req : Requester) (t : Nat) (write : Bool) (line : Nat) (s : State) :
    Touched s (noteTry req t write line s) := (touched_tally ..).trans (touched_setShank ..)

/-- A held access of a shank reissued, or held on. -/
theorem touched_reissue (t : Nat) (h : HeldAccess) (s : State) : Touched s (reissue t h s) := by
  unfold reissue
  split
  · refine Touched.of_ite _ (touched_setShank ..) ?_
    split
    · exact Touched.of_ite _ (touched_noteTry ..) (touched_stackRead ..)
    · exact Touched.of_ite _ (touched_passWrite ..) (Touched.of_ite _ (touched_noteTry ..) (touched_stackWrite ..))
    · exact Touched.refl s
  · exact Touched.refl s

theorem touched_reissueShank (t : Nat) (s : State) : Touched s (reissueShank t s) :=
  (touched_setShank ..).trans (Touched.foldState _ _ _ fun _ _ => touched_reissue ..)

/-- A side-stack access served. -/
theorem touched_serveSideLine (i off : Nat) (h : HeldAccess) (s : State) : Touched s (serveSideLine i off h s) := by
  unfold serveSideLine
  extract_lets line
  split
  · exact (touched_readLine ..).trans (touched_giveLine ..)
  · refine Touched.of_ite _ ?_ (Touched.trans ?_ (touched_giveAck ..)) <;>
      exact (Touched.of_ite _ (Touched.refl s) (touched_notePlain ..)).trans (touched_writeLine ..)
  · exact Touched.of_ite _ ((Touched.of_out ..).trans (touched_homeReply ..))
      ((touched_sideAdd ..).trans (touched_giveAck ..))

/-- An access of a side stack served, or held. -/
theorem touched_takeSide (i : Nat) (h : HeldAccess) (s : State) : Touched s (takeSide i h s) := by
  unfold takeSide
  split
  · exact Touched.of_ite _ (Touched.of_ite _ (touched_setSide ..) (touched_serveSideLine ..)) (Touched.refl s)
  · exact Touched.refl s

theorem touched_drainSide (i : Nat) (s : State) : Touched s (drainSide i s) :=
  (touched_setSide ..).trans (Touched.foldState _ _ _ fun _ _ => touched_takeSide ..)

/-! ### Ranges -/

/-- A range of bytes read. -/
theorem touched_readRange (req : Requester) (a n : Nat) (s : State) : Touched s (readRange req a n s).1 := by
  unfold readRange
  refine Touched.fold _ _ (s, ({ data := [] } : RangeRead)) fun acc line => ?_
  dsimp only
  split
  · exact Touched.refl _
  · split <;> exact touched_homeRead ..

/-- A range of bytes written. -/
theorem touched_writeRange (req : Requester) (a : Nat) (bs : List (Option Byte)) (poison : Bool) (s : State) :
    Touched s (writeRange req a bs poison s).1 := by
  unfold writeRange
  refine Touched.fold _ _ (s, Access.ok) fun acc line => ?_
  dsimp only
  split
  · exact Touched.refl _
  · exact touched_homeWrite ..

theorem touched_storeBytes (a : Nat) (bs : Bytes) (s : State) : Touched s (storeBytes a bs s) := touched_writeRange ..

end Sys2Proof.Machine
end

