-- ==== Sys2Proof/Laws/Power.lean ====
section
/-! SUPPORT. What the loss of the core rails, the start of bring-up and a latched shutdown leave, said once. -/

namespace Sys2Proof.Machine

theorem RailsLost.of_reports {s u t : State} (h : RailsLost s u) (r : Reports u t) : RailsLost s t where
  stack := r.stack.trans h.stack
  cache := r.cache.trans h.cache
  obj := r.obj.trans h.obj
  sched := r.sched.trans h.sched
  tiles := r.tiles.trans h.tiles
  awls := r.awls.trans h.awls
  mail := r.mail.trans h.mail
  ledger := by rw [r.bring, h.ledger]
  hints := by rw [r.bring, h.hints]
  ring := by rw [r.shut, h.ring]
  stored := by rw [r.pod]; exact h.stored
  pins := by rw [r.power]; exact h.pins

theorem railsLost_cleared (s : State) : RailsLost s (cleared s) :=
  ⟨rfl, rfl, rfl, rfl, rfl, rfl, rfl, rfl, rfl, rfl, ⟨rfl, rfl⟩, ⟨rfl, rfl⟩⟩

theorem BringupBegun.of_reports {kind : Nat} {s u t : State} (h : BringupBegun kind s u) (r : Reports u t) :
    BringupBegun kind s t where
  lost := h.lost.of_reports r
  phase := by rw [r.power, h.phase]
  rails := by rw [r.power]; exact h.rails
  standby := by rw [r.power]; exact h.standby
  gen := by rw [r.bring, h.gen]
  lastReset := by rw [r.bring, h.lastReset]
  report := by rw [r.bring, h.report]
  others := by rw [r.bring]; exact h.others

theorem begun_beginBringup (kind : Nat) (s : State) : BringupBegun kind s (beginBringup kind s) := by
  unfold beginBringup logInterrupted
  dsimp only
  refine BringupBegun.of_reports ?_
    (Reports.of_ite _ (Reports.trans (reports_logEvent ..) (reports_logEvent ..)) (reports_logEvent ..))
  refine ⟨⟨rfl, rfl, rfl, rfl, rfl, rfl, rfl, rfl, rfl, rfl, ⟨rfl, rfl⟩, ⟨rfl, rfl⟩⟩, rfl, ⟨rfl, rfl, rfl⟩, ⟨rfl, rfl⟩, rfl,
    rfl, rfl, ?_⟩
  intro n hn
  simp [Tab.get, hn]

theorem rerun_up {kind : Nat} {s : State} (h : s.power.phase = .up) : rerun kind s = beginBringup kind s := by
  simp [rerun, h]

theorem latch_first {cause unit peak : Nat} {same : Bool} {s : State} (h : s.power.phase ≠ .latched) :
    latch cause unit peak same s = latchFirst cause unit peak s := by
  unfold latch
  split
  · contradiction
  · rfl

theorem latched_latchFirst (c u pk : Nat) (s : State) : Latched c u s (latchFirst c u pk s) := by
  unfold latchFirst
  dsimp only
  have h : Reports s (alert 0 (logEvent 0x0C01 0 (fld c 0 8 + fld u 8 8) s)) :=
    (reports_logEvent ..).trans (reports_alert ..)
  have ha : bitB (alert 0 (logEvent 0x0C01 0 (fld c 0 8 + fld u 8 8) s)).tele.alert 0 = true := by
    simp [alert, bitB]
  generalize alert 0 (logEvent 0x0C01 0 (fld c 0 8 + fld u 8 8) s) = s1 at h ha
  refine ⟨⟨rfl, rfl, rfl, rfl, rfl, rfl, rfl, ?_, ?_, ?_, ?_, ?_⟩, rfl, rfl, rfl, ?_, ⟨rfl, rfl⟩, ⟨_, rfl, rfl, rfl⟩, ha, ?_, ?_⟩
  · show s1.bring.ledger = _; rw [h.bring]
  · show s1.bring.hints = _; rw [h.bring]
  · show s1.shut.ring = _; rw [h.shut]
  · show s1.pod.stored = _ ∧ s1.pod.saved = _; rw [h.pod]; exact ⟨rfl, rfl⟩
  · show s1.power.perstN = _ ∧ s1.power.smbAddr = _; rw [h.power]; exact ⟨rfl, rfl⟩
  · show s1.power.standby = _; rw [h.power]
  · exact ⟨h.thermal, h.coolant⟩
  · show s1.bring.resetGen = _; rw [h.bring]

/-- Reads of host memory issued change what waits, what is out and the next tag, and give output. -/
structure Issues (s t : State) : Prop where
  pcie : t.pcie = { s.pcie with waiting := t.pcie.waiting, reads := t.pcie.reads, nextTag := t.pcie.nextTag
                                heldRecs := t.pcie.heldRecs, heldMsix := t.pcie.heldMsix, pba := t.pcie.pba }
  rest : t = { s with pcie := t.pcie, out := t.out }

theorem Issues.trans {s t u : State} (h : Issues s t) (k : Issues t u) : Issues s u :=
  ⟨by rw [k.pcie, h.pcie], by rw [k.rest, h.rest]⟩

theorem issues_issueReads (n : Nat) (s : State) : Issues s (issueReads n s) := by
  induction n generalizing s with
  | zero => exact ⟨rfl, rfl⟩
  | succ n ih =>
    unfold issueReads
    split
    · exact ⟨rfl, rfl⟩
    · dsimp only
      split
      · refine Issues.trans ?_ (ih _)
        exact ⟨rfl, rfl⟩
      · exact ⟨rfl, rfl⟩

theorem issues_pumpReads (s : State) : Issues s (pumpReads s) := issues_issueReads ..

theorem issues_msixSend (v : Nat) (s : State) : Issues s (msixSend v s) := by
  unfold msixSend
  constructor
  · dsimp only; repeat' split
    all_goals rfl
  · rfl

theorem issues_msixSends (l : List Nat) (s : State) : Issues s (l.foldl (fun s v => msixSend v s) s) := by
  induction l generalizing s with
  | nil => exact ⟨rfl, rfl⟩
  | cons v l ih => exact (issues_msixSend v s).trans (ih _)

theorem issues_flushHost (s : State) : Issues s (flushHost s) := by
  unfold flushHost
  split
  · refine Issues.trans ?_ (issues_pumpReads _)
    refine Issues.trans ?_ (issues_msixSends _ _)
    exact ⟨rfl, rfl⟩
  · exact ⟨rfl, rfl⟩

theorem issues_askHost (addr len : Nat) (why : ReadFor) (s : State) : Issues s (askHost addr len why s) := by
  refine Issues.trans ?_ (issues_pumpReads _)
  exact ⟨rfl, rfl⟩

end Sys2Proof.Machine
end

