-- ==== Sys2Proof/Laws/State.lean ====
section
/-! SUPPORT. What each named update of a record leaves of the state, one law for each field, and what is read back
where it was written: no later proof unfolds a record update. -/

namespace Sys2Proof.Machine

@[simp] theorem tally_power (c u n k : Nat) (s : State) : (tally c u n k s).power = s.power := rfl
@[simp] theorem tally_pace (c u n k : Nat) (s : State) : (tally c u n k s).pace = s.pace := rfl
@[simp] theorem tally_bring (c u n k : Nat) (s : State) : (tally c u n k s).bring = s.bring := rfl
@[simp] theorem tally_pcie (c u n k : Nat) (s : State) : (tally c u n k s).pcie = s.pcie := rfl
@[simp] theorem tally_mail (c u n k : Nat) (s : State) : (tally c u n k s).mail = s.mail := rfl
@[simp] theorem tally_obj (c u n k : Nat) (s : State) : (tally c u n k s).obj = s.obj := rfl
@[simp] theorem tally_sched (c u n k : Nat) (s : State) : (tally c u n k s).sched = s.sched := rfl
@[simp] theorem tally_tiles (c u n k : Nat) (s : State) : (tally c u n k s).tiles = s.tiles := rfl
@[simp] theorem tally_stack (c u n k : Nat) (s : State) : (tally c u n k s).stack = s.stack := rfl
@[simp] theorem tally_cache (c u n k : Nat) (s : State) : (tally c u n k s).cache = s.cache := rfl
@[simp] theorem tally_mesh (c u n k : Nat) (s : State) : (tally c u n k s).mesh = s.mesh := rfl
@[simp] theorem tally_awls (c u n k : Nat) (s : State) : (tally c u n k s).awls = s.awls := rfl
@[simp] theorem tally_ports (c u n k : Nat) (s : State) : (tally c u n k s).ports = s.ports := rfl
@[simp] theorem tally_pod (c u n k : Nat) (s : State) : (tally c u n k s).pod = s.pod := rfl
@[simp] theorem tally_thermal (c u n k : Nat) (s : State) : (tally c u n k s).thermal = s.thermal := rfl
@[simp] theorem tally_coolant (c u n k : Nat) (s : State) : (tally c u n k s).coolant = s.coolant := rfl
@[simp] theorem tally_shut (c u n k : Nat) (s : State) : (tally c u n k s).shut = s.shut := rfl
@[simp] theorem tally_fw (c u n k : Nat) (s : State) : (tally c u n k s).fw = s.fw := rfl
@[simp] theorem tally_ev (c u n k : Nat) (s : State) : (tally c u n k s).ev = s.ev.add c u n k := rfl
@[simp] theorem tally_trace (c u n k : Nat) (s : State) : (tally c u n k s).trace = s.trace := rfl
@[simp] theorem tally_tele (c u n k : Nat) (s : State) : (tally c u n k s).tele = s.tele := rfl
@[simp] theorem tally_sram (c u n k : Nat) (s : State) : (tally c u n k s).sram = s.sram := rfl
@[simp] theorem tally_timebase (c u n k : Nat) (s : State) : (tally c u n k s).timebase = s.timebase := rfl
@[simp] theorem tally_fresh (c u n k : Nat) (s : State) : (tally c u n k s).fresh = s.fresh := rfl
@[simp] theorem tally_waits (c u n k : Nat) (s : State) : (tally c u n k s).waits = s.waits := rfl
@[simp] theorem tally_out (c u n k : Nat) (s : State) : (tally c u n k s).out = s.out := rfl
@[simp] theorem tally_pending (c u n k : Nat) (s : State) : (tally c u n k s).pending = s.pending := rfl

@[simp] theorem setGauge_power (c u n : Nat) (f : Option Nat → Nat) (s : State) : (setGauge c u n f s).power = s.power := rfl
@[simp] theorem setGauge_pace (c u n : Nat) (f : Option Nat → Nat) (s : State) : (setGauge c u n f s).pace = s.pace := rfl
@[simp] theorem setGauge_bring (c u n : Nat) (f : Option Nat → Nat) (s : State) : (setGauge c u n f s).bring = s.bring := rfl
@[simp] theorem setGauge_pcie (c u n : Nat) (f : Option Nat → Nat) (s : State) : (setGauge c u n f s).pcie = s.pcie := rfl
@[simp] theorem setGauge_mail (c u n : Nat) (f : Option Nat → Nat) (s : State) : (setGauge c u n f s).mail = s.mail := rfl
@[simp] theorem setGauge_obj (c u n : Nat) (f : Option Nat → Nat) (s : State) : (setGauge c u n f s).obj = s.obj := rfl
@[simp] theorem setGauge_sched (c u n : Nat) (f : Option Nat → Nat) (s : State) : (setGauge c u n f s).sched = s.sched := rfl
@[simp] theorem setGauge_tiles (c u n : Nat) (f : Option Nat → Nat) (s : State) : (setGauge c u n f s).tiles = s.tiles := rfl
@[simp] theorem setGauge_stack (c u n : Nat) (f : Option Nat → Nat) (s : State) : (setGauge c u n f s).stack = s.stack := rfl
@[simp] theorem setGauge_cache (c u n : Nat) (f : Option Nat → Nat) (s : State) : (setGauge c u n f s).cache = s.cache := rfl
@[simp] theorem setGauge_mesh (c u n : Nat) (f : Option Nat → Nat) (s : State) : (setGauge c u n f s).mesh = s.mesh := rfl
@[simp] theorem setGauge_awls (c u n : Nat) (f : Option Nat → Nat) (s : State) : (setGauge c u n f s).awls = s.awls := rfl
@[simp] theorem setGauge_ports (c u n : Nat) (f : Option Nat → Nat) (s : State) : (setGauge c u n f s).ports = s.ports := rfl
@[simp] theorem setGauge_pod (c u n : Nat) (f : Option Nat → Nat) (s : State) : (setGauge c u n f s).pod = s.pod := rfl
@[simp] theorem setGauge_thermal (c u n : Nat) (f : Option Nat → Nat) (s : State) : (setGauge c u n f s).thermal = s.thermal := rfl
@[simp] theorem setGauge_coolant (c u n : Nat) (f : Option Nat → Nat) (s : State) : (setGauge c u n f s).coolant = s.coolant := rfl
@[simp] theorem setGauge_shut (c u n : Nat) (f : Option Nat → Nat) (s : State) : (setGauge c u n f s).shut = s.shut := rfl
@[simp] theorem setGauge_fw (c u n : Nat) (f : Option Nat → Nat) (s : State) : (setGauge c u n f s).fw = s.fw := rfl
@[simp] theorem setGauge_trace (c u n : Nat) (f : Option Nat → Nat) (s : State) : (setGauge c u n f s).trace = s.trace := rfl
@[simp] theorem setGauge_tele (c u n : Nat) (f : Option Nat → Nat) (s : State) : (setGauge c u n f s).tele = s.tele := rfl
@[simp] theorem setGauge_sram (c u n : Nat) (f : Option Nat → Nat) (s : State) : (setGauge c u n f s).sram = s.sram := rfl
@[simp] theorem setGauge_timebase (c u n : Nat) (f : Option Nat → Nat) (s : State) : (setGauge c u n f s).timebase = s.timebase := rfl
@[simp] theorem setGauge_fresh (c u n : Nat) (f : Option Nat → Nat) (s : State) : (setGauge c u n f s).fresh = s.fresh := rfl
@[simp] theorem setGauge_waits (c u n : Nat) (f : Option Nat → Nat) (s : State) : (setGauge c u n f s).waits = s.waits := rfl
@[simp] theorem setGauge_out (c u n : Nat) (f : Option Nat → Nat) (s : State) : (setGauge c u n f s).out = s.out := rfl
@[simp] theorem setGauge_pending (c u n : Nat) (f : Option Nat → Nat) (s : State) : (setGauge c u n f s).pending = s.pending := rfl

@[simp] theorem setAer_power (b : Nat) (s : State) : (setAer b s).power = s.power := rfl
@[simp] theorem setAer_pace (b : Nat) (s : State) : (setAer b s).pace = s.pace := rfl
@[simp] theorem setAer_bring (b : Nat) (s : State) : (setAer b s).bring = s.bring := rfl
@[simp] theorem setAer_mail (b : Nat) (s : State) : (setAer b s).mail = s.mail := rfl
@[simp] theorem setAer_obj (b : Nat) (s : State) : (setAer b s).obj = s.obj := rfl
@[simp] theorem setAer_sched (b : Nat) (s : State) : (setAer b s).sched = s.sched := rfl
@[simp] theorem setAer_tiles (b : Nat) (s : State) : (setAer b s).tiles = s.tiles := rfl
@[simp] theorem setAer_stack (b : Nat) (s : State) : (setAer b s).stack = s.stack := rfl
@[simp] theorem setAer_cache (b : Nat) (s : State) : (setAer b s).cache = s.cache := rfl
@[simp] theorem setAer_mesh (b : Nat) (s : State) : (setAer b s).mesh = s.mesh := rfl
@[simp] theorem setAer_awls (b : Nat) (s : State) : (setAer b s).awls = s.awls := rfl
@[simp] theorem setAer_ports (b : Nat) (s : State) : (setAer b s).ports = s.ports := rfl
@[simp] theorem setAer_pod (b : Nat) (s : State) : (setAer b s).pod = s.pod := rfl
@[simp] theorem setAer_thermal (b : Nat) (s : State) : (setAer b s).thermal = s.thermal := rfl
@[simp] theorem setAer_coolant (b : Nat) (s : State) : (setAer b s).coolant = s.coolant := rfl
@[simp] theorem setAer_shut (b : Nat) (s : State) : (setAer b s).shut = s.shut := rfl
@[simp] theorem setAer_fw (b : Nat) (s : State) : (setAer b s).fw = s.fw := rfl
@[simp] theorem setAer_ev (b : Nat) (s : State) : (setAer b s).ev = s.ev := rfl
@[simp] theorem setAer_trace (b : Nat) (s : State) : (setAer b s).trace = s.trace := rfl
@[simp] theorem setAer_tele (b : Nat) (s : State) : (setAer b s).tele = s.tele := rfl
@[simp] theorem setAer_sram (b : Nat) (s : State) : (setAer b s).sram = s.sram := rfl
@[simp] theorem setAer_timebase (b : Nat) (s : State) : (setAer b s).timebase = s.timebase := rfl
@[simp] theorem setAer_fresh (b : Nat) (s : State) : (setAer b s).fresh = s.fresh := rfl
@[simp] theorem setAer_waits (b : Nat) (s : State) : (setAer b s).waits = s.waits := rfl
@[simp] theorem setAer_out (b : Nat) (s : State) : (setAer b s).out = s.out := rfl
@[simp] theorem setAer_pending (b : Nat) (s : State) : (setAer b s).pending = s.pending := rfl

@[simp] theorem alert_power (b : Nat) (s : State) : (alert b s).power = s.power := rfl
@[simp] theorem alert_pace (b : Nat) (s : State) : (alert b s).pace = s.pace := rfl
@[simp] theorem alert_bring (b : Nat) (s : State) : (alert b s).bring = s.bring := rfl
@[simp] theorem alert_pcie (b : Nat) (s : State) : (alert b s).pcie = s.pcie := rfl
@[simp] theorem alert_mail (b : Nat) (s : State) : (alert b s).mail = s.mail := rfl
@[simp] theorem alert_obj (b : Nat) (s : State) : (alert b s).obj = s.obj := rfl
@[simp] theorem alert_sched (b : Nat) (s : State) : (alert b s).sched = s.sched := rfl
@[simp] theorem alert_tiles (b : Nat) (s : State) : (alert b s).tiles = s.tiles := rfl
@[simp] theorem alert_stack (b : Nat) (s : State) : (alert b s).stack = s.stack := rfl
@[simp] theorem alert_cache (b : Nat) (s : State) : (alert b s).cache = s.cache := rfl
@[simp] theorem alert_mesh (b : Nat) (s : State) : (alert b s).mesh = s.mesh := rfl
@[simp] theorem alert_awls (b : Nat) (s : State) : (alert b s).awls = s.awls := rfl
@[simp] theorem alert_ports (b : Nat) (s : State) : (alert b s).ports = s.ports := rfl
@[simp] theorem alert_pod (b : Nat) (s : State) : (alert b s).pod = s.pod := rfl
@[simp] theorem alert_thermal (b : Nat) (s : State) : (alert b s).thermal = s.thermal := rfl
@[simp] theorem alert_coolant (b : Nat) (s : State) : (alert b s).coolant = s.coolant := rfl
@[simp] theorem alert_shut (b : Nat) (s : State) : (alert b s).shut = s.shut := rfl
@[simp] theorem alert_fw (b : Nat) (s : State) : (alert b s).fw = s.fw := rfl
@[simp] theorem alert_ev (b : Nat) (s : State) : (alert b s).ev = s.ev := rfl
@[simp] theorem alert_trace (b : Nat) (s : State) : (alert b s).trace = s.trace := rfl
@[simp] theorem alert_sram (b : Nat) (s : State) : (alert b s).sram = s.sram := rfl
@[simp] theorem alert_timebase (b : Nat) (s : State) : (alert b s).timebase = s.timebase := rfl
@[simp] theorem alert_fresh (b : Nat) (s : State) : (alert b s).fresh = s.fresh := rfl
@[simp] theorem alert_waits (b : Nat) (s : State) : (alert b s).waits = s.waits := rfl
@[simp] theorem alert_out (b : Nat) (s : State) : (alert b s).out = s.out := rfl
@[simp] theorem alert_pending (b : Nat) (s : State) : (alert b s).pending = s.pending := rfl

@[simp] theorem setDegraded_power (s : State) : (setDegraded s).power = s.power := rfl
@[simp] theorem setDegraded_pace (s : State) : (setDegraded s).pace = s.pace := rfl
@[simp] theorem setDegraded_bring (s : State) : (setDegraded s).bring = s.bring := rfl
@[simp] theorem setDegraded_pcie (s : State) : (setDegraded s).pcie = s.pcie := rfl
@[simp] theorem setDegraded_mail (s : State) : (setDegraded s).mail = s.mail := rfl
@[simp] theorem setDegraded_obj (s : State) : (setDegraded s).obj = s.obj := rfl
@[simp] theorem setDegraded_sched (s : State) : (setDegraded s).sched = s.sched := rfl
@[simp] theorem setDegraded_tiles (s : State) : (setDegraded s).tiles = s.tiles := rfl
@[simp] theorem setDegraded_stack (s : State) : (setDegraded s).stack = s.stack := rfl
@[simp] theorem setDegraded_cache (s : State) : (setDegraded s).cache = s.cache := rfl
@[simp] theorem setDegraded_mesh (s : State) : (setDegraded s).mesh = s.mesh := rfl
@[simp] theorem setDegraded_awls (s : State) : (setDegraded s).awls = s.awls := rfl
@[simp] theorem setDegraded_ports (s : State) : (setDegraded s).ports = s.ports := rfl
@[simp] theorem setDegraded_pod (s : State) : (setDegraded s).pod = s.pod := rfl
@[simp] theorem setDegraded_thermal (s : State) : (setDegraded s).thermal = s.thermal := rfl
@[simp] theorem setDegraded_coolant (s : State) : (setDegraded s).coolant = s.coolant := rfl
@[simp] theorem setDegraded_shut (s : State) : (setDegraded s).shut = s.shut := rfl
@[simp] theorem setDegraded_fw (s : State) : (setDegraded s).fw = s.fw := rfl
@[simp] theorem setDegraded_trace (s : State) : (setDegraded s).trace = s.trace := rfl
@[simp] theorem setDegraded_tele (s : State) : (setDegraded s).tele = s.tele := rfl
@[simp] theorem setDegraded_sram (s : State) : (setDegraded s).sram = s.sram := rfl
@[simp] theorem setDegraded_timebase (s : State) : (setDegraded s).timebase = s.timebase := rfl
@[simp] theorem setDegraded_fresh (s : State) : (setDegraded s).fresh = s.fresh := rfl
@[simp] theorem setDegraded_waits (s : State) : (setDegraded s).waits = s.waits := rfl
@[simp] theorem setDegraded_out (s : State) : (setDegraded s).out = s.out := rfl
@[simp] theorem setDegraded_pending (s : State) : (setDegraded s).pending = s.pending := rfl

@[simp] theorem setPort_power (s : State) (p : Nat) (f : Port → Port) : (setPort s p f).power = s.power := rfl
@[simp] theorem setPort_pace (s : State) (p : Nat) (f : Port → Port) : (setPort s p f).pace = s.pace := rfl
@[simp] theorem setPort_bring (s : State) (p : Nat) (f : Port → Port) : (setPort s p f).bring = s.bring := rfl
@[simp] theorem setPort_pcie (s : State) (p : Nat) (f : Port → Port) : (setPort s p f).pcie = s.pcie := rfl
@[simp] theorem setPort_mail (s : State) (p : Nat) (f : Port → Port) : (setPort s p f).mail = s.mail := rfl
@[simp] theorem setPort_obj (s : State) (p : Nat) (f : Port → Port) : (setPort s p f).obj = s.obj := rfl
@[simp] theorem setPort_sched (s : State) (p : Nat) (f : Port → Port) : (setPort s p f).sched = s.sched := rfl
@[simp] theorem setPort_tiles (s : State) (p : Nat) (f : Port → Port) : (setPort s p f).tiles = s.tiles := rfl
@[simp] theorem setPort_stack (s : State) (p : Nat) (f : Port → Port) : (setPort s p f).stack = s.stack := rfl
@[simp] theorem setPort_cache (s : State) (p : Nat) (f : Port → Port) : (setPort s p f).cache = s.cache := rfl
@[simp] theorem setPort_mesh (s : State) (p : Nat) (f : Port → Port) : (setPort s p f).mesh = s.mesh := rfl
@[simp] theorem setPort_awls (s : State) (p : Nat) (f : Port → Port) : (setPort s p f).awls = s.awls := rfl
@[simp] theorem setPort_ports (s : State) (p : Nat) (f : Port → Port) : (setPort s p f).ports = Tab.upd {} s.ports p f := rfl
@[simp] theorem setPort_pod (s : State) (p : Nat) (f : Port → Port) : (setPort s p f).pod = s.pod := rfl
@[simp] theorem setPort_thermal (s : State) (p : Nat) (f : Port → Port) : (setPort s p f).thermal = s.thermal := rfl
@[simp] theorem setPort_coolant (s : State) (p : Nat) (f : Port → Port) : (setPort s p f).coolant = s.coolant := rfl
@[simp] theorem setPort_shut (s : State) (p : Nat) (f : Port → Port) : (setPort s p f).shut = s.shut := rfl
@[simp] theorem setPort_fw (s : State) (p : Nat) (f : Port → Port) : (setPort s p f).fw = s.fw := rfl
@[simp] theorem setPort_ev (s : State) (p : Nat) (f : Port → Port) : (setPort s p f).ev = s.ev := rfl
@[simp] theorem setPort_trace (s : State) (p : Nat) (f : Port → Port) : (setPort s p f).trace = s.trace := rfl
@[simp] theorem setPort_tele (s : State) (p : Nat) (f : Port → Port) : (setPort s p f).tele = s.tele := rfl
@[simp] theorem setPort_sram (s : State) (p : Nat) (f : Port → Port) : (setPort s p f).sram = s.sram := rfl
@[simp] theorem setPort_timebase (s : State) (p : Nat) (f : Port → Port) : (setPort s p f).timebase = s.timebase := rfl
@[simp] theorem setPort_fresh (s : State) (p : Nat) (f : Port → Port) : (setPort s p f).fresh = s.fresh := rfl
@[simp] theorem setPort_waits (s : State) (p : Nat) (f : Port → Port) : (setPort s p f).waits = s.waits := rfl
@[simp] theorem setPort_out (s : State) (p : Nat) (f : Port → Port) : (setPort s p f).out = s.out := rfl
@[simp] theorem setPort_pending (s : State) (p : Nat) (f : Port → Port) : (setPort s p f).pending = s.pending := rfl

@[simp] theorem setShank_power (t : Nat) (f : Shank → Shank) (s : State) : (setShank t f s).power = s.power := rfl
@[simp] theorem setShank_pace (t : Nat) (f : Shank → Shank) (s : State) : (setShank t f s).pace = s.pace := rfl
@[simp] theorem setShank_bring (t : Nat) (f : Shank → Shank) (s : State) : (setShank t f s).bring = s.bring := rfl
@[simp] theorem setShank_pcie (t : Nat) (f : Shank → Shank) (s : State) : (setShank t f s).pcie = s.pcie := rfl
@[simp] theorem setShank_mail (t : Nat) (f : Shank → Shank) (s : State) : (setShank t f s).mail = s.mail := rfl
@[simp] theorem setShank_obj (t : Nat) (f : Shank → Shank) (s : State) : (setShank t f s).obj = s.obj := rfl
@[simp] theorem setShank_sched (t : Nat) (f : Shank → Shank) (s : State) : (setShank t f s).sched = s.sched := rfl
@[simp] theorem setShank_tiles (t : Nat) (f : Shank → Shank) (s : State) : (setShank t f s).tiles = s.tiles := rfl
@[simp] theorem setShank_cache (t : Nat) (f : Shank → Shank) (s : State) : (setShank t f s).cache = s.cache := rfl
@[simp] theorem setShank_mesh (t : Nat) (f : Shank → Shank) (s : State) : (setShank t f s).mesh = s.mesh := rfl
@[simp] theorem setShank_awls (t : Nat) (f : Shank → Shank) (s : State) : (setShank t f s).awls = s.awls := rfl
@[simp] theorem setShank_ports (t : Nat) (f : Shank → Shank) (s : State) : (setShank t f s).ports = s.ports := rfl
@[simp] theorem setShank_pod (t : Nat) (f : Shank → Shank) (s : State) : (setShank t f s).pod = s.pod := rfl
@[simp] theorem setShank_thermal (t : Nat) (f : Shank → Shank) (s : State) : (setShank t f s).thermal = s.thermal := rfl
@[simp] theorem setShank_coolant (t : Nat) (f : Shank → Shank) (s : State) : (setShank t f s).coolant = s.coolant := rfl
@[simp] theorem setShank_shut (t : Nat) (f : Shank → Shank) (s : State) : (setShank t f s).shut = s.shut := rfl
@[simp] theorem setShank_fw (t : Nat) (f : Shank → Shank) (s : State) : (setShank t f s).fw = s.fw := rfl
@[simp] theorem setShank_ev (t : Nat) (f : Shank → Shank) (s : State) : (setShank t f s).ev = s.ev := rfl
@[simp] theorem setShank_trace (t : Nat) (f : Shank → Shank) (s : State) : (setShank t f s).trace = s.trace := rfl
@[simp] theorem setShank_tele (t : Nat) (f : Shank → Shank) (s : State) : (setShank t f s).tele = s.tele := rfl
@[simp] theorem setShank_sram (t : Nat) (f : Shank → Shank) (s : State) : (setShank t f s).sram = s.sram := rfl
@[simp] theorem setShank_timebase (t : Nat) (f : Shank → Shank) (s : State) : (setShank t f s).timebase = s.timebase := rfl
@[simp] theorem setShank_fresh (t : Nat) (f : Shank → Shank) (s : State) : (setShank t f s).fresh = s.fresh := rfl
@[simp] theorem setShank_waits (t : Nat) (f : Shank → Shank) (s : State) : (setShank t f s).waits = s.waits := rfl
@[simp] theorem setShank_out (t : Nat) (f : Shank → Shank) (s : State) : (setShank t f s).out = s.out := rfl
@[simp] theorem setShank_pending (t : Nat) (f : Shank → Shank) (s : State) : (setShank t f s).pending = s.pending := rfl

@[simp] theorem setSide_power (i : Nat) (f : Side → Side) (s : State) : (setSide i f s).power = s.power := rfl
@[simp] theorem setSide_pace (i : Nat) (f : Side → Side) (s : State) : (setSide i f s).pace = s.pace := rfl
@[simp] theorem setSide_bring (i : Nat) (f : Side → Side) (s : State) : (setSide i f s).bring = s.bring := rfl
@[simp] theorem setSide_pcie (i : Nat) (f : Side → Side) (s : State) : (setSide i f s).pcie = s.pcie := rfl
@[simp] theorem setSide_mail (i : Nat) (f : Side → Side) (s : State) : (setSide i f s).mail = s.mail := rfl
@[simp] theorem setSide_obj (i : Nat) (f : Side → Side) (s : State) : (setSide i f s).obj = s.obj := rfl
@[simp] theorem setSide_sched (i : Nat) (f : Side → Side) (s : State) : (setSide i f s).sched = s.sched := rfl
@[simp] theorem setSide_tiles (i : Nat) (f : Side → Side) (s : State) : (setSide i f s).tiles = s.tiles := rfl
@[simp] theorem setSide_cache (i : Nat) (f : Side → Side) (s : State) : (setSide i f s).cache = s.cache := rfl
@[simp] theorem setSide_mesh (i : Nat) (f : Side → Side) (s : State) : (setSide i f s).mesh = s.mesh := rfl
@[simp] theorem setSide_awls (i : Nat) (f : Side → Side) (s : State) : (setSide i f s).awls = s.awls := rfl
@[simp] theorem setSide_ports (i : Nat) (f : Side → Side) (s : State) : (setSide i f s).ports = s.ports := rfl
@[simp] theorem setSide_pod (i : Nat) (f : Side → Side) (s : State) : (setSide i f s).pod = s.pod := rfl
@[simp] theorem setSide_thermal (i : Nat) (f : Side → Side) (s : State) : (setSide i f s).thermal = s.thermal := rfl
@[simp] theorem setSide_coolant (i : Nat) (f : Side → Side) (s : State) : (setSide i f s).coolant = s.coolant := rfl
@[simp] theorem setSide_shut (i : Nat) (f : Side → Side) (s : State) : (setSide i f s).shut = s.shut := rfl
@[simp] theorem setSide_fw (i : Nat) (f : Side → Side) (s : State) : (setSide i f s).fw = s.fw := rfl
@[simp] theorem setSide_ev (i : Nat) (f : Side → Side) (s : State) : (setSide i f s).ev = s.ev := rfl
@[simp] theorem setSide_trace (i : Nat) (f : Side → Side) (s : State) : (setSide i f s).trace = s.trace := rfl
@[simp] theorem setSide_tele (i : Nat) (f : Side → Side) (s : State) : (setSide i f s).tele = s.tele := rfl
@[simp] theorem setSide_sram (i : Nat) (f : Side → Side) (s : State) : (setSide i f s).sram = s.sram := rfl
@[simp] theorem setSide_timebase (i : Nat) (f : Side → Side) (s : State) : (setSide i f s).timebase = s.timebase := rfl
@[simp] theorem setSide_fresh (i : Nat) (f : Side → Side) (s : State) : (setSide i f s).fresh = s.fresh := rfl
@[simp] theorem setSide_waits (i : Nat) (f : Side → Side) (s : State) : (setSide i f s).waits = s.waits := rfl
@[simp] theorem setSide_out (i : Nat) (f : Side → Side) (s : State) : (setSide i f s).out = s.out := rfl
@[simp] theorem setSide_pending (i : Nat) (f : Side → Side) (s : State) : (setSide i f s).pending = s.pending := rfl

@[simp] theorem setTier_power (i : Nat) (f : Tier → Tier) (s : State) : (setTier i f s).power = s.power := rfl
@[simp] theorem setTier_pace (i : Nat) (f : Tier → Tier) (s : State) : (setTier i f s).pace = s.pace := rfl
@[simp] theorem setTier_bring (i : Nat) (f : Tier → Tier) (s : State) : (setTier i f s).bring = s.bring := rfl
@[simp] theorem setTier_pcie (i : Nat) (f : Tier → Tier) (s : State) : (setTier i f s).pcie = s.pcie := rfl
@[simp] theorem setTier_mail (i : Nat) (f : Tier → Tier) (s : State) : (setTier i f s).mail = s.mail := rfl
@[simp] theorem setTier_obj (i : Nat) (f : Tier → Tier) (s : State) : (setTier i f s).obj = s.obj := rfl
@[simp] theorem setTier_sched (i : Nat) (f : Tier → Tier) (s : State) : (setTier i f s).sched = s.sched := rfl
@[simp] theorem setTier_tiles (i : Nat) (f : Tier → Tier) (s : State) : (setTier i f s).tiles = s.tiles := rfl
@[simp] theorem setTier_cache (i : Nat) (f : Tier → Tier) (s : State) : (setTier i f s).cache = s.cache := rfl
@[simp] theorem setTier_mesh (i : Nat) (f : Tier → Tier) (s : State) : (setTier i f s).mesh = s.mesh := rfl
@[simp] theorem setTier_awls (i : Nat) (f : Tier → Tier) (s : State) : (setTier i f s).awls = s.awls := rfl
@[simp] theorem setTier_ports (i : Nat) (f : Tier → Tier) (s : State) : (setTier i f s).ports = s.ports := rfl
@[simp] theorem setTier_pod (i : Nat) (f : Tier → Tier) (s : State) : (setTier i f s).pod = s.pod := rfl
@[simp] theorem setTier_thermal (i : Nat) (f : Tier → Tier) (s : State) : (setTier i f s).thermal = s.thermal := rfl
@[simp] theorem setTier_coolant (i : Nat) (f : Tier → Tier) (s : State) : (setTier i f s).coolant = s.coolant := rfl
@[simp] theorem setTier_shut (i : Nat) (f : Tier → Tier) (s : State) : (setTier i f s).shut = s.shut := rfl
@[simp] theorem setTier_fw (i : Nat) (f : Tier → Tier) (s : State) : (setTier i f s).fw = s.fw := rfl
@[simp] theorem setTier_ev (i : Nat) (f : Tier → Tier) (s : State) : (setTier i f s).ev = s.ev := rfl
@[simp] theorem setTier_trace (i : Nat) (f : Tier → Tier) (s : State) : (setTier i f s).trace = s.trace := rfl
@[simp] theorem setTier_tele (i : Nat) (f : Tier → Tier) (s : State) : (setTier i f s).tele = s.tele := rfl
@[simp] theorem setTier_sram (i : Nat) (f : Tier → Tier) (s : State) : (setTier i f s).sram = s.sram := rfl
@[simp] theorem setTier_timebase (i : Nat) (f : Tier → Tier) (s : State) : (setTier i f s).timebase = s.timebase := rfl
@[simp] theorem setTier_fresh (i : Nat) (f : Tier → Tier) (s : State) : (setTier i f s).fresh = s.fresh := rfl
@[simp] theorem setTier_waits (i : Nat) (f : Tier → Tier) (s : State) : (setTier i f s).waits = s.waits := rfl
@[simp] theorem setTier_out (i : Nat) (f : Tier → Tier) (s : State) : (setTier i f s).out = s.out := rfl
@[simp] theorem setTier_pending (i : Nat) (f : Tier → Tier) (s : State) : (setTier i f s).pending = s.pending := rfl

@[simp] theorem setLine_power (i j w : Nat) (v : L2Line) (s : State) : (setLine i j w v s).power = s.power := rfl
@[simp] theorem setLine_pace (i j w : Nat) (v : L2Line) (s : State) : (setLine i j w v s).pace = s.pace := rfl
@[simp] theorem setLine_bring (i j w : Nat) (v : L2Line) (s : State) : (setLine i j w v s).bring = s.bring := rfl
@[simp] theorem setLine_pcie (i j w : Nat) (v : L2Line) (s : State) : (setLine i j w v s).pcie = s.pcie := rfl
@[simp] theorem setLine_mail (i j w : Nat) (v : L2Line) (s : State) : (setLine i j w v s).mail = s.mail := rfl
@[simp] theorem setLine_obj (i j w : Nat) (v : L2Line) (s : State) : (setLine i j w v s).obj = s.obj := rfl
@[simp] theorem setLine_sched (i j w : Nat) (v : L2Line) (s : State) : (setLine i j w v s).sched = s.sched := rfl
@[simp] theorem setLine_tiles (i j w : Nat) (v : L2Line) (s : State) : (setLine i j w v s).tiles = s.tiles := rfl
@[simp] theorem setLine_stack (i j w : Nat) (v : L2Line) (s : State) : (setLine i j w v s).stack = s.stack := rfl
@[simp] theorem setLine_mesh (i j w : Nat) (v : L2Line) (s : State) : (setLine i j w v s).mesh = s.mesh := rfl
@[simp] theorem setLine_awls (i j w : Nat) (v : L2Line) (s : State) : (setLine i j w v s).awls = s.awls := rfl
@[simp] theorem setLine_ports (i j w : Nat) (v : L2Line) (s : State) : (setLine i j w v s).ports = s.ports := rfl
@[simp] theorem setLine_pod (i j w : Nat) (v : L2Line) (s : State) : (setLine i j w v s).pod = s.pod := rfl
@[simp] theorem setLine_thermal (i j w : Nat) (v : L2Line) (s : State) : (setLine i j w v s).thermal = s.thermal := rfl
@[simp] theorem setLine_coolant (i j w : Nat) (v : L2Line) (s : State) : (setLine i j w v s).coolant = s.coolant := rfl
@[simp] theorem setLine_shut (i j w : Nat) (v : L2Line) (s : State) : (setLine i j w v s).shut = s.shut := rfl
@[simp] theorem setLine_fw (i j w : Nat) (v : L2Line) (s : State) : (setLine i j w v s).fw = s.fw := rfl
@[simp] theorem setLine_ev (i j w : Nat) (v : L2Line) (s : State) : (setLine i j w v s).ev = s.ev := rfl
@[simp] theorem setLine_trace (i j w : Nat) (v : L2Line) (s : State) : (setLine i j w v s).trace = s.trace := rfl
@[simp] theorem setLine_tele (i j w : Nat) (v : L2Line) (s : State) : (setLine i j w v s).tele = s.tele := rfl
@[simp] theorem setLine_sram (i j w : Nat) (v : L2Line) (s : State) : (setLine i j w v s).sram = s.sram := rfl
@[simp] theorem setLine_timebase (i j w : Nat) (v : L2Line) (s : State) : (setLine i j w v s).timebase = s.timebase := rfl
@[simp] theorem setLine_fresh (i j w : Nat) (v : L2Line) (s : State) : (setLine i j w v s).fresh = s.fresh := rfl
@[simp] theorem setLine_waits (i j w : Nat) (v : L2Line) (s : State) : (setLine i j w v s).waits = s.waits := rfl
@[simp] theorem setLine_out (i j w : Nat) (v : L2Line) (s : State) : (setLine i j w v s).out = s.out := rfl
@[simp] theorem setLine_pending (i j w : Nat) (v : L2Line) (s : State) : (setLine i j w v s).pending = s.pending := rfl

@[simp] theorem setTile_power (t : Nat) (f : Tile → Tile) (s : State) : (setTile t f s).power = s.power := rfl
@[simp] theorem setTile_pace (t : Nat) (f : Tile → Tile) (s : State) : (setTile t f s).pace = s.pace := rfl
@[simp] theorem setTile_bring (t : Nat) (f : Tile → Tile) (s : State) : (setTile t f s).bring = s.bring := rfl
@[simp] theorem setTile_pcie (t : Nat) (f : Tile → Tile) (s : State) : (setTile t f s).pcie = s.pcie := rfl
@[simp] theorem setTile_mail (t : Nat) (f : Tile → Tile) (s : State) : (setTile t f s).mail = s.mail := rfl
@[simp] theorem setTile_obj (t : Nat) (f : Tile → Tile) (s : State) : (setTile t f s).obj = s.obj := rfl
@[simp] theorem setTile_sched (t : Nat) (f : Tile → Tile) (s : State) : (setTile t f s).sched = s.sched := rfl
@[simp] theorem setTile_stack (t : Nat) (f : Tile → Tile) (s : State) : (setTile t f s).stack = s.stack := rfl
@[simp] theorem setTile_cache (t : Nat) (f : Tile → Tile) (s : State) : (setTile t f s).cache = s.cache := rfl
@[simp] theorem setTile_mesh (t : Nat) (f : Tile → Tile) (s : State) : (setTile t f s).mesh = s.mesh := rfl
@[simp] theorem setTile_awls (t : Nat) (f : Tile → Tile) (s : State) : (setTile t f s).awls = s.awls := rfl
@[simp] theorem setTile_ports (t : Nat) (f : Tile → Tile) (s : State) : (setTile t f s).ports = s.ports := rfl
@[simp] theorem setTile_pod (t : Nat) (f : Tile → Tile) (s : State) : (setTile t f s).pod = s.pod := rfl
@[simp] theorem setTile_thermal (t : Nat) (f : Tile → Tile) (s : State) : (setTile t f s).thermal = s.thermal := rfl
@[simp] theorem setTile_coolant (t : Nat) (f : Tile → Tile) (s : State) : (setTile t f s).coolant = s.coolant := rfl
@[simp] theorem setTile_shut (t : Nat) (f : Tile → Tile) (s : State) : (setTile t f s).shut = s.shut := rfl
@[simp] theorem setTile_fw (t : Nat) (f : Tile → Tile) (s : State) : (setTile t f s).fw = s.fw := rfl
@[simp] theorem setTile_ev (t : Nat) (f : Tile → Tile) (s : State) : (setTile t f s).ev = s.ev := rfl
@[simp] theorem setTile_trace (t : Nat) (f : Tile → Tile) (s : State) : (setTile t f s).trace = s.trace := rfl
@[simp] theorem setTile_tele (t : Nat) (f : Tile → Tile) (s : State) : (setTile t f s).tele = s.tele := rfl
@[simp] theorem setTile_sram (t : Nat) (f : Tile → Tile) (s : State) : (setTile t f s).sram = s.sram := rfl
@[simp] theorem setTile_timebase (t : Nat) (f : Tile → Tile) (s : State) : (setTile t f s).timebase = s.timebase := rfl
@[simp] theorem setTile_fresh (t : Nat) (f : Tile → Tile) (s : State) : (setTile t f s).fresh = s.fresh := rfl
@[simp] theorem setTile_waits (t : Nat) (f : Tile → Tile) (s : State) : (setTile t f s).waits = s.waits := rfl
@[simp] theorem setTile_out (t : Nat) (f : Tile → Tile) (s : State) : (setTile t f s).out = s.out := rfl
@[simp] theorem setTile_pending (t : Nat) (f : Tile → Tile) (s : State) : (setTile t f s).pending = s.pending := rfl

@[simp] theorem setAwl_power (a : Nat) (f : Awl → Awl) (s : State) : (setAwl a f s).power = s.power := rfl
@[simp] theorem setAwl_pace (a : Nat) (f : Awl → Awl) (s : State) : (setAwl a f s).pace = s.pace := rfl
@[simp] theorem setAwl_bring (a : Nat) (f : Awl → Awl) (s : State) : (setAwl a f s).bring = s.bring := rfl
@[simp] theorem setAwl_pcie (a : Nat) (f : Awl → Awl) (s : State) : (setAwl a f s).pcie = s.pcie := rfl
@[simp] theorem setAwl_mail (a : Nat) (f : Awl → Awl) (s : State) : (setAwl a f s).mail = s.mail := rfl
@[simp] theorem setAwl_obj (a : Nat) (f : Awl → Awl) (s : State) : (setAwl a f s).obj = s.obj := rfl
@[simp] theorem setAwl_sched (a : Nat) (f : Awl → Awl) (s : State) : (setAwl a f s).sched = s.sched := rfl
@[simp] theorem setAwl_tiles (a : Nat) (f : Awl → Awl) (s : State) : (setAwl a f s).tiles = s.tiles := rfl
@[simp] theorem setAwl_stack (a : Nat) (f : Awl → Awl) (s : State) : (setAwl a f s).stack = s.stack := rfl
@[simp] theorem setAwl_cache (a : Nat) (f : Awl → Awl) (s : State) : (setAwl a f s).cache = s.cache := rfl
@[simp] theorem setAwl_mesh (a : Nat) (f : Awl → Awl) (s : State) : (setAwl a f s).mesh = s.mesh := rfl
@[simp] theorem setAwl_ports (a : Nat) (f : Awl → Awl) (s : State) : (setAwl a f s).ports = s.ports := rfl
@[simp] theorem setAwl_pod (a : Nat) (f : Awl → Awl) (s : State) : (setAwl a f s).pod = s.pod := rfl
@[simp] theorem setAwl_thermal (a : Nat) (f : Awl → Awl) (s : State) : (setAwl a f s).thermal = s.thermal := rfl
@[simp] theorem setAwl_coolant (a : Nat) (f : Awl → Awl) (s : State) : (setAwl a f s).coolant = s.coolant := rfl
@[simp] theorem setAwl_shut (a : Nat) (f : Awl → Awl) (s : State) : (setAwl a f s).shut = s.shut := rfl
@[simp] theorem setAwl_fw (a : Nat) (f : Awl → Awl) (s : State) : (setAwl a f s).fw = s.fw := rfl
@[simp] theorem setAwl_ev (a : Nat) (f : Awl → Awl) (s : State) : (setAwl a f s).ev = s.ev := rfl
@[simp] theorem setAwl_trace (a : Nat) (f : Awl → Awl) (s : State) : (setAwl a f s).trace = s.trace := rfl
@[simp] theorem setAwl_tele (a : Nat) (f : Awl → Awl) (s : State) : (setAwl a f s).tele = s.tele := rfl
@[simp] theorem setAwl_sram (a : Nat) (f : Awl → Awl) (s : State) : (setAwl a f s).sram = s.sram := rfl
@[simp] theorem setAwl_timebase (a : Nat) (f : Awl → Awl) (s : State) : (setAwl a f s).timebase = s.timebase := rfl
@[simp] theorem setAwl_fresh (a : Nat) (f : Awl → Awl) (s : State) : (setAwl a f s).fresh = s.fresh := rfl
@[simp] theorem setAwl_waits (a : Nat) (f : Awl → Awl) (s : State) : (setAwl a f s).waits = s.waits := rfl
@[simp] theorem setAwl_out (a : Nat) (f : Awl → Awl) (s : State) : (setAwl a f s).out = s.out := rfl
@[simp] theorem setAwl_pending (a : Nat) (f : Awl → Awl) (s : State) : (setAwl a f s).pending = s.pending := rfl

@[simp] theorem setReport_power (n : Nat) (f : StageReport → StageReport) (s : State) : (setReport n f s).power = s.power := rfl
@[simp] theorem setReport_pace (n : Nat) (f : StageReport → StageReport) (s : State) : (setReport n f s).pace = s.pace := rfl
@[simp] theorem setReport_pcie (n : Nat) (f : StageReport → StageReport) (s : State) : (setReport n f s).pcie = s.pcie := rfl
@[simp] theorem setReport_mail (n : Nat) (f : StageReport → StageReport) (s : State) : (setReport n f s).mail = s.mail := rfl
@[simp] theorem setReport_obj (n : Nat) (f : StageReport → StageReport) (s : State) : (setReport n f s).obj = s.obj := rfl
@[simp] theorem setReport_sched (n : Nat) (f : StageReport → StageReport) (s : State) : (setReport n f s).sched = s.sched := rfl
@[simp] theorem setReport_tiles (n : Nat) (f : StageReport → StageReport) (s : State) : (setReport n f s).tiles = s.tiles := rfl
@[simp] theorem setReport_stack (n : Nat) (f : StageReport → StageReport) (s : State) : (setReport n f s).stack = s.stack := rfl
@[simp] theorem setReport_cache (n : Nat) (f : StageReport → StageReport) (s : State) : (setReport n f s).cache = s.cache := rfl
@[simp] theorem setReport_mesh (n : Nat) (f : StageReport → StageReport) (s : State) : (setReport n f s).mesh = s.mesh := rfl
@[simp] theorem setReport_awls (n : Nat) (f : StageReport → StageReport) (s : State) : (setReport n f s).awls = s.awls := rfl
@[simp] theorem setReport_ports (n : Nat) (f : StageReport → StageReport) (s : State) : (setReport n f s).ports = s.ports := rfl
@[simp] theorem setReport_pod (n : Nat) (f : StageReport → StageReport) (s : State) : (setReport n f s).pod = s.pod := rfl
@[simp] theorem setReport_thermal (n : Nat) (f : StageReport → StageReport) (s : State) : (setReport n f s).thermal = s.thermal := rfl
@[simp] theorem setReport_coolant (n : Nat) (f : StageReport → StageReport) (s : State) : (setReport n f s).coolant = s.coolant := rfl
@[simp] theorem setReport_shut (n : Nat) (f : StageReport → StageReport) (s : State) : (setReport n f s).shut = s.shut := rfl
@[simp] theorem setReport_fw (n : Nat) (f : StageReport → StageReport) (s : State) : (setReport n f s).fw = s.fw := rfl
@[simp] theorem setReport_ev (n : Nat) (f : StageReport → StageReport) (s : State) : (setReport n f s).ev = s.ev := rfl
@[simp] theorem setReport_trace (n : Nat) (f : StageReport → StageReport) (s : State) : (setReport n f s).trace = s.trace := rfl
@[simp] theorem setReport_tele (n : Nat) (f : StageReport → StageReport) (s : State) : (setReport n f s).tele = s.tele := rfl
@[simp] theorem setReport_sram (n : Nat) (f : StageReport → StageReport) (s : State) : (setReport n f s).sram = s.sram := rfl
@[simp] theorem setReport_timebase (n : Nat) (f : StageReport → StageReport) (s : State) : (setReport n f s).timebase = s.timebase := rfl
@[simp] theorem setReport_fresh (n : Nat) (f : StageReport → StageReport) (s : State) : (setReport n f s).fresh = s.fresh := rfl
@[simp] theorem setReport_waits (n : Nat) (f : StageReport → StageReport) (s : State) : (setReport n f s).waits = s.waits := rfl
@[simp] theorem setReport_out (n : Nat) (f : StageReport → StageReport) (s : State) : (setReport n f s).out = s.out := rfl
@[simp] theorem setReport_pending (n : Nat) (f : StageReport → StageReport) (s : State) : (setReport n f s).pending = s.pending := rfl

@[simp] theorem setCompl_power (a : Nat) (f : Compl → Compl) (s : State) : (setCompl a f s).power = s.power := rfl
@[simp] theorem setCompl_pace (a : Nat) (f : Compl → Compl) (s : State) : (setCompl a f s).pace = s.pace := rfl
@[simp] theorem setCompl_bring (a : Nat) (f : Compl → Compl) (s : State) : (setCompl a f s).bring = s.bring := rfl
@[simp] theorem setCompl_pcie (a : Nat) (f : Compl → Compl) (s : State) : (setCompl a f s).pcie = s.pcie := rfl
@[simp] theorem setCompl_mail (a : Nat) (f : Compl → Compl) (s : State) : (setCompl a f s).mail = s.mail := rfl
@[simp] theorem setCompl_sched (a : Nat) (f : Compl → Compl) (s : State) : (setCompl a f s).sched = s.sched := rfl
@[simp] theorem setCompl_tiles (a : Nat) (f : Compl → Compl) (s : State) : (setCompl a f s).tiles = s.tiles := rfl
@[simp] theorem setCompl_stack (a : Nat) (f : Compl → Compl) (s : State) : (setCompl a f s).stack = s.stack := rfl
@[simp] theorem setCompl_cache (a : Nat) (f : Compl → Compl) (s : State) : (setCompl a f s).cache = s.cache := rfl
@[simp] theorem setCompl_mesh (a : Nat) (f : Compl → Compl) (s : State) : (setCompl a f s).mesh = s.mesh := rfl
@[simp] theorem setCompl_awls (a : Nat) (f : Compl → Compl) (s : State) : (setCompl a f s).awls = s.awls := rfl
@[simp] theorem setCompl_ports (a : Nat) (f : Compl → Compl) (s : State) : (setCompl a f s).ports = s.ports := rfl
@[simp] theorem setCompl_pod (a : Nat) (f : Compl → Compl) (s : State) : (setCompl a f s).pod = s.pod := rfl
@[simp] theorem setCompl_thermal (a : Nat) (f : Compl → Compl) (s : State) : (setCompl a f s).thermal = s.thermal := rfl
@[simp] theorem setCompl_coolant (a : Nat) (f : Compl → Compl) (s : State) : (setCompl a f s).coolant = s.coolant := rfl
@[simp] theorem setCompl_shut (a : Nat) (f : Compl → Compl) (s : State) : (setCompl a f s).shut = s.shut := rfl
@[simp] theorem setCompl_fw (a : Nat) (f : Compl → Compl) (s : State) : (setCompl a f s).fw = s.fw := rfl
@[simp] theorem setCompl_ev (a : Nat) (f : Compl → Compl) (s : State) : (setCompl a f s).ev = s.ev := rfl
@[simp] theorem setCompl_trace (a : Nat) (f : Compl → Compl) (s : State) : (setCompl a f s).trace = s.trace := rfl
@[simp] theorem setCompl_tele (a : Nat) (f : Compl → Compl) (s : State) : (setCompl a f s).tele = s.tele := rfl
@[simp] theorem setCompl_sram (a : Nat) (f : Compl → Compl) (s : State) : (setCompl a f s).sram = s.sram := rfl
@[simp] theorem setCompl_timebase (a : Nat) (f : Compl → Compl) (s : State) : (setCompl a f s).timebase = s.timebase := rfl
@[simp] theorem setCompl_fresh (a : Nat) (f : Compl → Compl) (s : State) : (setCompl a f s).fresh = s.fresh := rfl
@[simp] theorem setCompl_waits (a : Nat) (f : Compl → Compl) (s : State) : (setCompl a f s).waits = s.waits := rfl
@[simp] theorem setCompl_out (a : Nat) (f : Compl → Compl) (s : State) : (setCompl a f s).out = s.out := rfl
@[simp] theorem setCompl_pending (a : Nat) (f : Compl → Compl) (s : State) : (setCompl a f s).pending = s.pending := rfl

@[simp] theorem setSub_power (i : Nat) (f : Sub → Sub) (s : State) : (setSub i f s).power = s.power := rfl
@[simp] theorem setSub_pace (i : Nat) (f : Sub → Sub) (s : State) : (setSub i f s).pace = s.pace := rfl
@[simp] theorem setSub_bring (i : Nat) (f : Sub → Sub) (s : State) : (setSub i f s).bring = s.bring := rfl
@[simp] theorem setSub_pcie (i : Nat) (f : Sub → Sub) (s : State) : (setSub i f s).pcie = s.pcie := rfl
@[simp] theorem setSub_mail (i : Nat) (f : Sub → Sub) (s : State) : (setSub i f s).mail = s.mail := rfl
@[simp] theorem setSub_obj (i : Nat) (f : Sub → Sub) (s : State) : (setSub i f s).obj = s.obj := rfl
@[simp] theorem setSub_tiles (i : Nat) (f : Sub → Sub) (s : State) : (setSub i f s).tiles = s.tiles := rfl
@[simp] theorem setSub_stack (i : Nat) (f : Sub → Sub) (s : State) : (setSub i f s).stack = s.stack := rfl
@[simp] theorem setSub_cache (i : Nat) (f : Sub → Sub) (s : State) : (setSub i f s).cache = s.cache := rfl
@[simp] theorem setSub_mesh (i : Nat) (f : Sub → Sub) (s : State) : (setSub i f s).mesh = s.mesh := rfl
@[simp] theorem setSub_awls (i : Nat) (f : Sub → Sub) (s : State) : (setSub i f s).awls = s.awls := rfl
@[simp] theorem setSub_ports (i : Nat) (f : Sub → Sub) (s : State) : (setSub i f s).ports = s.ports := rfl
@[simp] theorem setSub_pod (i : Nat) (f : Sub → Sub) (s : State) : (setSub i f s).pod = s.pod := rfl
@[simp] theorem setSub_thermal (i : Nat) (f : Sub → Sub) (s : State) : (setSub i f s).thermal = s.thermal := rfl
@[simp] theorem setSub_coolant (i : Nat) (f : Sub → Sub) (s : State) : (setSub i f s).coolant = s.coolant := rfl
@[simp] theorem setSub_shut (i : Nat) (f : Sub → Sub) (s : State) : (setSub i f s).shut = s.shut := rfl
@[simp] theorem setSub_fw (i : Nat) (f : Sub → Sub) (s : State) : (setSub i f s).fw = s.fw := rfl
@[simp] theorem setSub_ev (i : Nat) (f : Sub → Sub) (s : State) : (setSub i f s).ev = s.ev := rfl
@[simp] theorem setSub_trace (i : Nat) (f : Sub → Sub) (s : State) : (setSub i f s).trace = s.trace := rfl
@[simp] theorem setSub_tele (i : Nat) (f : Sub → Sub) (s : State) : (setSub i f s).tele = s.tele := rfl
@[simp] theorem setSub_sram (i : Nat) (f : Sub → Sub) (s : State) : (setSub i f s).sram = s.sram := rfl
@[simp] theorem setSub_timebase (i : Nat) (f : Sub → Sub) (s : State) : (setSub i f s).timebase = s.timebase := rfl
@[simp] theorem setSub_fresh (i : Nat) (f : Sub → Sub) (s : State) : (setSub i f s).fresh = s.fresh := rfl
@[simp] theorem setSub_waits (i : Nat) (f : Sub → Sub) (s : State) : (setSub i f s).waits = s.waits := rfl
@[simp] theorem setSub_out (i : Nat) (f : Sub → Sub) (s : State) : (setSub i f s).out = s.out := rfl
@[simp] theorem setSub_pending (i : Nat) (f : Sub → Sub) (s : State) : (setSub i f s).pending = s.pending := rfl

@[simp] theorem setPool_power (i : Nat) (f : Pool → Pool) (s : State) : (setPool i f s).power = s.power := rfl
@[simp] theorem setPool_pace (i : Nat) (f : Pool → Pool) (s : State) : (setPool i f s).pace = s.pace := rfl
@[simp] theorem setPool_bring (i : Nat) (f : Pool → Pool) (s : State) : (setPool i f s).bring = s.bring := rfl
@[simp] theorem setPool_pcie (i : Nat) (f : Pool → Pool) (s : State) : (setPool i f s).pcie = s.pcie := rfl
@[simp] theorem setPool_mail (i : Nat) (f : Pool → Pool) (s : State) : (setPool i f s).mail = s.mail := rfl
@[simp] theorem setPool_sched (i : Nat) (f : Pool → Pool) (s : State) : (setPool i f s).sched = s.sched := rfl
@[simp] theorem setPool_tiles (i : Nat) (f : Pool → Pool) (s : State) : (setPool i f s).tiles = s.tiles := rfl
@[simp] theorem setPool_stack (i : Nat) (f : Pool → Pool) (s : State) : (setPool i f s).stack = s.stack := rfl
@[simp] theorem setPool_cache (i : Nat) (f : Pool → Pool) (s : State) : (setPool i f s).cache = s.cache := rfl
@[simp] theorem setPool_mesh (i : Nat) (f : Pool → Pool) (s : State) : (setPool i f s).mesh = s.mesh := rfl
@[simp] theorem setPool_awls (i : Nat) (f : Pool → Pool) (s : State) : (setPool i f s).awls = s.awls := rfl
@[simp] theorem setPool_ports (i : Nat) (f : Pool → Pool) (s : State) : (setPool i f s).ports = s.ports := rfl
@[simp] theorem setPool_pod (i : Nat) (f : Pool → Pool) (s : State) : (setPool i f s).pod = s.pod := rfl
@[simp] theorem setPool_thermal (i : Nat) (f : Pool → Pool) (s : State) : (setPool i f s).thermal = s.thermal := rfl
@[simp] theorem setPool_coolant (i : Nat) (f : Pool → Pool) (s : State) : (setPool i f s).coolant = s.coolant := rfl
@[simp] theorem setPool_shut (i : Nat) (f : Pool → Pool) (s : State) : (setPool i f s).shut = s.shut := rfl
@[simp] theorem setPool_fw (i : Nat) (f : Pool → Pool) (s : State) : (setPool i f s).fw = s.fw := rfl
@[simp] theorem setPool_ev (i : Nat) (f : Pool → Pool) (s : State) : (setPool i f s).ev = s.ev := rfl
@[simp] theorem setPool_trace (i : Nat) (f : Pool → Pool) (s : State) : (setPool i f s).trace = s.trace := rfl
@[simp] theorem setPool_tele (i : Nat) (f : Pool → Pool) (s : State) : (setPool i f s).tele = s.tele := rfl
@[simp] theorem setPool_sram (i : Nat) (f : Pool → Pool) (s : State) : (setPool i f s).sram = s.sram := rfl
@[simp] theorem setPool_timebase (i : Nat) (f : Pool → Pool) (s : State) : (setPool i f s).timebase = s.timebase := rfl
@[simp] theorem setPool_fresh (i : Nat) (f : Pool → Pool) (s : State) : (setPool i f s).fresh = s.fresh := rfl
@[simp] theorem setPool_waits (i : Nat) (f : Pool → Pool) (s : State) : (setPool i f s).waits = s.waits := rfl
@[simp] theorem setPool_out (i : Nat) (f : Pool → Pool) (s : State) : (setPool i f s).out = s.out := rfl
@[simp] theorem setPool_pending (i : Nat) (f : Pool → Pool) (s : State) : (setPool i f s).pending = s.pending := rfl

@[simp] theorem setClass_power (i : Nat) (f : PClass → PClass) (s : State) : (setClass i f s).power = s.power := rfl
@[simp] theorem setClass_pace (i : Nat) (f : PClass → PClass) (s : State) : (setClass i f s).pace = s.pace := rfl
@[simp] theorem setClass_bring (i : Nat) (f : PClass → PClass) (s : State) : (setClass i f s).bring = s.bring := rfl
@[simp] theorem setClass_pcie (i : Nat) (f : PClass → PClass) (s : State) : (setClass i f s).pcie = s.pcie := rfl
@[simp] theorem setClass_mail (i : Nat) (f : PClass → PClass) (s : State) : (setClass i f s).mail = s.mail := rfl
@[simp] theorem setClass_sched (i : Nat) (f : PClass → PClass) (s : State) : (setClass i f s).sched = s.sched := rfl
@[simp] theorem setClass_tiles (i : Nat) (f : PClass → PClass) (s : State) : (setClass i f s).tiles = s.tiles := rfl
@[simp] theorem setClass_stack (i : Nat) (f : PClass → PClass) (s : State) : (setClass i f s).stack = s.stack := rfl
@[simp] theorem setClass_cache (i : Nat) (f : PClass → PClass) (s : State) : (setClass i f s).cache = s.cache := rfl
@[simp] theorem setClass_mesh (i : Nat) (f : PClass → PClass) (s : State) : (setClass i f s).mesh = s.mesh := rfl
@[simp] theorem setClass_awls (i : Nat) (f : PClass → PClass) (s : State) : (setClass i f s).awls = s.awls := rfl
@[simp] theorem setClass_ports (i : Nat) (f : PClass → PClass) (s : State) : (setClass i f s).ports = s.ports := rfl
@[simp] theorem setClass_pod (i : Nat) (f : PClass → PClass) (s : State) : (setClass i f s).pod = s.pod := rfl
@[simp] theorem setClass_thermal (i : Nat) (f : PClass → PClass) (s : State) : (setClass i f s).thermal = s.thermal := rfl
@[simp] theorem setClass_coolant (i : Nat) (f : PClass → PClass) (s : State) : (setClass i f s).coolant = s.coolant := rfl
@[simp] theorem setClass_shut (i : Nat) (f : PClass → PClass) (s : State) : (setClass i f s).shut = s.shut := rfl
@[simp] theorem setClass_fw (i : Nat) (f : PClass → PClass) (s : State) : (setClass i f s).fw = s.fw := rfl
@[simp] theorem setClass_ev (i : Nat) (f : PClass → PClass) (s : State) : (setClass i f s).ev = s.ev := rfl
@[simp] theorem setClass_trace (i : Nat) (f : PClass → PClass) (s : State) : (setClass i f s).trace = s.trace := rfl
@[simp] theorem setClass_tele (i : Nat) (f : PClass → PClass) (s : State) : (setClass i f s).tele = s.tele := rfl
@[simp] theorem setClass_sram (i : Nat) (f : PClass → PClass) (s : State) : (setClass i f s).sram = s.sram := rfl
@[simp] theorem setClass_timebase (i : Nat) (f : PClass → PClass) (s : State) : (setClass i f s).timebase = s.timebase := rfl
@[simp] theorem setClass_fresh (i : Nat) (f : PClass → PClass) (s : State) : (setClass i f s).fresh = s.fresh := rfl
@[simp] theorem setClass_waits (i : Nat) (f : PClass → PClass) (s : State) : (setClass i f s).waits = s.waits := rfl
@[simp] theorem setClass_out (i : Nat) (f : PClass → PClass) (s : State) : (setClass i f s).out = s.out := rfl
@[simp] theorem setClass_pending (i : Nat) (f : PClass → PClass) (s : State) : (setClass i f s).pending = s.pending := rfl

@[simp] theorem setPStat_power (i : Nat) (f : PStat → PStat) (s : State) : (setPStat i f s).power = s.power := rfl
@[simp] theorem setPStat_pace (i : Nat) (f : PStat → PStat) (s : State) : (setPStat i f s).pace = s.pace := rfl
@[simp] theorem setPStat_bring (i : Nat) (f : PStat → PStat) (s : State) : (setPStat i f s).bring = s.bring := rfl
@[simp] theorem setPStat_pcie (i : Nat) (f : PStat → PStat) (s : State) : (setPStat i f s).pcie = s.pcie := rfl
@[simp] theorem setPStat_mail (i : Nat) (f : PStat → PStat) (s : State) : (setPStat i f s).mail = s.mail := rfl
@[simp] theorem setPStat_sched (i : Nat) (f : PStat → PStat) (s : State) : (setPStat i f s).sched = s.sched := rfl
@[simp] theorem setPStat_tiles (i : Nat) (f : PStat → PStat) (s : State) : (setPStat i f s).tiles = s.tiles := rfl
@[simp] theorem setPStat_stack (i : Nat) (f : PStat → PStat) (s : State) : (setPStat i f s).stack = s.stack := rfl
@[simp] theorem setPStat_cache (i : Nat) (f : PStat → PStat) (s : State) : (setPStat i f s).cache = s.cache := rfl
@[simp] theorem setPStat_mesh (i : Nat) (f : PStat → PStat) (s : State) : (setPStat i f s).mesh = s.mesh := rfl
@[simp] theorem setPStat_awls (i : Nat) (f : PStat → PStat) (s : State) : (setPStat i f s).awls = s.awls := rfl
@[simp] theorem setPStat_ports (i : Nat) (f : PStat → PStat) (s : State) : (setPStat i f s).ports = s.ports := rfl
@[simp] theorem setPStat_pod (i : Nat) (f : PStat → PStat) (s : State) : (setPStat i f s).pod = s.pod := rfl
@[simp] theorem setPStat_thermal (i : Nat) (f : PStat → PStat) (s : State) : (setPStat i f s).thermal = s.thermal := rfl
@[simp] theorem setPStat_coolant (i : Nat) (f : PStat → PStat) (s : State) : (setPStat i f s).coolant = s.coolant := rfl
@[simp] theorem setPStat_shut (i : Nat) (f : PStat → PStat) (s : State) : (setPStat i f s).shut = s.shut := rfl
@[simp] theorem setPStat_fw (i : Nat) (f : PStat → PStat) (s : State) : (setPStat i f s).fw = s.fw := rfl
@[simp] theorem setPStat_ev (i : Nat) (f : PStat → PStat) (s : State) : (setPStat i f s).ev = s.ev := rfl
@[simp] theorem setPStat_trace (i : Nat) (f : PStat → PStat) (s : State) : (setPStat i f s).trace = s.trace := rfl
@[simp] theorem setPStat_tele (i : Nat) (f : PStat → PStat) (s : State) : (setPStat i f s).tele = s.tele := rfl
@[simp] theorem setPStat_sram (i : Nat) (f : PStat → PStat) (s : State) : (setPStat i f s).sram = s.sram := rfl
@[simp] theorem setPStat_timebase (i : Nat) (f : PStat → PStat) (s : State) : (setPStat i f s).timebase = s.timebase := rfl
@[simp] theorem setPStat_fresh (i : Nat) (f : PStat → PStat) (s : State) : (setPStat i f s).fresh = s.fresh := rfl
@[simp] theorem setPStat_waits (i : Nat) (f : PStat → PStat) (s : State) : (setPStat i f s).waits = s.waits := rfl
@[simp] theorem setPStat_out (i : Nat) (f : PStat → PStat) (s : State) : (setPStat i f s).out = s.out := rfl
@[simp] theorem setPStat_pending (i : Nat) (f : PStat → PStat) (s : State) : (setPStat i f s).pending = s.pending := rfl

@[simp] theorem setVin_pace (v : Nat) (s : State) : (setVin v s).pace = s.pace := rfl
@[simp] theorem setVin_bring (v : Nat) (s : State) : (setVin v s).bring = s.bring := rfl
@[simp] theorem setVin_pcie (v : Nat) (s : State) : (setVin v s).pcie = s.pcie := rfl
@[simp] theorem setVin_mail (v : Nat) (s : State) : (setVin v s).mail = s.mail := rfl
@[simp] theorem setVin_obj (v : Nat) (s : State) : (setVin v s).obj = s.obj := rfl
@[simp] theorem setVin_sched (v : Nat) (s : State) : (setVin v s).sched = s.sched := rfl
@[simp] theorem setVin_tiles (v : Nat) (s : State) : (setVin v s).tiles = s.tiles := rfl
@[simp] theorem setVin_stack (v : Nat) (s : State) : (setVin v s).stack = s.stack := rfl
@[simp] theorem setVin_cache (v : Nat) (s : State) : (setVin v s).cache = s.cache := rfl
@[simp] theorem setVin_mesh (v : Nat) (s : State) : (setVin v s).mesh = s.mesh := rfl
@[simp] theorem setVin_awls (v : Nat) (s : State) : (setVin v s).awls = s.awls := rfl
@[simp] theorem setVin_ports (v : Nat) (s : State) : (setVin v s).ports = s.ports := rfl
@[simp] theorem setVin_pod (v : Nat) (s : State) : (setVin v s).pod = s.pod := rfl
@[simp] theorem setVin_thermal (v : Nat) (s : State) : (setVin v s).thermal = s.thermal := rfl
@[simp] theorem setVin_coolant (v : Nat) (s : State) : (setVin v s).coolant = s.coolant := rfl
@[simp] theorem setVin_shut (v : Nat) (s : State) : (setVin v s).shut = s.shut := rfl
@[simp] theorem setVin_fw (v : Nat) (s : State) : (setVin v s).fw = s.fw := rfl
@[simp] theorem setVin_ev (v : Nat) (s : State) : (setVin v s).ev = s.ev := rfl
@[simp] theorem setVin_trace (v : Nat) (s : State) : (setVin v s).trace = s.trace := rfl
@[simp] theorem setVin_tele (v : Nat) (s : State) : (setVin v s).tele = s.tele := rfl
@[simp] theorem setVin_sram (v : Nat) (s : State) : (setVin v s).sram = s.sram := rfl
@[simp] theorem setVin_timebase (v : Nat) (s : State) : (setVin v s).timebase = s.timebase := rfl
@[simp] theorem setVin_fresh (v : Nat) (s : State) : (setVin v s).fresh = s.fresh := rfl
@[simp] theorem setVin_waits (v : Nat) (s : State) : (setVin v s).waits = s.waits := rfl
@[simp] theorem setVin_out (v : Nat) (s : State) : (setVin v s).out = s.out := rfl
@[simp] theorem setVin_pending (v : Nat) (s : State) : (setVin v s).pending = s.pending := rfl

@[simp] theorem tick_power (s : State) : (tick s).power = s.power := rfl
@[simp] theorem tick_pace (s : State) : (tick s).pace = s.pace := rfl
@[simp] theorem tick_bring (s : State) : (tick s).bring = s.bring := rfl
@[simp] theorem tick_pcie (s : State) : (tick s).pcie = s.pcie := rfl
@[simp] theorem tick_mail (s : State) : (tick s).mail = s.mail := rfl
@[simp] theorem tick_obj (s : State) : (tick s).obj = s.obj := rfl
@[simp] theorem tick_sched (s : State) : (tick s).sched = s.sched := rfl
@[simp] theorem tick_tiles (s : State) : (tick s).tiles = s.tiles := rfl
@[simp] theorem tick_stack (s : State) : (tick s).stack = s.stack := rfl
@[simp] theorem tick_cache (s : State) : (tick s).cache = s.cache := rfl
@[simp] theorem tick_mesh (s : State) : (tick s).mesh = s.mesh := rfl
@[simp] theorem tick_awls (s : State) : (tick s).awls = s.awls := rfl
@[simp] theorem tick_ports (s : State) : (tick s).ports = s.ports := rfl
@[simp] theorem tick_pod (s : State) : (tick s).pod = s.pod := rfl
@[simp] theorem tick_thermal (s : State) : (tick s).thermal = s.thermal := rfl
@[simp] theorem tick_coolant (s : State) : (tick s).coolant = s.coolant := rfl
@[simp] theorem tick_shut (s : State) : (tick s).shut = s.shut := rfl
@[simp] theorem tick_fw (s : State) : (tick s).fw = s.fw := rfl
@[simp] theorem tick_ev (s : State) : (tick s).ev = s.ev := rfl
@[simp] theorem tick_trace (s : State) : (tick s).trace = s.trace := rfl
@[simp] theorem tick_tele (s : State) : (tick s).tele = s.tele := rfl
@[simp] theorem tick_sram (s : State) : (tick s).sram = s.sram := rfl
@[simp] theorem tick_timebase (s : State) : (tick s).timebase = s.timebase := rfl
@[simp] theorem tick_fresh (s : State) : (tick s).fresh = s.fresh + 1 := rfl
@[simp] theorem tick_waits (s : State) : (tick s).waits = s.waits := rfl
@[simp] theorem tick_out (s : State) : (tick s).out = s.out := rfl
@[simp] theorem tick_pending (s : State) : (tick s).pending = s.pending := rfl

/-! ### Reading what was written -/

@[simp] theorem port_setPort (s : State) (p : Nat) (f : Port → Port) : port (setPort s p f) p = f (port s p) := Tab.get_upd_self ..

theorem port_setPort_ne (s : State) {p q : Nat} (f : Port → Port) (h : q ≠ p) : port (setPort s p f) q = port s q :=
  Tab.get_upd_ne _ _ _ h

@[simp] theorem tileOf_setTile (t : Nat) (f : Tile → Tile) (s : State) : tileOf (setTile t f s) t = f (tileOf s t) :=
  Tab.get_upd_self ..

theorem tileOf_setTile_ne {t u : Nat} (f : Tile → Tile) (s : State) (h : u ≠ t) : tileOf (setTile t f s) u = tileOf s u :=
  Tab.get_upd_ne _ _ _ h

@[simp] theorem awlOf_setAwl (a : Nat) (f : Awl → Awl) (s : State) : awlOf (setAwl a f s) a = f (awlOf s a) :=
  Tab.get_upd_self ..

theorem awlOf_setAwl_ne {a b : Nat} (f : Awl → Awl) (s : State) (h : b ≠ a) : awlOf (setAwl a f s) b = awlOf s b :=
  Tab.get_upd_ne _ _ _ h

@[simp] theorem shankOf_setShank (t : Nat) (f : Shank → Shank) (s : State) : shankOf (setShank t f s) t = f (shankOf s t) :=
  Tab.get_upd_self ..

theorem shankOf_setShank_ne {t u : Nat} (f : Shank → Shank) (s : State) (h : u ≠ t) :
    shankOf (setShank t f s) u = shankOf s u := Tab.get_upd_ne _ _ _ h

@[simp] theorem sideOf_setSide (i : Nat) (f : Side → Side) (s : State) : sideOf (setSide i f s) i = f (sideOf s i) :=
  Tab.get_upd_self ..

theorem sideOf_setSide_ne {i j : Nat} (f : Side → Side) (s : State) (h : j ≠ i) : sideOf (setSide i f s) j = sideOf s j :=
  Tab.get_upd_ne _ _ _ h

@[simp] theorem tierOf_setTier (i : Nat) (f : Tier → Tier) (s : State) : tierOf (setTier i f s) i = f (tierOf s i) :=
  Tab.get_upd_self ..

theorem tierOf_setTier_ne {i j : Nat} (f : Tier → Tier) (s : State) (h : j ≠ i) : tierOf (setTier i f s) j = tierOf s j :=
  Tab.get_upd_ne _ _ _ h

@[simp] theorem l2Line_setLine (t set way : Nat) (v : L2Line) (s : State) : l2Line (setLine t set way v s) t set way = v :=
  Tab.get_set_self ..

@[simp] theorem shankOf_setSide (t i : Nat) (f : Side → Side) (s : State) : shankOf (setSide i f s) t = shankOf s t := rfl

@[simp] theorem shankOf_setTier (t i : Nat) (f : Tier → Tier) (s : State) : shankOf (setTier i f s) t = shankOf s t := rfl

@[simp] theorem sideOf_setShank (t i : Nat) (f : Shank → Shank) (s : State) : sideOf (setShank t f s) i = sideOf s i := rfl

@[simp] theorem setShank_mem (t : Nat) (f : Shank → Shank) (s : State) : (setShank t f s).stack.mem = s.stack.mem := rfl

@[simp] theorem setShank_mark (t : Nat) (f : Shank → Shank) (s : State) : (setShank t f s).stack.mark = s.stack.mark := rfl

@[simp] theorem setSide_mem (i : Nat) (f : Side → Side) (s : State) : (setSide i f s).stack.mem = s.stack.mem := rfl

@[simp] theorem setSide_mark (i : Nat) (f : Side → Side) (s : State) : (setSide i f s).stack.mark = s.stack.mark := rfl

@[simp] theorem setTier_mem (i : Nat) (f : Tier → Tier) (s : State) : (setTier i f s).stack.mem = s.stack.mem := rfl

@[simp] theorem setTier_mark (i : Nat) (f : Tier → Tier) (s : State) : (setTier i f s).stack.mark = s.stack.mark := rfl

@[simp] theorem setSub_ready (i : Nat) (f : Sub → Sub) (s : State) : (setSub i f s).sched.ready = s.sched.ready := rfl

end Sys2Proof.Machine
end

