-- ==== Sys2Proof/Machine/Control.lean ====
section
/-! DEFINITION. Control space (R221): what each control address holds, and an access of the Cobbler to it. No row of the
table is such an access (the firmware's own instructions make them), so the operations stand beside the rows. -/

namespace Sys2Proof.Machine

/-- A region of control space (Table 7.7), with the offset in it. -/
inductive ControlPlace where
  | bar0 (x : Nat)
  | sram (x : Nat)
  | rom (x : Nat)
  | nor (x : Nat)
  | reserved
  deriving DecidableEq, Repr

/-- The region of a control address (Table 7.7). -/
def controlPlace (a : Nat) : ControlPlace :=
  if a < 0xFF0000000000 then .reserved
  else
    let x := a - 0xFF0000000000
    if x < 0x4000000 then .bar0 x
    else if x < 0x4400000 then .sram (x - 0x4000000)
    else if 0x8000000 ≤ x ∧ x < 0x8040000 then .rom (x - 0x8000000)
    else if 0xC000000 ≤ x ∧ x < 0x10000000 then .nor (x - 0xC000000)
    else .reserved

/-- A byte of the NOR flash (Table 17.2): the two firmware slots as far as their images reach, else the module's own
contents, whose encoding the spec does not give (log 166). -/
def norByte (s : State) (x : Nat) : Byte :=
  let slot (n : Nat) (off : Nat) : Byte :=
    let bs := if n ≠ s.fw.running ∧ s.fw.staged ≠ [] then s.fw.staged else (s.fw.slot n).data
    bs.getD off (Config.norByte x)
  if x < 0x1000000 then slot 0 x
  else if x < 0x2000000 then slot 1 (x - 0x1000000)
  else Config.norByte x

/-- A byte of control space as the Cobbler reads it; none where nothing lies. -/
def controlByte (s : State) (a : Nat) : Option Byte :=
  match controlPlace a with
  | .bar0 x => some (bar0Byte s x)
  | .sram x => some (Tab.get 0 s.sram x)
  | .rom x => some (Config.romByte x)
  | .nor x => some (norByte s x)
  | .reserved => none

/-- A read by the Cobbler in control space: its bytes, or the error completion of a hole with its event (R203, R221). -/
def controlRead (a n : Nat) (s : State) : State × Option Bytes :=
  match (List.range n).mapM fun i => controlByte s (a + i) with
  | some bs => (s, some bs)
  | none => (addressFault 0 a s, none)

/-- A write by the Cobbler in control space: SRAM takes it, the boot ROM does not; what its writes do to the BAR0 image and to
the flash is what its commands do (R363, R457). A write that meets a reserved address changes nothing. -/
def controlWrite (a : Nat) (bs : Bytes) (s : State) : State :=
  if (List.range bs.length).any fun i => controlPlace (a + i) == .reserved then addressFault 0 a s
  else
    let m := bs.zipIdx.foldl (fun m (b, i) => match controlPlace (a + i) with
      | .sram x => Tab.set 0 m x b
      | _ => m) s.sram
    { s with sram := m }

end Sys2Proof.Machine
end

