-- ==== Sys2Proof/WellFormed.lean ====
section
/-! DEFINITION. When a command is well formed: every unit that it names exists, and every datum that it brings from
outside has the width and length that the spec gives it. The meanings do not rest on it: a command about a unit that
does not exist changes nothing (log 1). -/

namespace Sys2Proof

/-- One of `n` units, or a value below a bound. -/
def wfUnit (n k : Nat) : Bool := decide (k < n)

/-- A tier M1 to M8. -/
def wfTier (m : Nat) : Bool := decide (1 ≤ m) && decide (m ≤ 8)

/-- A mailbox slot, or a device with a message number. -/
def wfOrigin : Origin → Bool
  | .slot n => wfUnit 64 n
  | .relay dev seq => wfUnit 64 dev && wfUnit (2 ^ 32) seq

/-- The unit on whose behalf memory is accessed exists. -/
def wfRequester : Requester → Bool
  | .tile t | .operand t | .stationary t | .output t | .walker t | .frame t => wfUnit 256 t
  | .awl a => wfUnit 2048 a
  | .port p => wfUnit 32 p
  | .host | .module => true

/-- A line's data, one entry for each byte. -/
def wfLine (data : List (Option Byte)) : Bool := decide (data.length = 128)

/-- Errors lie in a sector of the line and a symbol of the code word or a copy of the dead bit. -/
def wfErrors (es : List CellError) : Bool := es.all fun e => wfUnit 4 e.sector && wfUnit 39 e.symbol

/-- Crossing errors lie in a byte of the line or of a guard word (R168). -/
def wfCross (es : List LaneError) : Bool := es.all fun e => wfUnit 144 e.byte

/-- Lane errors lie in a lane's share of a codeword, with its marker where one stands (R309), and a flit has 256 bytes (R316). -/
def wfWire (es : List WireError) : Bool := es.all fun e => wfUnit 4 e.lane && wfUnit 1400 e.bit
def wfFlit (f : RxFlit) : Bool := decide (f.flit.length = 256) && wfWire f.errs

/-- A speed code and a width of Table 13.1. -/
def wfLink (speed width : Nat) : Bool := decide (1 ≤ speed) && decide (speed ≤ 6) && [1, 2, 4, 8, 16].contains width

/-- Lines of other modules: 128 bytes at a line's address, with a sector mask. -/
def wfRemote (rd : Remote) : Bool := rd.all fun l =>
  wfUnit (2 ^ 54) l.addr && l.addr % 128 == 0 && decide (l.data.length = 128) && wfUnit 16 l.poison

/-- A sensor group that exists, and a reading of one of its sensors. -/
def wfGroup : Group → Bool
  | .hot h => wfUnit 32 h
  | .tier m => wfTier m
  | .side i => wfUnit 12 i
  | .coolant => true
def wfReading (r : Reading) : Bool := wfGroup r.group && wfUnit (match r.group with
  | .hot _ | .coolant => 2
  | .tier _ => 16
  | .side _ => 4) r.idx

/-- A vector operation names a lane that exists. -/
def wfVecOp : VecOp → Bool
  | .broadcast k | .insert k | .extract k => wfUnit 16 k
  | _ => true

/-- An access to a side-stack line. -/
def wfSideAccess : SideAccess → Bool
  | .read sectors => wfUnit 16 sectors
  | .write data => wfLine data
  | .add _ mask data => wfUnit (2 ^ 32) mask && decide (data.length = 128)

/-- A completion of a read of host memory carries at most 4 KiB. -/
def wfCpl : HostCpl → Bool
  | .data bs | .ep bs => decide (bs.length ≤ 4096)
  | .unsupported | .abort => true

/-- Sizes of the function's controls are those that R370 names. -/
def wfCfg (c : HostCfg) : Bool :=
  [128, 256, 512].contains c.maxPayload && [128, 256, 512, 1024, 2048, 4096].contains c.maxRead

/-- A defective row lies in a unit, part, bank and row that exist. -/
def wfDefect (units subs banks rows : Nat) (d : RowDefect) : Bool :=
  wfUnit units d.unit && wfUnit subs d.sub && wfUnit banks d.bank && wfUnit rows d.row

/-- What a TRAIN flit carries fits its fields (Table 11.5). -/
def wfTrain (b : TrainBody) : Bool :=
  wfUnit 256 b.version && wfUnit 32 b.port && wfUnit 4096 b.resumeSeq && wfUnit (2 ^ 64) b.serial

/-- A well-formed command. -/
def Instr.wellFormed : Instr → Bool
  | .powerApplication _ => true
  | .standbyRailRegulation _ => true
  | .startWaitExpiry => true
  | .startWaitRestart _ _ => true
  | .seatSenseOpen => true
  | .seatSenseClose => true
  | .inputRemoved _ => true
  | .inputUndervoltage _ _ => true
  | .inputOvervoltage _ _ => true
  | .inputOvercurrent _ _ => true
  | .shutdownRecordWrite => true
  | .perstPulse => true
  | .perstDeassert => true
  | .pcieLinkUp speed width _ => wfLink speed width
  | .stage0End _ _ => true
  | .stage1End _ _ _ _ => true
  | .coolantWaitMet _ _ => true
  | .coolantWaitTimeout => true
  | .stage2End rows tiersGood sidesGood sideRows _ =>
    rows.all (wfDefect 256 9 16 802) && wfUnit 256 tiersGood && wfUnit 4096 sidesGood && sideRows.all (wfDefect 12 32 16 131072)
  | .stage3End crcFails _ => (crcFails.all fun x => decide (x.1 < 256) && decide (x.2 < 17))
  | .stage4End _ tiles _ => tiles.all (wfUnit 256)
  | .stageBudgetTimeout => true
  | .cobblerWatchdog _ => true
  | .paceMonitorWindow n _ => wfUnit 36 n
  | .powerWindow _ _ => true
  | .safetyRampDownEnd => true
  | .opPointChange => true
  | .portPark p => wfUnit 32 p
  | .disciplineChange => true
  | .reductionChange => true
  | .paceMonRead n _ _ => wfUnit 36 n
  | .tierStatRead i _ _ => wfUnit 8 i
  | .periodicStatRead i _ _ => wfUnit 32 i
  | .portStatRead p _ _ => wfUnit 32 p
  | .identTimebaseRead _ _ => true
  | .shankStatWrite t value => wfUnit 256 t && wfUnit (2 ^ 64) value
  | .sideStatWrite i value => wfUnit 12 i && wfUnit (2 ^ 64) value
  | .memEccCfgWrite _ value => wfUnit (2 ^ 64) value
  | .bar2WinWrite _ value => wfUnit (2 ^ 64) value
  | .l2CfgWrite _ value => wfUnit (2 ^ 64) value
  | .ptmCtlWrite _ value => wfUnit (2 ^ 64) value
  | .msixModWrite v value => wfUnit 128 v && wfUnit (2 ^ 64) value
  | .msixTableWrite v dword value => wfUnit 128 v && wfUnit 4 dword && wfUnit (2 ^ 64) value
  | .bar0Write _ _ value _ => wfUnit (2 ^ 64) value
  | .mailboxSlotWrite slot off ds => wfUnit 64 slot && decide (off + ds.length ≤ 4096)
  | .bar2Resize _ => true
  | .busMasterEnable cfg => wfCfg cfg
  | .ptmEnable _ => true
  | .powerStateChange _ => true
  | .flr => true
  | .hotReset => true
  | .dlDown => true
  | .bar2Read _ _ => true
  | .bar2Write _ _ _ => true
  | .ptmDialog _ _ => true
  | .msixHoldoffExpiry v => wfUnit 128 v
  | .hostReadCompletion _ r rd => wfCpl r && wfRemote rd
  | .hostCompletionTimeout _ => true
  | .mailboxScan => true
  | .summary o => wfOrigin o
  | .summarySnapshot => true
  | .stageReport o => wfOrigin o
  | .setMode o => wfOrigin o
  | .setNetworkMode o => wfOrigin o
  | .setNetworkModeLoad o rd => wfOrigin o && wfRemote rd
  | .setNetworkModeUnload o => wfOrigin o
  | .setReduction o => wfOrigin o
  | .modelLoad o rd => wfOrigin o && wfRemote rd
  | .modelEvict o => wfOrigin o
  | .taskDefine o => wfOrigin o
  | .taskEnable o rd => wfOrigin o && wfRemote rd
  | .taskSubmit o rd => wfOrigin o && wfRemote rd
  | .gatherTimerExpiry _ => true
  | .taskAbort o => wfOrigin o
  | .periodicDefine o => wfOrigin o
  | .periodicEnable o => wfOrigin o
  | .seqCreate o => wfOrigin o
  | .seqExtend o => wfOrigin o
  | .seqFree o rd => wfOrigin o && wfRemote rd
  | .lend o => wfOrigin o
  | .lendProceed region => wfUnit 64 region
  | .returnRegion o => wfOrigin o
  | .awlRun o rd => wfOrigin o && wfRemote rd
  | .pin o => wfOrigin o
  | .unpin o => wfOrigin o
  | .discardCfg o => wfOrigin o
  | .discard o => wfOrigin o
  | .discardProceed o => wfOrigin o
  | .streamDefine o => wfOrigin o
  | .streamEnable o => wfOrigin o
  | .intakeDefine o => wfOrigin o
  | .completionDefine o => wfOrigin o
  | .podConfig o => wfOrigin o
  | .podSend o => wfOrigin o
  | .routeSet o => wfOrigin o
  | .fwStage o rd => wfOrigin o && wfRemote rd
  | .fwVerify o => wfOrigin o
  | .fwCommit o _ => wfOrigin o
  | .attest o => wfOrigin o
  | .ledgerRead o => wfOrigin o
  | .ledgerClear o rd => wfOrigin o && wfRemote rd
  | .countersRead o => wfOrigin o
  | .traceCfg o => wfOrigin o
  | .thermalCfg o => wfOrigin o
  | .coolantCfg o => wfOrigin o
  | .stackReset o => wfOrigin o
  | .intakePoll area rd => wfUnit 64 area && wfRemote rd
  | .streamTransfer _ rd => wfRemote rd
  | .streamTransferDone _ => true
  | .dispatchOperation rd => wfRemote rd
  | .operationEnd rd => wfRemote rd
  | .arrayBarrierRelease order rd => order.all (wfUnit 256) && wfRemote rd
  | .arrayResidue _ _ => true
  | .pageWalk _ _ _ rd => wfRemote rd
  | .tileScalarInteger t _ _ => wfUnit 256 t
  | .tileControl t _ => wfUnit 256 t
  | .tileLbScalar t _ _ _ => wfUnit 256 t
  | .tileVectorArith t op _ => wfUnit 256 t && wfVecOp op
  | .tileVectorConvert t _ _ _ => wfUnit 256 t
  | .tileLbVector t _ _ => wfUnit 256 t
  | .tileMemoryTransfer t _ _ rd => wfUnit 256 t && wfRemote rd
  | .tileAddToLine t _ mask rd => wfUnit 256 t && wfUnit (2 ^ 32) mask && wfRemote rd
  | .fence t rd => wfUnit 256 t && wfRemote rd
  | .sync t => wfUnit 256 t
  | .tileIdent t _ => wfUnit 256 t
  | .tileHalt t => wfUnit 256 t
  | .stackLineRead req a sectors errs again cross =>
    wfRequester req && wfUnit (2 ^ 48) a && wfUnit 16 sectors && wfErrors errs && wfErrors again && wfCross cross
  | .stackLineWrite req a ds errs cross =>
    wfRequester req && wfUnit (2 ^ 48) a && wfLine ds && wfErrors errs && wfCross cross
  | .rowRemapped _ _ => true
  | .guardMismatch req t _ a ds cross =>
    wfRequester req && wfUnit 256 t && wfUnit (2 ^ 48) a && wfLine ds && wfCross cross
  | .laneFault t g => wfUnit 256 t && wfUnit 17 g
  | .shankReconfigured t => wfUnit 256 t
  | .tierRailFailure m _ => wfTier m
  | .refreshSlot m t => wfTier m && wfUnit 256 t
  | .refreshPostponed m t => wfTier m && wfUnit 256 t
  | .refreshPreempt m t => wfTier m && wfUnit 256 t
  | .refreshBandDown m => wfTier m
  | .bucketLeak => true
  | .patrolScrubRead side errs again =>
    (match side with | some i => wfUnit 12 i | none => true) && wfErrors errs && wfErrors again
  | .sideStackAccess req a acc errs again =>
    wfRequester req && wfUnit (2 ^ 48) a && wfSideAccess acc && wfErrors errs && wfErrors again
  | .sideBandwidthWindow i => wfUnit 12 i
  | .sideLinkCheckFail i _ => wfUnit 12 i
  | .sideStackRetrain i _ => wfUnit 12 i
  | .l2Read req a => wfRequester req && wfUnit (2 ^ 48) a
  | .l2Write req a ds => wfRequester req && wfUnit (2 ^ 48) a && wfLine ds
  | .streamingRead req a => wfRequester req && wfUnit (2 ^ 48) a
  | .addToLine req a _ mask ds =>
    wfRequester req && wfUnit (2 ^ 48) a && wfUnit (2 ^ 32) mask && decide (ds.length = 128)
  | .l2Fill slice _ errs again cross => wfUnit 256 slice && wfErrors errs && wfErrors again && wfCross cross
  | .thrashWindow => true
  | .periodicRelease i => wfUnit 32 i
  | .periodicOverrun i => wfUnit 32 i
  | .awlRunStart rd => wfRemote rd
  | .awlRunEnd rd => wfRemote rd
  | .awlBudgetExpiry => true
  | .awlScalarInteger a _ _ => wfUnit 2048 a
  | .awlControl a _ => wfUnit 2048 a
  | .awlScratchScalar a _ _ _ => wfUnit 2048 a
  | .awlScratchVector a _ => wfUnit 2048 a
  | .awlVectorArith a op _ => wfUnit 2048 a && wfVecOp op
  | .awlVectorConvert a _ _ _ => wfUnit 2048 a
  | .ldl a => wfUnit 2048 a
  | .ldw a => wfUnit 2048 a
  | .awlLoadReturn a errs again => wfUnit 2048 a && wfErrors errs && wfErrors again
  | .stl a => wfUnit 2048 a
  | .stw a errs => wfUnit 2048 a && wfErrors errs
  | .linv a => wfUnit 2048 a
  | .lhome a => wfUnit 2048 a
  | .send a => wfUnit 2048 a
  | .bcast a => wfUnit 2048 a
  | .tierBusDelivery m => wfTier m
  | .recv a => wfUnit 2048 a
  | .bar a => wfUnit 2048 a
  | .awlBarrierRelease => true
  | .awlIdent a _ => wfUnit 2048 a
  | .yieldPoint a => wfUnit 2048 a
  | .hold a => wfUnit 2048 a
  | .release a => wfUnit 2048 a
  | .awlHalt a => wfUnit 2048 a
  | .trainingAttempt p => wfUnit 32 p
  | .portUp p partner credits _ => wfUnit 32 p && wfTrain partner && (credits.all fun c => decide (c < 2 ^ 16))
  | .portTrainingFailed p _ => wfUnit 32 p
  | .cableRemoved j => wfUnit 8 j
  | .flitData p f => wfUnit 32 p && wfFlit f
  | .flitIdle p f => wfUnit 32 p && wfFlit f
  | .flitTrain p f => wfUnit 32 p && wfFlit f
  | .flitCrcFailure p f => wfUnit 32 p && wfFlit f
  | .uncorrectableCodeword p errs => wfUnit 32 p && wfWire errs
  | .replayReq p f => wfUnit 32 p && wfFlit f
  | .nack p f => wfUnit 32 p && wfFlit f
  | .creditInit p f => wfUnit 32 p && wfFlit f
  | .retrainReq p f => wfUnit 32 p && wfFlit f
  | .quarantineNotice p f => wfUnit 32 p && wfFlit f
  | .park p f => wfUnit 32 p && wfFlit f
  | .replayReqResend p => wfUnit 32 p
  | .ackTimeoutReplay p => wfUnit 32 p
  | .ackIdle p => wfUnit 32 p
  | .creditInitResend p partner => wfUnit 32 p && (match partner with | some b => wfTrain b | none => true)
  | .idleInsertion p => wfUnit 32 p
  | .laneLockLoss p _ => wfUnit 32 p
  | .retrainingEnd p partner credits _ =>
    wfUnit 32 p && (match partner with | some b => wfTrain b | none => true) && (credits.all fun c => decide (c < 2 ^ 16))
  | .quarantineHoldExpiry p => wfUnit 32 p
  | .read p vc => wfUnit 32 p && wfUnit 4 vc
  | .write p vc => wfUnit 32 p && wfUnit 4 vc
  | .add p vc => wfUnit 32 p && wfUnit 4 vc
  | .copy p vc rd => wfUnit 32 p && wfUnit 4 vc && wfRemote rd
  | .signal p vc => wfUnit 32 p && wfUnit 4 vc
  | .signalSend _ => true
  | .collective _ => true
  | .resp p vc => wfUnit 32 p && wfUnit 4 vc
  | .data p vc => wfUnit 32 p && wfUnit 4 vc
  | .mailbox p vc => wfUnit 32 p && wfUnit 4 vc
  | .hello => true
  | .relayCmd => true
  | .relayRsp => true
  | .frameReq => true
  | .frameRsp => true
  | .eventFwd => true
  | .frameFree => true
  | .requestTimeout _ => true
  | .busyRetry _ => true
  | .podMemberMissing d => wfUnit 64 d
  | .sensorSample rs => rs.all wfReading
  | .thresholdClear g _ => wfGroup g
  | .sensorDisagree h => wfUnit 32 h
  | .flowSample _ => true
  | .thermalModelTick ps _ => (ps.all fun p => wfGroup p.group)
  | .tierSensorSuspect m _ => wfTier m
  | .coolantCycle _ => true
  | .pumpTachLost => true
  | .coolantWarning => true
  | .coolantWarningClear => true
  | .coolantLoss => true
  | .coolantLossClear => true
  | .thermalReport => true
  | .rateLimitIntervalEnd _ _ => true
  | .eventsSuppressed _ => true
  | .traceSample => true
  | .traceRecordWrite => true
  | .byteRead _ => true
  | .wordRead _ => true
  | .blockRead => true
  | .alertMaskWrite value _ => wfUnit (2 ^ 64) value
  | .alertStatusWrite value _ => wfUnit (2 ^ 64) value
  | .alertResponse => true
  | .cableInserted j => wfUnit 8 j
  | .flitUnknownType p f => wfUnit 32 p && wfFlit f
  | .messageUnknownType p vc => wfUnit 32 p && wfUnit 4 vc
  | .tileReservedOpcode t => wfUnit 256 t
  | .awlIllegalInstruction a => wfUnit 2048 a
  | .holdTimeReturn p => wfUnit 32 p
  | .rateCountBucket p => wfUnit 32 p
  | .functionMaskClear _ _ => true
  | .completionAreaHostCount area _ => wfUnit 64 area
  | .standbyRailLost _ => true

end Sys2Proof
end

