-- ==== Sys2Proof/Tests/Slice0.lean ====
section
/-! SUPPORT. The model's own tests: well-formedness refuses an ill-formed term for each of its checks, some values that
the spec gives, and for every statement that has hypotheses concrete states and operands that meet them. -/

namespace Sys2Proof.Tests

set_option Elab.async false

open Sys2Proof Sys2Proof.Machine

/-! ### States to test on -/

/-- `n` bytes, zero but for the values given with their offsets. -/
def pay (n : Nat) (fs : List (Nat × Nat)) : Bytes := natLE n (fs.foldl (fun a x => a + x.2 * 2 ^ (8 * x.1)) 0)

/-- Controls of the function, with Memory Space Enable and Max_Payload_Size as given. -/
def hostCfg (mem : Bool) (payload : Nat) : HostCfg :=
  { busMaster := true, memSpace := mem, relaxed := true, maxPayload := payload, maxRead := 512, tag10 := false, tag14 := false
    cplDisable := false, cplUs := 40000 }

/-- READY, with all rails up, the link up and the function's controls set. -/
def up : State := { State.reset with
  power := { phase := .up, vin := 54000, seatClosed := true, standby := true, coreRails := true, perstN := true
             perstHigh := true, timebaseOn := true, imageUp := true }
  pcie := { link := true, cfg := hostCfg true 128 } }

/-- As `up`, in another phase. -/
def inPhase (p : Phase) : State := { up with power := { up.power with phase := p } }

/-- A command of mailbox slot 0 accepted with a payload, the next to be checked. -/
def cmd (code : Nat) (pl : Bytes) (s : State) : State := { s with mail := { s.mail with
  accepted := [⟨.slot 0, code, 1, false, pl, false, 0, false⟩] } }

/-- A check that passes, as `Passes` says it. -/
theorem passes {s : State} {o : Origin} {code : Nat} {check : Bytes → State → List Fail} {a : Accepted}
    (h : accepted s o code = some a) (h' : pickFail (check a.payload s) = none) : Passes s o code check a.payload :=
  ⟨⟨a, h, rfl⟩, h'⟩

theorem passesCmd {s : State} {code : Nat} {check : Bytes → State → List Fail} {pl : Bytes}
    (h : (pickFail (check pl (cmd code pl s))).isNone = true) : Passes (cmd code pl s) (.slot 0) code check pl :=
  passes (a := ⟨.slot 0, code, 1, false, pl, false, 0, false⟩) (by simp [accepted, cmd]) (Option.isNone_iff_eq_none.mp h)

/-- What the reads of a command's check leave of a state. -/
def ahead (code : Nat) (pl : Bytes) (s : State) (reads : Bytes → State → List (Nat × Nat)) (rd : Remote) : State :=
  readAhead (reads pl (cmd code pl s)) rd { cmd code pl s with waits := false }

/-- A check that reads memory and passes, as `ReadsPass` says it. -/
theorem readsPass {s : State} {code : Nat} {reads : Bytes → State → List (Nat × Nat)} {rd : Remote}
    {check : Bytes → State → List Fail} {pl : Bytes}
    (h : (let u := ahead code pl s reads rd
          !waited (cmd code pl s) u && (accepted u (.slot 0) code).map (·.payload) == some pl && (pickFail (check pl u)).isNone) = true) :
    ReadsPass (cmd code pl s) (.slot 0) code reads rd check pl (ahead code pl s reads rd) := by
  simp only [Bool.and_eq_true, Bool.not_eq_true', beq_iff_eq, Option.isNone_iff_eq_none, Option.map_eq_some_iff] at h
  obtain ⟨⟨hw, a, ha, hp⟩, hc⟩ := h
  exact ⟨⟨⟨.slot 0, code, 1, false, pl, false, 0, false⟩, by simp [accepted, cmd], rfl⟩, rfl, hw, ⟨a, ha, hp⟩, hc⟩

/-- An access meets nothing that holds it. -/
theorem goesOn {f : State → State} {s : State} (h : (!Waits f s) = true) : Waits f s = false := by simpa using h

/-! ### Well-formedness -/

theorem test_wf_unit : (Instr.flitIdle 31 ⟨zeros 256, []⟩).wellFormed = true
    ∧ (Instr.flitIdle 32 ⟨zeros 256, []⟩).wellFormed = false ∧ (Instr.flitIdle 0 ⟨zeros 255, []⟩).wellFormed = false := by decide +kernel

theorem test_wf_tier : (Instr.refreshSlot 8 0).wellFormed = true ∧ (Instr.refreshSlot 0 0).wellFormed = false
    ∧ (Instr.refreshSlot 9 0).wellFormed = false := by decide

theorem test_wf_origin : (Instr.summary (.slot 63)).wellFormed = true ∧ (Instr.summary (.slot 64)).wellFormed = false
    ∧ (Instr.summary (.relay 64 0)).wellFormed = false := by decide

theorem test_wf_requester : (Instr.l2Read (.tile 255) 0).wellFormed = true ∧ (Instr.l2Read (.tile 256) 0).wellFormed = false
    ∧ (Instr.l2Read (.awl 2048) 0).wellFormed = false ∧ (Instr.l2Read (.port 32) 0).wellFormed = false := by decide

theorem test_wf_line : (Instr.l2Write .host 0 []).wellFormed = false := by decide

theorem test_wf_errors : (Instr.l2Fill 0 0 [⟨3, 38, 1⟩] [] []).wellFormed = true ∧ (Instr.l2Fill 0 0 [⟨4, 0, 1⟩] [] []).wellFormed = false
    ∧ (Instr.l2Fill 0 0 [⟨0, 39, 1⟩] [] []).wellFormed = false := by decide

theorem test_wf_cross : (Instr.l2Fill 0 0 [] [] [⟨143, 1⟩]).wellFormed = true ∧ (Instr.l2Fill 0 0 [] [] [⟨144, 1⟩]).wellFormed = false := by
  decide

theorem test_wf_wire : (Instr.uncorrectableCodeword 0 [⟨3, 1399⟩]).wellFormed = true
    ∧ (Instr.uncorrectableCodeword 0 [⟨4, 0⟩]).wellFormed = false ∧ (Instr.uncorrectableCodeword 0 [⟨0, 1400⟩]).wellFormed = false := by
  decide

theorem test_wf_link : (Instr.pcieLinkUp 6 16 true).wellFormed = true ∧ (Instr.pcieLinkUp 7 16 true).wellFormed = false
    ∧ (Instr.pcieLinkUp 6 32 true).wellFormed = false := by decide

theorem test_wf_remote : (Instr.fence 0 [⟨1, 0, zeros 128, 0⟩]).wellFormed = false
    ∧ (Instr.fence 0 [⟨0, 0, [], 0⟩]).wellFormed = false ∧ (Instr.fence 0 [⟨128, 0, zeros 128, 16⟩]).wellFormed = false := by
  decide +kernel

theorem test_wf_group : (Instr.thresholdClear (.tier 0) false).wellFormed = false
    ∧ (Instr.sensorSample [⟨.side 0, 4, none⟩]).wellFormed = false := by decide

theorem test_wf_vecOp : (Instr.tileVectorArith 0 (.broadcast 16) .fp32).wellFormed = false := by decide

theorem test_wf_sideAccess : (Instr.sideStackAccess .host 0 (.read 16) [] []).wellFormed = false
    ∧ (Instr.sideStackAccess .host 0 (.write []) [] []).wellFormed = false := by decide

theorem test_wf_cpl : (Instr.hostReadCompletion 0 (.data (zeros 4097)) []).wellFormed = false := by decide +kernel

theorem test_wf_cfg : (Instr.busMasterEnable (hostCfg true 512)).wellFormed = true
    ∧ (Instr.busMasterEnable (hostCfg true 1024)).wellFormed = false := by decide

theorem test_wf_defect : (Instr.stage2End [⟨256, 0, 0, 0⟩] 0 0 [] 0).wellFormed = false
    ∧ (Instr.stage2End [] 256 0 [] 0).wellFormed = false := by decide

theorem test_wf_train : (Instr.portUp 0 ⟨1, 32, false, 0, 0, 0⟩ [] ⟨false, 0⟩).wellFormed = false := by decide

theorem test_wf_slot : (Instr.mailboxSlotWrite 64 0 []).wellFormed = false
    ∧ (Instr.mailboxSlotWrite 0 4096 [none]).wellFormed = false := by decide

theorem test_wf_stage3 : (Instr.stage3End [(256, 0)] 0).wellFormed = false := by decide

/-! ### Values of the spec -/

/-- Table 14.11: the page has 4,096 bytes. -/
theorem test_summaryPage_length : (summaryPage State.reset).length = 4096 := by decide +kernel


/-- R309: three wrong symbols of a codeword are found and corrected. -/
theorem test_rs_corrects : rsDecode [(3, 5), (100, 77), (543, 1)] = some [(3, 5), (100, 77), (543, 1)] := by decide +kernel

/-- R307: a descrambler undoes a scrambler whose register it has. -/
theorem test_scramble_descramble : runBits descrambleBit 5 (runBits scrambleBit 5 (bitsOf (natLE 16 0xC0FFEE))) = bitsOf (natLE 16 0xC0FFEE) := by
  decide +kernel
/-! ### Power, bring-up and resets -/

def seated : State := { State.reset with power := { seatClosed := true } }
def powered : State := { State.reset with power := { seatClosed := true, standby := true, vin := 49000, startWait := true } }
def unseated (off : Bool) : State := { State.reset with power := { standby := true, vin := 50000, seatOff := off } }

theorem test_meets_PowerInputRisesAndBringupStarts :
    (seated.power.phase = .off ∧ seated.power.seatClosed = true ∧ seated.power.standby = false)
    ∧ 20000 ≤ { seated with power := { seated.power with vin := 20000 } }.power.vin
    ∧ (let s : State := { seated with power := { phase := .latched, seatClosed := true } }
       s.power.phase = .latched ∧ s.power.standby = false ∧ s.power.seatClosed = true)
    ∧ powered.power.startWait = true ∧ powered.power.phase = .off ∧ powered.power.standby = true
    ∧ powered.power.seatClosed = true ∧ 49000 ≤ powered.power.vin := by decide

theorem test_meets_InputShutdownLatches : up.power.standby = true ∧ up.power.phase ≠ .latched ∧ up.power.coreRails = true
    ∧ up.power.phase ≠ .off ∧ powered.power.standby = true ∧ powered.power.phase = .off ∧ 63000 < 72000 ∧ 78000 < 78001 := by
  decide

theorem test_meets_ShutdownCausePrecedence :
    (inPhase .latched).power.standby = true ∧ (inPhase .latched).power.phase = .latched := by decide

def recorded : State := { up with shut := { writing := some ⟨4, 78001, 0, 54000, 1, 0, 2, 0, 3000, 0⟩ } }

theorem test_meets_RemovalAndShutdownRecord :
    (∃ r, recorded.shut.writing = some r) ∧ recorded.power.standby = true ∧ 20000 ≤ recorded.power.vin
    ∧ (up.power.seatClosed = true ∧ up.power.coreRails = true)
    ∧ (seated.power.seatClosed = true ∧ seated.power.coreRails = false)
    ∧ (∀ off, (unseated off).power.seatClosed = false ∧ (unseated off).power.seatOff = off ∧ (unseated off).power.phase = .off) := by
  refine ⟨⟨_, rfl⟩, ?_⟩
  decide

def trainable : State := { up with pcie := { up.pcie with link := false, training := true } }

theorem test_meets_PcieLinkAndItsResets :
    (up.power.perstHigh = true ∧ up.power.phase = .up) ∧ (inPhase .latched).power.phase = .latched
    ∧ (trainable.pcie.training = true ∧ trainable.power.coreRails = true ∧ trainable.power.perstN = true ∧ linkForm 6 16 = true
      ∧ linkForm 1 1 = true)
    ∧ ∃ a, accepted (cmd 0x00D0 (pay 8 [(0, 0x53544B52)]) up) (.slot 0) 0x00D0 = some a
        ∧ field a.payload 0 4 = 0x53544B52 := by
  refine ⟨by decide, by decide, by decide, _, rfl, ?_⟩
  decide

def stage (n : Nat) : State := inPhase (.bringup n)
def noImage : State := { stage 0 with fw := { slotA := .empty } }
/-- A flash that loses nothing: both slots intact, both selector copies good. -/
def cleanCheck : FlashCheck := { slotA := true, slotB := true, sel := true, other := true, bad := [], otherBad := [] }
def waiting2 (flow : Nat) : State := { stage 2 with
  power := { (stage 2).power with coolantWait := true }, coolant := { flow := flow } }

theorem test_meets_BringupStagesZeroToTwo :
    (inStage (stage 0) 0 = true ∧ (stage 0).power.seatClosed = true ∧ ∃ f, (stage 0).fw.pickSelector cleanCheck = f
      ∧ f.sel.trial = false ∧ (if f.sel.active = 0 then cleanCheck.slotA else cleanCheck.slotB) = true
      ∧ (f.slot f.sel.active).verifies f.rollback = true)
    ∧ (inStage noImage 0 = true ∧ (noImage.fw.pickSelector cleanCheck).boot (fun n => if n = 0 then cleanCheck.slotA else cleanCheck.slotB) = none)
    ∧ (inStage (stage 1) 1 = true ∧ (2 ^ 27 - 1) % 2 ^ 27 = 2 ^ 27 - 1 ∧ (stage 1).coolant.flow < 2500)
    ∧ ((2 ^ 27 - 2) % 2 ^ 27 ≠ 2 ^ 27 - 1)
    ∧ ((waiting2 2500).power.phase = .bringup 2 ∧ (waiting2 2500).power.coolantWait = true ∧ 2500 ≤ (waiting2 2500).coolant.flow)
    ∧ inStage (waiting2 2499) 2 = true := by
  refine ⟨⟨by decide, by decide, _, rfl, by decide, by decide, ?_⟩, by decide, by decide, by decide, by decide, by decide⟩
  simp [stage, inPhase, up, State.reset, Firmware.slot, Image.verifies, Firmware.pickSelector, cleanCheck]

/-- Stage 2 with every shank trained. -/
def trained : State := { stage 2 with stack := { shanks := (List.range 256).map fun n => (n, { valid := true }) } }
/-- Stage 3 with port 31 as given. -/
def linking (k : Port) : State := { stage 3 with ports := [(31, k)] }

theorem test_meets_FittingStages :
    (inStage trained 2 = true ∧ trained.power.coolantWait = false ∧ trained.bring.trainFails = []
      ∧ trained.bring.ledger = [] ∧ (Tab.get {} trained.bring.reports 2).added = 0
      ∧ ∀ n, n < 256 → (shankOf trained n).failed = 0 ∧ (shankOf trained n).valid = true)
    ∧ (inStage (linking { state := 2 }) 3 = true ∧ 199999 < 200000
      ∧ ∃ p, p ∈ (linking { state := 2 }).ports ∧ portPending p.2 = true)
    ∧ (inStage (linking { state := 3 }) 3 = true ∧ ∀ p ∈ (linking { state := 3 }).ports, portPending p.2 = false)
    ∧ inStage (stage 3) 3 = true ∧ (inStage (stage 4) 4 = true ∧ (stage 4).bring.ledger = [] ∧ (stage 4).bring.fwFails = [])
    ∧ ∀ n ∈ [0, 1, 2, 4], (stage n).power.phase = .bringup n ∧ n ≠ 3 ∧ (stage n).power.stageFailed = false
        ∧ (stage n).power.coolantWait = false := by
  refine ⟨⟨?_, ?_, ?_, ?_, ?_, ?_⟩, ⟨?_, ?_, _, List.mem_singleton_self _, ?_⟩, ?_⟩ <;> decide +kernel

theorem test_meets_FunctionLevelResets : up.pcie.link = true ∧ up.power.phase = .up ∧ up.power.coreRails = true := by decide

def ramping : State := { up with pace := { up.pace with emerg := true } }

theorem test_meets_PaceAndPowerWindows : railOf { up with pace := { up.pace with vcore := [(0, 750)] } } 0 ≠ 0
    ∧ railOf up 24 ≠ 0 ∧ railOf up 35 ≠ 0 ∧ up.power.standby = true ∧ up.pace.emerg = false
    ∧ (ramping.pace.emerg = true ∧ ramping.pace.allow ≤ idlePower ramping.pace.point) := by decide

def pending1 : State := { up with pace := { up.pace with
  pendPoint := some ⟨1, 0, .slot 0⟩, pendNet := some ⟨true, .slot 1⟩, pendRed := some ⟨true, .slot 2⟩ } }

/-- A change of point alone, with port 31, which a mask of port 0 leaves out, as given. -/
def moving (k : Port) : State := { up with
  pace := { up.pace with pendPoint := some ⟨1, 1, .slot 0⟩ }, ports := [(31, k)] }
/-- A change of the discipline, with the Last that the next task names, its image and the mesh as given. -/
def netTo (lockstep : Bool) (img : Bytes) (m : Mesh) : State := { up with
  pace := { up.pace with pendNet := some ⟨lockstep, .slot 1⟩ }, mesh := m
  sched := { up.sched with ready := [⟨9, [], false⟩] }
  obj := { up.obj with tasks := [(9, some ⟨0, 1, false, 1, 0, 0, some 5, 0, none, true⟩)]
                       lasts := [(5, if img == [] then none else some { addr := 0, slots := 8, flows := 0, tag := 0, fp := 0, len := 0, image := img })] } }

theorem test_meets_ModeCommandChanges :
    (draining (startPoint 1 1 (moving { state := 3 })) = true)
    ∧ (draining (startPoint 1 1 (moving {})) = false ∧ networkChanges (startPoint 1 1 (moving {})) = false)
    ∧ (draining (startPoint 1 0 pending1) = false ∧ networkChanges (startPoint 1 0 pending1) = true)
    ∧ ((netTo false [] {}).mesh.loaded = none ∧ disciplineGoal (netTo false [] {}) = ((netTo false [] {}).pace.net, (netTo false [] {}).obj.installed))
    ∧ ((netTo true [] {}).mesh.loaded = none ∧ disciplineGoal (netTo true [] {}) ≠ ((netTo true [] {}).pace.net, (netTo true [] {}).obj.installed)
      ∧ meshEmpty (holdMesh (netTo true [] {})).mesh = true ∧ lastImage (holdMesh (netTo true [] {})) (disciplineGoal (netTo true [] {})).2 = [])
    ∧ (meshEmpty (holdMesh (netTo true [7] {})).mesh = true ∧ lastImage (holdMesh (netTo true [7] {})) (disciplineGoal (netTo true [7] {})).2 ≠ []
      ∧ disciplineGoal (netTo true [7] {}) ≠ ((netTo true [7] {}).pace.net, (netTo true [7] {}).obj.installed))
    ∧ (meshEmpty (holdMesh (netTo true [] { welts := [(0, { wait := [{ id := 0, src := 0, dst := 1, input := .tile 0, output := .tile 255, vc := 1, flits := 3, left := 2 }] })] })).mesh = false)
    ∧ (∃ l, (netTo true [] { hold := true, loaded := some (true, none) }).mesh.loaded = some l) := by
  refine ⟨by decide +kernel, by decide +kernel, by decide +kernel, by decide +kernel, by decide +kernel, by decide +kernel,
    by decide +kernel, _, rfl⟩

theorem test_meets_ModeCommandsWaitForTheBoundary :
    (∃ a, accepted (cmd 0x0010 (pay 8 [(0, 1)]) up) (.slot 0) 0x0010 = some a
        ∧ pickFail (checkSetMode a.payload (cmd 0x0010 (pay 8 [(0, 1)]) up)) = none)
    ∧ (∃ a, accepted (cmd 0x0011 (pay 16 [(1, 1)]) up) (.slot 0) 0x0011 = some a ∧ field a.payload 0 1 = 0
        ∧ pickFail (checkDiscipline a.payload (cmd 0x0011 (pay 16 [(1, 1)]) up)) = none)
    ∧ (∃ a, accepted (cmd 0x0012 (pay 8 [(0, 1)]) up) (.slot 0) 0x0012 = some a ∧ field a.payload 0 1 ≤ 1)
    ∧ up.pace.pendRed = none
    ∧ (∃ c, pending1.pace.pendPoint = some c ∧ pickFail (raiseFail { pending1 with coolant := { flow := 3000 } } c.point) = none
        ∧ ∃ f, pickFail (raiseFail { pending1 with coolant := { flow := 2999, warning := true } } c.point) = some f)
    ∧ taskBoundary pending1 = true ∧ pending1.pace.changing = 0 ∧ (∃ c, pending1.pace.pendRed = some c)
    ∧ (∃ c, { pending1 with pace := { pending1.pace with changing := 2 } }.pace.pendNet = some c)
    ∧ { pending1 with pace := { pending1.pace with pendPoint := none } }.pace.pendPoint = none := by
  refine ⟨⟨_, rfl, ?_⟩, ⟨_, rfl, ?_⟩, ⟨_, rfl, ?_⟩, rfl, ⟨_, rfl, ?_, _, rfl⟩, rfl, rfl, ⟨_, rfl⟩, ⟨_, rfl⟩, rfl⟩ <;> decide

/-! ### The PCIe function -/

theorem test_meets_RegisterReadsThatClear : hostHeard up = true ∧ memoryServed up = true ∧ 4096 ≠ 0 ∧ 4096 ≤ 4096
    ∧ ¬ (0 = 0 ∧ 8 = 4) ∧ ¬ (0 = 4 ∧ 8 = 4 ∧ up.pcie.tbLatch ≠ none)
    ∧ ∃ v, { up with pcie := { up.pcie with tbLatch := some 1 } }.pcie.tbLatch = some v := by
  refine ⟨by decide, by decide, by decide, by decide, by decide, by decide, _, rfl⟩

theorem test_meets_RegisterWrites : hostHeard up = true ∧ memoryServed up = true
    ∧ ∃ l, { up with pcie := { up.pcie with winLow := some 1 } }.pcie.winLow = some l := by
  refine ⟨by decide, by decide, _, rfl⟩

def masked : State := { up with pcie := { up.pcie with
  msixOn := true, pba := [(127, true)], table := [(127, ⟨0xFEE00000, 0, 7, true⟩)] } }
def gathering : State := { up with pcie := { up.pcie with
  msixOn := true, gathered := [(3, 2)], table := [(3, ⟨0xFEE00000, 0, 7, false⟩)] } }

theorem test_meets_InterruptTable :
    (hostHeard masked = true ∧ memoryServed masked = true ∧ bitB 0 0 = false ∧ masked.pcie.msixOn = true
      ∧ masked.pcie.funcMask = false ∧ canIssue masked = true ∧ Tab.get false masked.pcie.pba 127 = true)
    ∧ (Tab.get 0 gathering.pcie.gathered 3 ≠ 0 ∧ gathering.pcie.msixOn = true ∧ gathering.pcie.funcMask = false
      ∧ (Tab.get {} gathering.pcie.table 3).mask = false ∧ canIssue gathering = true)
    ∧ Tab.get 0 gathering.pcie.gathered 4 = 0 := by decide

def atWork : State := { up with mail := { slots := [(63, { commit := 2 })] } }

theorem test_meets_MailboxSlotWrites : hostHeard up = true ∧ memoryServed up = true ∧ (Tab.get {} up.mail.slots 63).commit ≠ 1
    ∧ (Tab.get {} up.mail.slots 63).commit ≠ 2 ∧ (∀ a ∈ up.mail.accepted, a.origin ≠ .slot 63)
    ∧ (Tab.get {} atWork.mail.slots 63).commit = 2 := by decide

theorem test_meets_PcieFunctionControls : configRetried (stage 1) = true ∧ configRetried (stage 2) = false ∧ hostHeard up = true
    ∧ { up with pcie := { up.pcie with cfg := hostCfg false 128 } }.pcie.cfg.memSpace = false
    ∧ { up with pcie := { up.pcie with ptm := { enabled := true } } }.pcie.ptm.enabled = true := by decide

/-! ### Ports, flits and messages -/

/-- READY, with port 0 in a state of Table 11.3, cabled, with credits. -/
def withPort (st : Nat) (ss : Session := {}) : State := { up with ports := [(0, { state := st, cable := true, sess := ss, member := some 1 })] }

def goodTrain : TrainBody := ⟨1, 7, false, 0, 5, 99⟩

/-- A flit of a header and a body, with its CRC and no errors on the wire. -/
def flit (hdr : Nat) (body : Bytes) : RxFlit :=
  let b := natLE 8 hdr ++ slice body 0 240
  ⟨b ++ natLE 8 (crc64 b), []⟩

/-- Whether a flit comes through the lanes of port 0 with a good CRC. -/
def arrivesB (s : State) (f : RxFlit) (hdr : Nat) : Bool := match (port s 0).phy.take f with
  | some (_, b) => crcGood b && field b 0 8 == hdr
  | none => false

theorem arrives {s : State} {f : RxFlit} {hdr : Nat} (h : arrivesB s f hdr = true) :
    ∃ ph b, Arrives s 0 f ph b ∧ field b 0 8 = hdr := by
  unfold arrivesB at h
  split at h
  · rename_i ph b e
    simp only [Bool.and_eq_true, beq_iff_eq] at h
    exact ⟨ph, b, ⟨e, h.1⟩, h.2⟩
  · cases h

/-- The same with what a boolean test says of the flit that comes out. -/
theorem arrivesAnd {s : State} {f : RxFlit} {g : Bytes → Bool} {Q : Bytes → Prop}
    (hg : ∀ b, g b = true → Q b)
    (h : (match (port s 0).phy.take f with | some (_, b) => crcGood b && g b | none => false) = true) :
    ∃ ph b, Arrives s 0 f ph b ∧ Q b := by
  split at h
  · rename_i ph b e
    simp only [Bool.and_eq_true] at h
    exact ⟨ph, b, ⟨e, h.1⟩, hg b h.2⟩
  · cases h

/-- A port in training whose session is decided to be new. -/
def fresh0 (st : Nat) : State := { up with ports := [(0, { state := st, cable := true, decided := some false, member := some 1 })] }
/-- A port that has lost a codeword so many times just now. -/
def lossy (n : Nat) : State := { up with ports := [(0, { state := 3, cable := true, member := some 1, phy := { losses := List.replicate n 0 } })] }

/-- A header that `PlainHeader` takes. -/
def plainB (s : State) (type hdr : Nat) : Bool :=
  bits hdr 3 0 == type && !headerBad hdr && !creditBad (port s 0).sess hdr && !bitB hdr 28

theorem plainFlit {s : State} {f : RxFlit} {type hdr : Nat} (h : arrivesB s f hdr = true) (h' : plainB s type hdr = true) :
    ∃ ph b, Arrives s 0 f ph b ∧ PlainHeader s 0 type b ∧ field b 0 8 = hdr := by
  obtain ⟨ph, b, ha, rfl⟩ := arrives h
  simp only [plainB, Bool.and_eq_true, beq_iff_eq, Bool.not_eq_true'] at h'
  exact ⟨ph, b, ha, ⟨h'.1.1.1, by rw [flitBad, h'.1.1.2, h'.1.2]; rfl, h'.2⟩, rfl⟩

/-- An ACTIVE port outside port 0's set of the point may not train; the set of the reset state holds every port. -/
theorem test_meets_PortTrainingAndRetraining :
    ((port (withPort 1) 0).state = 1 ∧ (port (withPort 1) 0).cable = true ∧ bitB (withPort 1).pace.portSet 0 = true)
    ∧ ((port (withPort 2) 0).state = 2 ∧ goodTrain.version = 1 ∧ (port (withPort 2) 0).decided = none
      ∧ mayResume (port (withPort 2) 0).sess goodTrain = false)
    ∧ ((port (fresh0 2) 0).state = 2 ∧ (port (fresh0 2) 0).decided = some false)
    ∧ ((port (withPort 4) 0).state = 4 ∧ (port (withPort 4) 0).decided = none ∧ mayResume (port (withPort 4) 0).sess goodTrain = false)
    ∧ ((port (fresh0 4) 0).state = 4 ∧ (port (fresh0 4) 0).decided = some false)
    ∧ ((port (withPort 3) 0).state = 3 ∧ (port (withPort 3) 0).cable = true)
    ∧ ((port (lossy 17) 0).state = 3 ∧ manyLosses 0 (lossy 17) = true)
    ∧ (∃ ph b, Arrives (withPort 3) 0 (flit 3 []) ph b ∧ bits (field b 0 8) 3 0 = 3 ∧ headerBad (field b 0 8) = false
      ∧ trainReserved (leNat (slice b 8 240)) = false) := by
  refine ⟨?_, ?_, ?_, ?_, ?_, ?_, ?_, arrivesAnd (g := fun b => bits (field b 0 8) 3 0 == 3 && !headerBad (field b 0 8)
    && !trainReserved (leNat (slice b 8 240))) ?_ ?_⟩ <;> first | decide +kernel | simp [and_assoc]

def leaving0 (st : Nat) : State := { withPort st with pace := { up.pace with leaving := 1 } }
def lastToPark : State := { leaving0 3 with pace := { (leaving0 3).pace with changing := 1, pendPoint := some ⟨1, 0, .slot 0⟩ } }

theorem test_meets_PortCablesParkingAndQuarantine :
    (bitB (leaving0 3).pace.leaving 0 = true ∧ (port (leaving0 3) 0).state = 3 ∧ (port (leaving0 3) 0).sess.held = []
      ∧ (port (leaving0 3) 0).sess.tx = [] ∧ (leaving0 3).pace.changing ≠ 1)
    ∧ (bitB (leaving0 2).pace.leaving 0 = true ∧ (port (leaving0 2) 0).state ≤ 2 ∧ (leaving0 2).pace.changing ≠ 1)
    ∧ (bitB lastToPark.pace.leaving 0 = true ∧ (port lastToPark 0).state = 3 ∧ (port lastToPark 0).sess.held = []
      ∧ (port lastToPark 0).sess.tx = [] ∧ lastToPark.pace.changing = 1 ∧ (∃ c, lastToPark.pace.pendPoint = some c)
      ∧ draining (parkPort 0 (controlUnit (.group (0 / 4)) lastToPark)) = false
      ∧ networkChanges (parkPort 0 (controlUnit (.group (0 / 4)) lastToPark)) = false)
    ∧ (port (withPort 5) 0).state = 5 ∧ (port (withPort 3) 0).state ≠ 5 := by
  refine ⟨?_, ?_, ⟨?_, ?_, ?_, ?_, ?_, ⟨_, rfl⟩, ?_, ?_⟩, ?_⟩ <;> decide +kernel

/-- A DATA header of one unit that begins no message, with a sequence number. -/
def dataHdr (seq : Nat) : Nat := 1 + seq * 16 + 2 ^ 32 + 2 ^ 36

/-- The units of one response without payload: RESP, for device 0 from device 1. -/
def unit0 : Bytes := pay 16 [(0, 0x80), (1, 1), (3, 1)]

/-- Sixteen wrong symbols at the end of the first codeword of a port, one more than the code corrects: a multiple of the product
of x - alpha^j for j up to 14, so that the first 15 syndromes are 0. -/
def burst : List WireError :=
  [14, 692, 554, 564, 667, 529, 54, 426, 157, 858, 484, 835, 702, 631, 13, 534].zipIdx.flatMap fun (v, k) =>
    (List.range 10).filterMap fun j => if bitB v j then some ⟨k % 4, 1320 + 10 * (k / 4) + j⟩ else none

/-- Errors that make the next codeword of port 0 uncorrectable. -/
def losesB (s : State) (errs : List WireError) : Bool := match (port s 0).phy.lose errs with
  | some (_, n) => decide (0 < n)
  | none => false

theorem loses {s : State} {errs : List WireError} (h : losesB s errs = true) :
    ∃ ph n, (port s 0).phy.lose errs = some (ph, n) ∧ 0 < n := by
  unfold losesB at h
  split at h
  · rename_i ph n e
    exact ⟨ph, n, e, by simpa using h⟩
  · cases h

theorem burst_loses : losesB (withPort 3) burst = true := by decide +kernel

theorem test_meets_FlitsReceived : (port (withPort 3) 0).state = 3
    ∧ ((∃ ph b, Arrives (withPort 3) 0 (flit (dataHdr 0) unit0) ph b ∧ PlainHeader (withPort 3) 0 1 b ∧ field b 0 8 = dataHdr 0)
      ∧ bits (dataHdr 0) 15 4 = (port (withPort 3) 0).sess.expect
      ∧ (readUnits (Tab.get none (port (withPort 3) 0).sess.parts (bits (dataHdr 0) 30 29)) (dataHdr 0) (slice unit0 0 240)).ok = true
      ∧ ((port (withPort 3) 0).sess.buf.filter fun b => b.2.1 == bits (dataHdr 0) 30 29).length
          < nth bufferFlits (bits (dataHdr 0) 30 29))
    ∧ (∀ q ∈ [3840, 4095, 1, 255, 256, 3839],
      ∃ ph b, Arrives (withPort 3) 0 (flit (dataHdr q) []) ph b ∧ PlainHeader (withPort 3) 0 1 b ∧ field b 0 8 = dataHdr q)
    ∧ (∀ q ∈ [3840, 4095], 3840 ≤ (bits (dataHdr q) 15 4 + 4096 - (port (withPort 3) 0).sess.expect) % 4096)
    ∧ (∀ q ∈ [1, 255], 1 ≤ (bits (dataHdr q) 15 4 + 4096 - (port (withPort 3) 0).sess.expect) % 4096
      ∧ (bits (dataHdr q) 15 4 + 4096 - (port (withPort 3) 0).sess.expect) % 4096 ≤ 255)
    ∧ (∀ q ∈ [256, 3839], bits (dataHdr q) 3 0 = 1 ∧ 256 ≤ (bits (dataHdr q) 15 4 + 4096 - (port (withPort 3) 0).sess.expect) % 4096
      ∧ (bits (dataHdr q) 15 4 + 4096 - (port (withPort 3) 0).sess.expect) % 4096 < 3840)
    ∧ (∃ ph b, Arrives (withPort 3) 0 (flit 0 []) ph b ∧ PlainHeader (withPort 3) 0 0 b ∧ field b 0 8 = 0)
    ∧ ((∃ ph b, Arrives (withPort 3) 0 (flit (2 ^ 31) []) ph b ∧ field b 0 8 = 2 ^ 31) ∧ bits (2 ^ 31) 3 0 = 0
      ∧ flitBad 0 (2 ^ 31) (withPort 3) = true)
    ∧ ((∃ ph b, Arrives (withPort 3) 0 (flit 4 []) ph b ∧ field b 0 8 = 4) ∧ 3 < bits 4 3 0)
    ∧ ((port (withPort 3) 0).phy.take ⟨zeros 256, []⟩).isSome = true ∧ crcGood (zeros 256) = false
    ∧ (∃ ph n, (port (withPort 3) 0).phy.lose burst = some (ph, n) ∧ 0 < n) ∧ (lossesAt 0 (withPort 3)).length ≤ 16
    ∧ 16 < (lossesAt 0 (lossy 16)).length ∧ ∀ r ∈ (withPort 3).pod.reqs, r.sent = true ∨ r.signal = true := by
  refine ⟨by decide, ⟨plainFlit ?_ ?_, ?_⟩, fun q hq => plainFlit ?_ ?_, ?_, ?_, ?_, plainFlit ?_ ?_, ⟨arrives ?_, ?_⟩, ⟨arrives ?_, ?_⟩,
    ?_, ?_, ?_, ?_, ?_, ?_⟩
  case refine_4 => revert q; decide +kernel
  case refine_5 => revert q; decide +kernel
  case refine_17 => exact loses burst_loses
  all_goals decide +kernel

def holding : State := withPort 3 { held := [⟨7, 0, 1, 1, pay 16 [(0, 0x80), (1, 1)], 0, [(4, some 0)]⟩], unacked := 1, replayOut := true, nextTx := 8 }

/-- A body of link control. -/
def ctl (b : Nat) : RxFlit := flit 2 (natLE 240 b)

theorem test_meets_LinkControlFlits :
    (port holding 0).state = 3
    ∧ (∀ b ∈ [1 + 9 * 256, 1 + 7 * 256, 2 + 7 * 256 + 0x10000000, 4, 5, 6],
      (∃ ph d, Arrives holding 0 (ctl b) ph d ∧ PlainHeader holding 0 2 d ∧ field d 0 8 = 2) ∧ lctlReserved b = false)
    ∧ (bits (1 + 9 * 256) 7 0 = 1 ∧ ((port holding 0).sess.held.any fun f => f.seq == bits (1 + 9 * 256) 19 8) = false
      ∧ bits (1 + 9 * 256) 19 8 ≠ (port holding 0).sess.nextTx)
    ∧ (bits (1 + 7 * 256) 7 0 = 1 ∧ ((port holding 0).sess.held.any fun f => f.seq == bits (1 + 7 * 256) 19 8) = true)
    ∧ (bits (2 + 7 * 256 + 0x10000000) 7 0 = 2 ∧ bits (2 + 7 * 256 + 0x10000000) 31 24 = 0x10)
    ∧ (released holding = [] ∧ (∀ r ∈ holding.pod.reqs, r.why = .carried → r.refused = true))
    ∧ (∃ bs, messageAt (port holding 0).sess 7 0 = some bs)
    ∧ (∀ b ∈ [4, 5, 6], bits b 7 0 = b)
    ∧ ((port (withPort 2) 0).state = 2 ∧ (∃ ph d, Arrives (withPort 2) 0 (ctl (3 + 2 ^ 64)) ph d ∧ field d 0 8 = 2)
      ∧ bits 2 3 0 = 2 ∧ headerBad 2 = false ∧ bits (3 + 2 ^ 64) 7 0 = 3 ∧ lctlReserved (3 + 2 ^ 64) = false)
    ∧ (port holding 0).sess.replayOut = true ∧ (port (withPort 2) 0).sess.partnerInit = false ∧ (port (withPort 2) 0).decided = none
    ∧ ((port (fresh0 2) 0).sess.partnerInit = false ∧ (port (fresh0 2) 0).decided.isSome = true) ∧ goodTrain.version = 1
    ∧ 0 < (port holding 0).sess.unacked ∧ (port holding 0).sess.held ≠ [] := by
  refine ⟨by decide, fun b hb => ⟨plainFlit ?_ ?_, ?_⟩, by decide, by decide, by decide, by decide, ⟨_, rfl⟩, by decide,
    ⟨by decide, arrives ?_, by decide⟩, by decide, by decide, by decide, by decide, by decide, by decide, by decide⟩
  · revert b; decide +kernel
  · decide +kernel
  · revert b; decide +kernel
  · decide +kernel
/-- A message of device 1 for device 0: type, operation, status, address, length, extension units and payload. -/
def message (type op status addr len : Nat) (ext pl : Bytes) : Bytes :=
  natLE 16 (type + (1 + (ext.length + pl.length) / 16) * 2 ^ 8 + 2 ^ 23 + op * 2 ^ 48 + status * 2 ^ 56 + addr * 2 ^ 64 + len * 2 ^ 112)
    ++ ext ++ pl

/-- A validated partner, device 1 of a pod of two, whose message waits at port 0; a window over the first MiB. -/
def received (vc : Nat) (bs : Bytes) (window : Bool) : State := { withPort 3 { rx := [⟨vc, 0, 0, bs, [(0, 1)]⟩] } with
  pod := { eff := { id := 9, device := 0, head := 0, members := 3
                    windows := [⟨0, if window then 2 ^ 20 else 0, true, true, true, 3⟩] } } }

/-- `Serves` as one value. -/
def servesB (s : State) (p vc type : Nat) : Bool := match nextMsg s p vc with
  | none => false
  | some m => m.type == type && !msgBad s m && validPartner s p && s.power.phase == .up && m.dst == s.pod.eff.device && windowOk s m

theorem serves {s : State} {p vc type : Nat} (h : servesB s p vc type = true) : ∃ m, Serves s p vc type m := by
  unfold servesB at h
  split at h
  · cases h
  · rename_i m e
    simp only [Bool.and_eq_true, beq_iff_eq, Bool.not_eq_true'] at h
    exact ⟨m, e, h.1.1.1.1.1, h.1.1.1.1.2, h.1.1.1.2, h.1.1.2, h.1.2, h.2⟩

/-- The same, with no access of the message's effect that waits. -/
theorem servesGo {s : State} {p vc type : Nat} (f : Msg → State → State) (h : servesB s p vc type = true)
    (h' : ((nextMsg s p vc).all fun m => !Waits (f m) s) = true) : ∃ m, Serves s p vc type m ∧ Waits (f m) s = false := by
  obtain ⟨m, hm⟩ := serves h
  rw [hm.next] at h'
  exact ⟨m, hm, by simpa using h'⟩

def readBs : Bytes := message 1 0 0 0 128 [] []
def writeBs : Bytes := message 2 0 0 0 16 [] (zeros 16)
def addBs (op : Nat) : Bytes := message 3 op 0 0 128 (pay 16 [(0, 0xFF)]) (zeros 128)
def copyBs (n : Nat) : Bytes := message 4 0 0 0 0 (pay 16 [(8, n)]) []
def signalBs : Bytes := message 5 0 0 8 8 (pay 16 [(0, 1)]) []
def collBs : Bytes := message 7 0 0 0 16 (pay 16 [(0, 3)]) (zeros 16)

/-- A line of the stack whose shank has reported a fault, which holds every access to it. -/
def faulty (s : State) : State := { s with stack := { s.stack with
  shanks := (List.range 256).map fun n => (n, { valid := true, fault := some 3 }) } }
def rootOf (tile : Option Nat) : Msg := rootMsg 0 (if tile.isSome then 1 else 3) 0 0 1 (zeros 16)

theorem test_meets_PartnerRequestsServed :
    (∃ m, Serves (received 1 readBs true) 0 1 1 m ∧ Waits (fun s => serveReadMsg 0 m (hear m.src (popMsg 0 m s))) (received 1 readBs true) = false)
    ∧ (servesB (faulty (received 1 readBs true)) 0 1 1 = true ∧ ((nextMsg (faulty (received 1 readBs true)) 0 1).all fun m =>
        Waits (fun s => serveReadMsg 0 m (hear m.src (popMsg 0 m s))) (faulty (received 1 readBs true))) = true)
    ∧ (∃ m, Serves (received 1 writeBs true) 0 1 2 m)
    ∧ (∃ m, Serves (received 1 (addBs 14) true) 0 1 3 m) ∧ (addWidth 14).isNone = true
    ∧ (∃ m, Serves (received 1 (addBs 0) true) 0 1 3 m ∧ Waits (fun s =>
        (serveAdd (.port 0) m.addr m.op (bits m.ext 63 0) m.payload (hear m.src (popMsg 0 m s))).1) (received 1 (addBs 0) true) = false)
    ∧ (∃ m, Serves (received 3 (copyBs 0) true) 0 3 4 m
      ∧ Waits (fun s => serveCopy 0 [] m (hear m.src (popMsg 0 m s))) (received 3 (copyBs 0) true) = false)
    ∧ (∃ m, Serves (received 3 (copyBs 128) true) 0 3 4 m
      ∧ Waits (fun s => serveCopy 0 [] m (hear m.src (popMsg 0 m s))) (received 3 (copyBs 128) true) = false)
    ∧ (released (received 3 (copyBs 0) true) = [] ∧ ∀ q ∈ (received 3 (copyBs 0) true).pod.reqs, q.id < (received 3 (copyBs 0) true).pod.nextReq)
    ∧ (∃ m, Serves (received 1 signalBs true) 0 1 5 m ∧ Waits (fun s => serveSignal 0 m (hear m.src (popMsg 0 m s))) (received 1 signalBs true) = false)
    ∧ (∃ m, Serves (received 1 collBs true) 0 1 7 m ∧ Waits (fun s =>
        spreadColl (.port 0) (some (m.rx.vc, m.src, m.tag)) 0xB000 3 m (hear m.src (popMsg 0 m s))) (received 1 collBs true) = false)
    ∧ ∀ tile ∈ [none, some 255], let s := received 0 [] true
        s.pod.eff.device < 64 ∧ shapeOk (rootOf tile) = true ∧ collOk s (rootOf tile) = true
        ∧ Waits (spreadColl (match tile with | some t => .output t | none => .module) none (unitOf tile)
            (if tile.isSome then 1 else 3) (rootOf tile)) s = false ∧ (∀ c ∈ s.pod.colls, c.id ≠ s.pod.nextReq)
        ∧ windowOk s (rootOf tile) = true ∧ windowOk (received 0 [] false) (rootOf tile) = false
        ∧ Waits (spreadColl (match tile with | some t => .output t | none => .module) none (unitOf tile)
            (if tile.isSome then 1 else 3) (rootOf tile)) (received 0 [] false) = false := by
  refine ⟨servesGo (fun m s => serveReadMsg 0 m (hear m.src (popMsg 0 m s))) ?_ ?_, ?_, serves ?_, serves ?_, ?_,
    servesGo (fun m s => (serveAdd (.port 0) m.addr m.op (bits m.ext 63 0) m.payload (hear m.src (popMsg 0 m s))).1) ?_ ?_,
    servesGo (fun m s => serveCopy 0 [] m (hear m.src (popMsg 0 m s))) ?_ ?_, servesGo (fun m s => serveCopy 0 [] m (hear m.src (popMsg 0 m s))) ?_ ?_, ?_,
    servesGo (fun m s => serveSignal 0 m (hear m.src (popMsg 0 m s))) ?_ ?_,
    servesGo (fun m s => spreadColl (.port 0) (some (m.rx.vc, m.src, m.tag)) 0xB000 3 m (hear m.src (popMsg 0 m s))) ?_ ?_, ?_⟩
  all_goals decide +kernel

/-- What `WindowsGuardMemory` asks of a state, as one value. -/
def guardedB (s : State) (p vc type : Nat) (bad : Bool) : Bool := match nextMsg s p vc with
  | none => false
  | some m => m.type == type && (port s p).state == 3 && msgBad s m == bad && validPartner s p && s.power.phase == .up
      && m.dst == s.pod.eff.device && !windowOk s m

theorem test_meets_WindowsGuardMemory :
    guardedB (received 1 readBs false) 0 1 1 false = true ∧ guardedB (received 1 writeBs false) 0 1 2 false = true
    ∧ guardedB (received 1 (addBs 0) false) 0 1 3 false = true ∧ guardedB (received 3 (copyBs 128) false) 0 3 4 false = true
    ∧ guardedB (received 1 signalBs false) 0 1 5 false = true ∧ guardedB (received 1 collBs false) 0 1 7 false = true
    ∧ guardedB (received 1 (message 1 0 0 0 0 [] []) false) 0 1 1 true = true := by decide +kernel

def mailBs : Bytes := message 6 0 0 0 16 (pay 16 [(0, 4)]) (zeros 16)
def asked (bs : Bytes) (why : ReqFor) (vc : Nat := 2) : State := let s := received vc bs true
  { s with pod := { s.pod with reqs := [{ id := 5, tag := 0, type := 1, dst := 1, vc := 1, unit := 0, bytes := [], why := why }], nextReq := 6 } }
def mailed (service : Nat) (pl : Bytes) : State := let s := received 0 [] true
  { s with pod := { s.pod with mbox := [⟨0, 1, service, 3, pl⟩] } }

/-- An answer to an outstanding request that comes in the wrong channel. -/
def strayB (s : State) (type : Nat) : Bool := match nextMsg s 0 3 with
  | none => false
  | some m => m.type == type && !msgBad s m && m.dst == s.pod.eff.device
      && (answered (popMsg 0 m s) m).any fun r => m.rx.vc != pairedVc r.vc

theorem test_meets_ResponsesAndMail :
    (∃ m r, nextMsg (asked (message 0x80 0 0 0 0 [] []) .mailbox) 0 2 = some m ∧ m.type = 0x80
      ∧ msgBad (asked (message 0x80 0 0 0 0 [] []) .mailbox) m = false
      ∧ answered (popMsg 0 m (asked (message 0x80 0 0 0 0 [] []) .mailbox)) m = some r
      ∧ (asked (message 0x80 0 0 0 0 [] []) .mailbox).pod.reqs.find? (fun q => q.id == r.id) = some r ∧ r.why = .mailbox
      ∧ (∀ q ∈ (asked (message 0x80 0 0 0 0 [] []) .mailbox).pod.reqs, q.sent = true ∨ q.signal = true) ∧ m.dst = 0 ∧ m.rx.vc = pairedVc r.vc)
    ∧ (∀ x ∈ [(0x80, message 0x80 0 0 0 0 [] []), (0x81, message 0x81 0 0 0 16 [] (zeros 16))],
      strayB (asked x.2 .mailbox 3) x.1 = true ∧ (port (asked x.2 .mailbox 3) 0).rate < 1000)
    ∧ (∃ m r, nextMsg (asked (message 0x81 0 0 0 16 [] (zeros 16)) (.hostRead 16)) 0 2 = some m ∧ m.type = 0x81
      ∧ msgBad (asked (message 0x81 0 0 0 16 [] (zeros 16)) (.hostRead 16)) m = false
      ∧ answered (popMsg 0 m (asked (message 0x81 0 0 0 16 [] (zeros 16)) (.hostRead 16))) m = some r
      ∧ r.why = .hostRead 16 ∧ m.dst = 0 ∧ m.status = 0 ∧ m.rx.vc = pairedVc r.vc
      ∧ r.id < (asked (message 0x81 0 0 0 16 [] (zeros 16)) (.hostRead 16)).pod.nextReq)
    ∧ (∃ m, nextMsg (received 1 (message 0x7F 0 0 0 0 [] []) true) 0 1 = some m ∧ m.type = 0x7F
      ∧ (port (received 1 (message 0x7F 0 0 0 0 [] []) true) 0).state = 3)
    ∧ (∃ m, nextMsg (received 0 mailBs true) 0 0 = some m ∧ m.type = 6 ∧ msgBad (received 0 mailBs true) m = false
      ∧ validPartner (received 0 mailBs true) 0 = true ∧ m.dst = 0 ∧ bits m.ext 15 0 = 4
      ∧ ((received 0 mailBs true).pod.mbox.filter fun q => q.service != 1).length < 64)
    ∧ (∃ h, nextMail (mailed 1 (pay 64 [(0, 9), (4, 1)])) 1 = some h ∧ h.port < 32
      ∧ field h.payload 0 4 = 9 ∧ field h.payload 4 1 = 1 ∧ field h.payload 4 1 ≠ 0
      ∧ bitB 3 1 = true ∧ ((mailed 1 (pay 64 [(0, 9), (4, 1)])).ports.any fun (q, pt) => q != h.port
        && pt.member == some (field h.payload 4 1) && pt.sess.serial != field h.payload 8 8) = false)
    ∧ (∃ h, nextMail (mailed 1 (pay 64 [(0, 8)])) 1 = some h ∧ field h.payload 0 4 ≠ 9)
    ∧ (∃ h, nextMail (mailed 6 (zeros 64)) 6 = some h) ∧ (mailed 6 (zeros 64)).pod.eff.head = (mailed 6 (zeros 64)).pod.eff.device
    ∧ (mailed 6 (zeros 64)).ev.full 0x0905 ((mailed 6 (zeros 64)).timebase / 1000000) = false := by
  refine ⟨⟨_, _, rfl, ?_, ?_, rfl, ?_, ?_, ?_, ?_⟩, ?_, ⟨_, _, rfl, ?_, ?_, rfl, ?_, ?_, ?_⟩, ⟨_, rfl, ?_, ?_⟩, ⟨_, rfl, ?_, ?_, ?_, ?_, ?_, ?_⟩,
    ⟨_, rfl, ?_, ?_, ?_, ?_, ?_, ?_⟩, ⟨_, rfl, ?_⟩, ⟨_, rfl⟩, ?_, ?_⟩ <;> decide +kernel

/-- One outstanding request to device 1, by port 0, as given. -/
def outstanding (r : Request) : State := let s := received 0 [] true
  { s with pod := { s.pod with reqs := [r], nextReq := 6, routes := [(1, { ports := 1, next := 1, valid := true })] } }
def request0 (busy : Nat) (refused sent signal : Bool) : Request :=
  { id := 5, tag := 0, type := 2, dst := 1, vc := 1, unit := 0, bytes := zeros 16, why := .mailbox, busy := busy, holding := refused
    refused := refused, sent := sent, signal := signal }

/-- With one usable port the hash of R345 finds it, whatever it is. -/
theorem oneRoute {s : State} {d line p : Nat} (h : routePorts s d = [p]) : (routePort s d line).isSome = true := by
  simp [routePort, h, Nat.mod_one]

theorem test_meets_OutstandingRequests :
    (∃ r, (outstanding (request0 0 false true false)).pod.reqs.find? (fun r => r.id == 5) = some r ∧ r.sent = true
      ∧ r.why ≠ .carried)
    ∧ (∃ r, (outstanding (request0 100 true true false)).pod.reqs.find? (fun r => r.id == 5) = some r ∧ r.refused = true
      ∧ r.busy ≤ 100 ∧ r.dst < 64
      ∧ (routePort (outstanding (request0 100 true true false)) r.dst (field r.bytes 8 6 / 128)).isSome = true)
    ∧ (∃ r, (outstanding (request0 101 true true false)).pod.reqs.find? (fun r => r.id == 5) = some r ∧ r.refused = true
      ∧ 100 < r.busy)
    ∧ (∃ r, (outstanding (request0 0 false false true)).pod.reqs.find? (fun r => r.id == 5) = some r ∧ r.signal = true
      ∧ r.sent = false ∧ r.fails = 0
      ∧ (outstanding (request0 0 false false true)).pod.reqs.any (stillBefore r) = false
      ∧ (outstanding (request0 0 false false true)).pod.colls.any (collBefore r) = false
      ∧ (routePort (outstanding (request0 0 false false true)) r.dst (field r.bytes 8 6 / 128)).isSome = true)
    ∧ (let s := outstanding { request0 0 false true false with unit := 0x1003 }
       1 ≠ s.pod.eff.device ∧ 8 % 8 = 0 ∧ (∀ q ∈ s.pod.reqs, q.id < s.pod.nextReq)
        ∧ ∃ q ∈ s.pod.reqs, q.dst = 1 ∧ q.unit = unitOf (some 3) ∧ beforeSignal q.type = true)
    ∧ (let s := { outstanding (request0 0 false true false) with pod := { (outstanding (request0 0 false true false)).pod with
        colls := [⟨4, none, 1, 0, unitOf (some 3), 2⟩] } }
       ∃ c ∈ s.pod.colls, c.parent = none ∧ c.unit = unitOf (some 3) ∧ bitB c.mask 1 = true ∧ c.id < s.pod.nextReq)
    ∧ (let s := outstanding (request0 0 false true false)
       (∀ q ∈ s.pod.reqs, q.dst = 1 → q.unit = unitOf (some 3) → beforeSignal q.type = false ∧ q.holding = false)
        ∧ (∀ c ∈ s.pod.colls, c.unit = unitOf (some 3) → bitB c.mask 1 = false)
        ∧ Tab.get 0 { s with pod := { s.pod with bad := [(unitOf (some 3) * 64 + 1, 5)] } }.pod.bad (unitOf (some 3) * 64 + 1) ≠ 0)
    ∧ (let s := received 0 [] true
       bitB s.pod.eff.members 1 = true ∧ 1 ≠ s.pod.eff.device ∧ (reachable s).contains 1 = false ∧ bitB s.pod.missing 1 = false
        ∧ s.power.phase = .up) := by
  refine ⟨⟨_, rfl, ?_, ?_⟩, ⟨_, rfl, ?_, ?_, ?_, oneRoute (p := 0) ?_⟩, ⟨_, rfl, ?_⟩,
    ⟨_, rfl, ?_, ?_, ?_, ?_, ?_, oneRoute (p := 0) ?_⟩, ⟨?_, ?_, ?_, _, List.mem_singleton_self _, ?_⟩,
    ⟨_, List.mem_singleton_self _, ?_⟩, ?_, ?_⟩ <;> decide +kernel

/-! ### Memory, caches and side stacks -/

/-- An address of the stack, its slice and index. -/
theorem test_meets_StackLineAccesses : (∃ t l, locate up 0 = .stack t l ∧ placeWaits up (.stack t l) = false
      ∧ placeLost up (.stack t l) = false ∧ (shankOf up t).guard = false) ∧ mayIssue up (.tile 255) = true ∧ CleanLine up (0 / 128 * 128)
    ∧ (∃ t l, locate (faulty up) 0 = .stack t l ∧ placeLost (faulty up) (.stack t l) = false
      ∧ heldAtShank (faulty up) .host t l false 0 = true ∧ heldAtShank (faulty up) .host t l true 0 = true)
    ∧ (∃ t l, locate up (columnBytes * 256 - 1) = .stack t l) ∧ (List.replicate 128 (some (1 : Byte))).length = 128 := by
  refine ⟨⟨_, _, rfl, ?_, ?_, ?_⟩, ?_, fun i _ => rfl, ⟨_, _, rfl, ?_, ?_, ?_⟩, ⟨_, _, rfl⟩, rfl⟩ <;> decide +kernel

theorem test_meets_StackHolesAreRefused : locate up (columnBytes * 256) = .hole ∧ locate up (sideBase - 1) = .hole
    ∧ locate up (sideBase + 12 * 2 ^ 37) = .hole := by decide +kernel

def shanked (k : Shank) : State := { up with stack := { shanks := [(0, k)] } }

theorem test_meets_ShankAndTierFailures :
    (∃ l, locate (shanked { valid := true }) 0 = .stack 0 l ∧ (shankOf (shanked { valid := true }) 0).guard = true
      ∧ heldAtShank (shanked { valid := true }) .host 0 l false 0 = false ∧ hasEntry (shanked { valid := true }) 0 l = false
      ∧ (if (shankOf (shanked { valid := true }) 0).trying = some (.host, false, 0) then (shankOf (shanked { valid := true }) 0).tries else 0) + 1 < 3)
    ∧ (let s := shanked { valid := true, tries := 2, trying := some (.host, false, 0), doubt := true }
       ∃ l, locate s 0 = .stack 0 l ∧ (shankOf s 0).guard = true ∧ heldAtShank s .host 0 l false 0 = false
        ∧ 3 ≤ (if (shankOf s 0).trying = some (.host, false, 0) then (shankOf s 0).tries else 0) + 1 ∧ (shankOf s 0).held = [])
    ∧ (let s := shanked { valid := true, tries := 2, trying := some (.host, true, 0), doubt := true }
       ∃ l, locate s 0 = .stack 0 l ∧ heldAtShank s .host 0 l true 0 = false ∧ placeLost s (.stack 0 l) = false
        ∧ 3 ≤ (if (shankOf s 0).trying = some (.host, true, 0) then (shankOf s 0).tries else 0) + 1 ∧ CleanLine s 0)
    ∧ (let s := { shanked { valid := true, tries := 2, trying := some (.module, false, 0), doubt := true } with
         cache := { misses := [⟨0, 0, [.read .host true]⟩] } }
       locate s 0 = .stack 0 0 ∧ hasEntry s 0 0 = true ∧ heldAtShank s .module 0 0 false 0 = false
        ∧ (shankOf s 0).trying = some (.module, false, 0) ∧ 2 ≤ (shankOf s 0).tries ∧ (shankOf s 0).held = [])
    ∧ ((shankOf (shanked { valid := true }) 0).valid = true ∧ (shankOf (shanked { valid := true }) 0).mode ≠ 2
      ∧ bitB (shankOf (shanked { valid := true }) 0).failed 16 = false ∧ (shankOf (shanked { valid := true }) 0).fault = none)
    ∧ (∃ g, (shankOf (shanked { fault := some 16 }) 0).fault = some g) ∧ (shankOf (shanked { fault := some 16 }) 0).held = []
    ∧ ((shankOf (shanked { doubt := true }) 0).fault = none ∧ (shankOf (shanked { doubt := true }) 0).doubt = true
      ∧ (shankOf (shanked { doubt := true }) 0).held = [])
    ∧ (∃ r, (shankOf (shanked { copying := some (1, 2, 3) }) 0).copying = some r) ∧ (shankOf (shanked { copying := some (1, 2, 3) }) 0).toCopy = []
    ∧ (∃ r, (sideOf { up with stack := { sides := [(11, { copying := some (1, 2, 3) })] } } 11).copying = some r)
    ∧ up.power.coreRails = true ∧ (tierOf up 7).failed = false := by
  refine ⟨⟨_, rfl, ?_, ?_, ?_⟩, ⟨_, rfl, ?_, ?_, ?_, ?_⟩, ⟨_, rfl, ?_, ?_, ?_, fun i _ => rfl⟩, ?_, ?_, ⟨_, rfl⟩, ?_, ?_, ⟨_, rfl⟩, ?_, ⟨_, rfl⟩, ?_⟩ <;> decide +kernel

def awlRunning : Awls := { awl := [(0, { state := .running })] }
def owing (n : Nat) : State := { up with awls := awlRunning, stack := { owed := [(0, 1)], posts := if n = 0 then [] else [(0, n)] } }

theorem test_meets_RefreshBucketsAndScrub :
    (up.power.coreRails = true ∧ (tierOf up 7).failed = false ∧ awlHolds up 8 255 = false ∧ awlHolds (owing 0) 1 0 = true)
    ∧ (Tab.get 0 (owing 3).stack.owed (columnKey 1 0) ≠ 0 ∧ Tab.get 0 (owing 3).stack.posts (columnKey 1 0) < 4)
    ∧ 4 ≤ Tab.get 0 (owing 4).stack.posts (columnKey 1 0)
    ∧ (let s : State := { up with stack := { tiers := [(0, { band := 2 })] } }
       (tierOf s 0).forced = false ∧ bandOf (Tab.get 0 s.thermal.temp 32 + 5000) < (tierOf s 0).band)
    ∧ (let s : State := { up with timebase := 10 ^ 10 }
       s.stack.leakS ≠ 0 ∧ s.stack.leakAt / (s.stack.leakS * 10 ^ 9) < now s / (s.stack.leakS * 10 ^ 9))
    ∧ up.stack.scrubEn = true ∧ placeWaits up (locate up (32 * up.stack.scrub)) = false
    ∧ (let s : State := { up with stack := { sides := [(11, { limit := 100 })] } }
       (sideOf s 11).ledger = false ∧ (sideOf s 11).state = 0 ∧ (sideOf s 11).moved + 32 ≤ (sideOf s 11).limit * 8000
        ∧ (sideOf s 11).copying ≠ some (sidePlace (32 * Tab.get 0 s.stack.scrubSide 11))
        ∧ markAt s (sideBase + 11 * 2 ^ 37 + 32 * Tab.get 0 s.stack.scrubSide 11) = {}) := by decide +kernel

def sided (k : Side) : State := { up with stack := { sides := [(11, k)] } }

theorem test_meets_SideStackCommands :
    (∃ i off, locate (sided { limit := 1 }) (sideBase + 12 * 2 ^ 37 - 1) = .side i off ∧ (sideOf (sided { limit := 1 }) i).state = 0
      ∧ placeWaits (sided { limit := 1 }) (.side i off) = false ∧ (sideOf (sided { limit := 1 }) i).held.length < 2048
      ∧ (sideOf (sided { limit := 1 }) i).moved + 256 ≤ (sideOf (sided { limit := 1 }) i).limit * 8000)
    ∧ CleanLine (sided { limit := 1 }) (sideBase / 128 * 128) ∧ (addWidth 0xE).isNone = true
    ∧ (∀ k ∈ [({ state := 2 } : Side), { limit := 0 }, { limit := 1, copying := some (sidePlace 0) }],
      locate (sided k) (sideBase + 11 * 2 ^ 37) = .side 11 0 ∧ (sideOf (sided k) 11).held.length < 2048
        ∧ sideHolds (sided k) 11 0 { req := .host, addr := sideBase + 11 * 2 ^ 37, acc := .read 15, errs := [], again := [] } = true)
    ∧ (let s := sided { valid := true, fails := [(5, 2), (6, 3)] }
       (sideOf s 11).state = 0 ∧ (sideOf s 11).ledger = false ∧ (sideOf s 11).valid = true ∧ (sideOf s 11).failsOf 5 < 3
        ∧ (sideOf s 11).failsOf 7 < 3 ∧ 3 ≤ (sideOf s 11).failsOf 6 ∧ (sideOf s 11).retrain = none)
    ∧ (let s := sided { valid := true, fails := [(6, 3)], retrain := some 0 }
       3 ≤ (sideOf s 11).failsOf 6 ∧ ∃ t0, (sideOf s 11).retrain = some t0 ∧ now s - t0 < 10 ^ 9)
    ∧ (sideOf (sided { state := 2 }) 11).state = 2 ∧ (sideOf (sided { state := 2 }) 11).held = [] := by
  refine ⟨⟨_, _, rfl, ?_, ?_, ?_, ?_⟩, fun i _ => rfl, ?_, ?_, ?_, ⟨?_, _, rfl, ?_⟩, ?_⟩ <;> decide +kernel

/-- A line that slice 0 holds whole, and a miss that waits for a fill. -/
def wholeLine : L2Line := { valid := true, secs := List.replicate 4 { data := zeros 32, mask := 2 ^ 32 - 1 } }
def cached : State := { up with cache := { lines := [(0, wholeLine)] } }
def missing : State := { up with cache := { misses := [⟨0, 0, [.read .host true]⟩] } }

theorem test_meets_SliceCommands :
    (∃ t l, locate up 0 = .stack t l ∧ accessOf up 0 = .ok ∧ placeLost up (.stack t l) = false
      ∧ mayIssue up (.tile 0) = true ∧ hasEntry up t l = false ∧ hasLate up t l = false ∧ findWay up t l = none
      ∧ (up.cache.misses.filter fun m => m.slice == t).length < 64)
    ∧ (∃ l w, locate cached 0 = .stack 0 l ∧ findWay cached 0 l = some w
      ∧ (l2Line cached 0 (l % 512) w).sectors.all Sector.whole = true
      ∧ ((l2Line cached 0 (l % 512) w).read cached.obj.deadFill).dead = 0)
    ∧ (addWidth 5).isSome = true ∧ (addWidth 0xE).isNone = true
    ∧ (∃ a, (missing.cache.misses.filter fun m => m.slice == 0 && m.index == 0) = [⟨0, 0, [.read .host true]⟩]
      ∧ missing.cache.late = [] ∧ placeWaits missing (.stack 0 0) = false ∧ placeLost missing (.stack 0 0) = false ∧ findWay missing 0 0 = none
      ∧ lineOf missing 0 0 = some a) ∧ ∀ a, CleanLine missing a := by
  refine ⟨⟨_, _, rfl, ?_⟩, ⟨_, _, rfl, rfl, ?_⟩, ?_, ?_, ⟨_, rfl, ?_, ?_, ?_, ?_, rfl⟩, fun a i _ => rfl⟩ <;> decide +kernel

theorem test_meets_HomeReadAfterWrite : 0 % 128 = 0 ∧ (zeros 128).length = 128 ∧ accessOf up 0 = .ok
    ∧ placeLost up (locate up 0) = false ∧ accessOf (sided {}) (sideBase + 11 * 2 ^ 37) = .ok
    ∧ placeLost (sided {}) (locate (sided {}) (sideBase + 11 * 2 ^ 37)) = false
    ∧ placeWaits up (locate up 0) = false ∧ placeWaits (sided {}) (locate (sided {}) (sideBase + 11 * 2 ^ 37)) = false
    ∧ (∀ slice index, hasEntry up slice index = false ∧ hasLate up slice index = false)
    ∧ (∃ t l, locate up 0 = .stack t l ∧ (shankOf up t).bare = false) ∧ placeFull up (locate up 0) = false
    ∧ placeFull (sided { limit := 1 }) (locate (sided { limit := 1 }) (sideBase + 11 * 2 ^ 37)) = false := by
  refine ⟨?_, ?_, ?_, ?_, ?_, ?_, ?_, ?_, fun _ _ => ⟨rfl, rfl⟩, ⟨_, _, rfl, ?_⟩, ?_, ?_⟩ <;> decide +kernel

/-- A command of the list whose payload breaks a rule. -/
theorem test_meets_BrokenRulesAreRefused :
    (∀ x ∈ [(0x0001, 0), (0x0010, 4), (0x0050, 255)], ∃ a, accepted (cmd x.1 (pay 256 [(0, x.2)]) up) (.slot 0) x.1 = some a)
    ∧ (∃ f, pickFail (checkSetMode (pay 256 [(0, 4)]) (cmd 0x0010 (pay 256 [(0, 4)]) up)) = some f)
    ∧ (let u := ahead 0x0050 (pay 256 [(0, 255)]) up createReads []
       waited (cmd 0x0050 (pay 256 [(0, 255)]) up) u = false ∧ accepted u (.slot 0) 0x0050 = accepted (cmd 0x0050 (pay 256 [(0, 255)]) up) (.slot 0) 0x0050
        ∧ ∃ f, pickFail (checkSeqCreate (pay 256 [(0, 255)]) u) = some f) := by
  refine ⟨fun x _ => ⟨⟨.slot 0, x.1, 1, false, pay 256 [(0, x.2)], false, 0, false⟩, by simp [accepted, cmd]⟩,
    Option.isSome_iff_exists.mp ?_, ?_, ?_, Option.isSome_iff_exists.mp ?_⟩ <;> decide +kernel

def windowOff : State := { up with pcie := { up.pcie with win := { enable := false } } }

/-- A line of the stack whose shank works with its guard. -/
theorem guardedAt {s : State} {a : Nat} (h : (match locate s a with | .stack t _ => !(shankOf s t).bare | _ => false) = true) :
    ∃ t l, locate s a = .stack t l ∧ (shankOf s t).bare = false := by
  split at h
  · rename_i t l e
    exact ⟨t, l, e, by simpa using h⟩
  · cases h

theorem test_meets_HostAccessesThroughBar2 :
    (hostHeard up = true ∧ bar2Fits up (2 ^ 30 - 128) 128 = true ∧ memoryServed up = true ∧ ready up = true
      ∧ up.pcie.win.enable = true ∧ up.pcie.win.remote = false ∧ bar2Addr up (2 ^ 30 - 128) % 128 = 0
      ∧ accessOf up (bar2Addr up (2 ^ 30 - 128)) = .ok ∧ placeLost up (locate up (bar2Addr up (2 ^ 30 - 128))) = false
      ∧ placeWaits up (locate up (bar2Addr up (2 ^ 30 - 128))) = false
      ∧ (∀ slice index, hasEntry up slice index = false ∧ hasLate up slice index = false)
      ∧ (∃ t l, locate up (bar2Addr up (2 ^ 30 - 128)) = .stack t l ∧ (shankOf up t).bare = false)
      ∧ placeFull up (locate up (bar2Addr up (2 ^ 30 - 128))) = false)
    ∧ (∃ u r, homeRead .host (bar2Addr up 0) (sectorMask (bar2Addr up 0 / 128 * 128) (bar2Addr up 0) 128)
        { up with waits := false } = (u, .ok, r) ∧ waited up u = false ∧ r.poison = 0)
    ∧ (bar2Fits (faulty up) 0 128 = true ∧ memoryServed (faulty up) = true ∧ ready (faulty up) = true
      ∧ (faulty up).pcie.win.enable = true ∧ (faulty up).pcie.win.remote = false ∧ tryBar2 (bar2Addr (faulty up) 0) 128 (faulty up) = none)
    ∧ (hostHeard (stage 2) = true ∧ bar2Fits (stage 2) 0 4 = true ∧ memoryServed (stage 2) = true ∧ ready (stage 2) = false)
    ∧ (ready windowOff = true ∧ memoryServed windowOff = true ∧ bar2Fits windowOff 0 4 = true ∧ bar2Takes windowOff 0 128 = true ∧ windowOff.pcie.win.enable = false) := by
  refine ⟨⟨?_, ?_, ?_, ?_, ?_, ?_, ?_, ?_, ?_, ?_, fun _ _ => ⟨rfl, rfl⟩, guardedAt ?_, ?_⟩,
    ⟨(homeRead .host 0 15 up).1, (homeRead .host 0 15 up).2.2, ?_, ?_, ?_⟩, ?_, ?_, ?_⟩ <;> decide +kernel

def reading : State := { up with
  pcie := { up.pcie with reads := [⟨3, 0x1000, 64, .intakeHeader 0⟩] }
  obj := { intakes := [(0, some ⟨false, 10, 2, 0x1000, true, 5, 5, true⟩)] } }

/-- The read that is out, for a stream transfer, and the state with its completion's data taken. -/
def streamRead : State := { reading with
  pcie := { reading.pcie with reads := [⟨4, 0x1000, 64, .stream 8⟩] }
  sched := { reading.sched with subs := [{ id := 8, kind := 1, obj := 0, compl := 0, tag := 0, arg := 0, addr := 0, rows := [], area := none }] } }

theorem test_meets_HostLinkTrains : trainable.pcie.training = true ∧ trainable.power.coreRails = true
    ∧ trainable.power.perstN = true ∧ (∃ r, streamRead.pcie.reads.find? (fun r => r.tag == 4) = some r ∧ r.why = .stream 8)
    ∧ (∃ u, subOf streamRead 8 = some u ∧ u.bad = 0) ∧ streamRead.pcie.cfg.cplDisable = false
    ∧ (∃ r, reading.pcie.reads.find? (fun r => r.tag == 3) = some r
      ∧ waited reading (pumpReads (takeRead r (slice (zeros 64) 0 r.len) [] (dropRead 3 { reading with waits := false }))) = false) := by
  refine ⟨?_, ?_, ?_, ⟨_, rfl, rfl⟩, ⟨_, rfl, ?_⟩, ?_, _, rfl, ?_⟩ <;> decide +kernel

theorem test_meets_HostReadFreesItsArea : (∃ r k, reading.pcie.reads.find? (fun r => r.tag == 3) = some r ∧ r.why = .intakeHeader 0 ∧ intakeOf reading 0 = some k ∧ k.host = k.taken ∧ k.host < 2 ^ 32
      ∧ field (slice (natLE 64 (5 + 2 ^ 32 * (2 ^ 32 - 1 - 5))) 0 r.len) 0 8 = k.host + 2 ^ 32 * (2 ^ 32 - 1 - k.host))
    ∧ reading.pcie.cfg.cplDisable = false := by
  refine ⟨⟨_, _, rfl, rfl, rfl, ?_⟩, ?_⟩ <;> decide +kernel

/-! ### The Cobbler -/

def posted (cseq seq : Nat) : State := { up with mail := {
  slots := [(63, { commit := 1, cmd := 1, cseq := cseq, seq := seq, len := 9 })], lastSeq := [(63, some 4)] } }

theorem test_meets_MailboxScanAccepts : cobblerUp up = true ∧ (Tab.get {} up.mail.slots 63).commit ≠ 1
    ∧ ((Tab.get {} (posted 6 5).mail.slots 63).commit = 1 ∧ ((posted 6 5).mail.accepted.any fun a => a.origin == .slot 63) = false
      ∧ (Tab.get {} (posted 6 5).mail.slots 63).cseq ≠ (Tab.get {} (posted 6 5).mail.slots 63).seq % 2 ^ 16)
    ∧ ((Tab.get {} (posted 4 4).mail.slots 63).cseq = (Tab.get {} (posted 4 4).mail.slots 63).seq % 2 ^ 16
      ∧ Tab.get none (posted 4 4).mail.lastSeq 63 = some (Tab.get {} (posted 4 4).mail.slots 63).seq)
    ∧ (Tab.get none (posted 5 5).mail.lastSeq 63 ≠ some (Tab.get {} (posted 5 5).mail.slots 63).seq
      ∧ receive (posted 5 5) 1 9 (getBytes (Tab.get {} (posted 5 5).mail.slots 63).payload 0 (min 9 4032)) = none) := by decide +kernel

theorem test_meets_SummariesAndCounters :
    Passes (cmd 0x0001 (pay 9 []) up) (.slot 0) 0x0001 checkSummary (pay 9 []) ∧ field (pay 9 []) 0 8 = 0
    ∧ (∃ n, (stage 1).power.phase = .bringup (n + 1))
    ∧ (∀ n, ∃ a, accepted (cmd 2 (pay 8 [(0, n)]) up) (.slot 0) 2 = some a ∧ a.payload = pay 8 [(0, n)])
    ∧ field (pay 8 [(0, 4)]) 0 1 ≤ 4 ∧ field (pay 8 [(0, 255)]) 0 1 = 0xFF
    ∧ Passes (cmd 0x00B0 (pay 16 [(0, 1), (4, 1), (8, 4096)]) up) (.slot 0) 0x00B0 checkCounters (pay 16 [(0, 1), (4, 1), (8, 4096)])
    ∧ bitB (field (pay 16 [(0, 1), (4, 1), (8, 4096)]) 6 1) 0 = false := by
  refine ⟨passesCmd ?_, ?_, ⟨0, rfl⟩, fun n => ⟨_, rfl, rfl⟩, ?_, ?_, passesCmd ?_, ?_⟩ <;> decide +kernel

def folding (n : Nat) : State := { up with ev := { folds := [⟨0x0502, 3, n, 0⟩], supp := [(0x0502, 2)] } }
def tracing : State := { up with trace := { enabled := true, sampleUs := 10, base := 4096, len := 65536, queue := [⟨0, 1, 0, 0⟩] } }
def tracePl : Bytes := pay 256 [(0, 1), (1, 3), (8, 4096), (16, 65536), (24, 10)]

theorem test_meets_IntervalsAndTraces :
    (∃ f, (folding 0).ev.folds.find? (fun f => f.code == 0x0502 && f.key == 3) = some f ∧ f.count = 0)
    ∧ (∃ f, (folding 1).ev.folds.find? (fun f => f.code == 0x0502 && f.key == 3) = some f ∧ f.count ≠ 0)
    ∧ Tab.get 0 (folding 0).ev.supp 0x0502 ≠ 0
    ∧ Passes (cmd 0x00B1 tracePl up) (.slot 0) 0x00B1 checkTrace tracePl ∧ dget tracePl 0 1 = 1
    ∧ tracing.trace.enabled = true ∧ tracing.trace.sampleUs ≠ 0 ∧ (∃ r rest, tracing.trace.queue = r :: rest)
    ∧ tracing.trace.lostNew = 0
    ∧ accessOf tracing ((tracing.trace.base + 128 + 32 * (tracing.trace.written % traceEntries tracing.trace.len)) / 128 * 128) = .ok
    ∧ placeLost tracing (locate tracing (tracing.trace.base + 128 + 32 * (tracing.trace.written % traceEntries tracing.trace.len))) = false := by
  refine ⟨⟨_, rfl, ?_⟩, ⟨_, rfl, ?_⟩, ?_, passesCmd ?_, ?_, ?_, ?_, ⟨_, _, rfl⟩, ?_, ?_, ?_⟩ <;> decide +kernel

theorem test_meets_SmbusAnswers : powered.power.standby = true
    ∧ smbAlert { powered with tele := { powered.tele with alert := 8 } } = true
    ∧ smbPecOk powered 0x10 3 none = true ∧ (smbPecOk powered 0x10 3 (some 0) = false ∨ smbPecOk powered 0x10 3 (some 1) = false) := by
  decide +kernel

/-! A task, its completion area and a class. -/

def task0 : Task := ⟨0, 1, false, 64, 20, 0, none, 0, some 0, true⟩
def area0 : Compl := { device := false, log2 := 10, vector := 0, base := 0x2000, enabled := true, written := 3, host := 2 }
def tasked : State := { up with obj := { tasks := [(0, some task0)], compls := [(0, some area0)] } }
def classed (c : PClass) : State := { tasked with obj := { tasked.obj with classes := [(31, some c)] } }
def defPl : Bytes := pay 32 [(0, 31), (8, 10 ^ 10), (16, 1000), (24, 10 ^ 10)]
def class31 : PClass := { task := 0, period := 10000, budget := 1000, phase := 0 }

theorem test_meets_PeriodicClasses :
    Passes (cmd 0x0040 defPl tasked) (.slot 0) 0x0040 checkPeriodicDefine defPl
    ∧ (Passes (cmd 0x0041 (pay 2 [(0, 31), (1, 1)]) (classed class31)) (.slot 0) 0x0041 checkPeriodicEnable (pay 2 [(0, 31), (1, 1)])
      ∧ classOf (cmd 0x0041 (pay 2 [(0, 31), (1, 1)]) (classed class31)) 31 = some class31 ∧ class31.enabled = false)
    ∧ (Passes (cmd 0x0041 (pay 2 [(0, 31)]) (classed class31)) (.slot 0) 0x0041 checkPeriodicEnable (pay 2 [(0, 31)]))
    ∧ (∃ c, classOf (classed { class31 with enabled := true }) 31 = some c ∧ c.enabled = true ∧ c.cur = none
      ∧ c.release ≤ now (classed { class31 with enabled := true }))
    ∧ (∃ c, classOf (classed { class31 with enabled := true, cur := some (0, 0), budget := 0 }) 31 = some c ∧ c.cur = some (0, 0)
      ∧ c.overrun = false ∧ 0 + c.budget ≤ now up)
    ∧ ∃ c, classOf (classed { class31 with cur := some (0, 0), overrun := true }) 31 = some c ∧ c.cur = some (0, 0) ∧ c.overrun = true := by
  refine ⟨passesCmd ?_, ⟨passesCmd ?_, ?_, ?_⟩, passesCmd ?_, ⟨_, rfl, ?_⟩, ⟨_, rfl, ?_⟩, ⟨_, rfl, ?_⟩⟩ <;> decide +kernel

def areaed : State := { up with obj := { compls := [(0, some area0)] } }

theorem test_meets_CompletionAreaCounts :
    (∃ k, complOf areaed 0 = some k ∧ k.enabled = true ∧ k.device = false
      ∧ (2 + 2 ^ 32 * (2 ^ 32 - 1 - 2)) / 2 ^ 32 % 2 ^ 32 = 2 ^ 32 - 1 - (2 + 2 ^ 32 * (2 ^ 32 - 1 - 2)) % 2 ^ 32
      ∧ (k.written + 2 ^ 32 - (2 + 2 ^ 32 * (2 ^ 32 - 1 - 2)) % 2 ^ 32) % 2 ^ 32 ≤ k.size)
    ∧ ready areaed = true ∧ canIssue areaed = true ∧ area0.order = []
    ∧ 2 / 2 ^ 32 % 2 ^ 32 ≠ 2 ^ 32 - 1 - 2 % 2 ^ 32
    ∧ (areaed.pcie.reads.any fun r => r.why == .complHeader 0) = false
    ∧ (areaed.pcie.waiting.any fun r => r.why == .complHeader 0) = false := by
  refine ⟨⟨_, rfl, ?_⟩, ?_⟩ <;> decide +kernel

/-! ### Regions, pins, runs, streams and areas -/

def lent0 (entered : Bool) : State := { up with obj := { lends := [(63, some ⟨0, 2 ^ 23, entered, entered, .slot 0⟩)] } }
def discarding : State := { up with obj := { discards := [⟨.slot 0, 0, 128⟩] } }

theorem test_meets_LentAndDiscardedRanges :
    Passes (cmd 0x0060 (pay 16 [(8, blockBytes up)]) up) (.slot 0) 0x0060 checkLend (pay 16 [(8, blockBytes up)])
    ∧ (∃ r, lendOf (lent0 false) 63 = some r ∧ r.lent = false ∧ (lent0 false).sched.op = none ∧ rangeBusy (lent0 false) r.base r.len = false
      ∧ allFenced (flushLines (inRange (flushAllL1 (lent0 false)) r.base r.len) (flushAllL1 (lent0 false))) = true
      ∧ rangeBusy (flushLines (inRange (flushAllL1 (lent0 false)) r.base r.len) (flushAllL1 (lent0 false))) r.base r.len = false)
    ∧ Passes (cmd 0x0061 (pay 1 [(0, 63)]) (lent0 true)) (.slot 0) 0x0061 checkReturn (pay 1 [(0, 63)])
    ∧ (reservedFail ((pay 24 [(1, 3)]).take 24) [(0, 8), (8, 8)] = [] ∧ field (pay 24 [(1, 3)]) 1 1 ≤ 3)
    ∧ 2 ≤ field (pay 24 [(0, 2)]) 0 1
    ∧ (Passes (cmd 0x0072 (pay 24 [(0, 1), (16, 128)]) up) (.slot 0) 0x0072 checkDiscard (pay 24 [(0, 1), (16, 128)])
      ∧ field (pay 24 [(0, 1), (16, 128)]) 0 1 = 1)
    ∧ ∃ d, discarding.obj.discards.find? (fun d => d.by' == .slot 0) = some d ∧ discarding.sched.op = none
        ∧ rangeBusy discarding d.base d.len = false ∧ allFenced (flushAllL1 discarding) = true
        ∧ rangeBusy (flushAllL1 discarding) d.base d.len = false ∧ d.base % 128 = 0 ∧ d.len % 128 = 0 := by
  refine ⟨passesCmd ?_, ⟨_, rfl, ?_⟩, passesCmd ?_, ?_, ?_, ⟨passesCmd ?_, ?_⟩, ⟨_, rfl, ?_⟩⟩ <;> decide +kernel

/-- Bytes put in stack memory, zeros left unlisted. -/
def stored (a : Nat) (bs : Bytes) : List Host.Cell := (bs.zipIdx.filter fun x => x.1 != 0).map fun x => (a + x.2, x.1)

def runBlock : Bytes := pay 128 [(1, 2), (4, 4), (24, 2 ^ 25), (32, 1)]
def runnable0 : State := { up with
  obj := { lends := [(0, some ⟨0, 2 ^ 23, true, true, .slot 0⟩)], compls := [(0, some area0)] }
  stack := { mem := stored (2 ^ 24) runBlock } }
def runPl : Bytes := pay 16 [(0, 2 ^ 24), (12, 7)]

def pinned : State := { up with obj := { pins := [(63, some (0, 32768))] } }
def stream0 : Stream := { out := false, count := 4, host := 0x8000, dev := 0, size := 128, enabled := true }
def streaming : State := { up with obj := { streams := [(0, some stream0)], compls := [(0, some area0)] } }
def intake0 : Intake := ⟨false, 4, 2, 0x1000, true, 5, 5, false⟩
def streamPl : Bytes := pay 28 [(4, 4), (8, 0x8000), (24, 128)]

/-- The lowest number is free where nothing holds it. -/
theorem firstFree_zero {n : Nat} {used : Nat → Bool} (h : used 0 = false) : firstFree (n + 1) used = some 0 := by
  simp [firstFree, List.range_succ_eq_map, h]

/-- Two shanks in the interleave, so that a pin of one block is two lines. -/
def narrow : State := cmd 0x0070 (pay 16 [(8, 256)]) { up with bring := { up.bring with retired := (List.range 254).map (· + 2) } }
def narrowPl : Bytes := pay 16 [(8, 256)]

theorem test_meets_PinsRunsAndDefinitions :
    (Passes narrow (.slot 0) 0x0070 checkPin narrowPl ∧ firstFree 64 (fun i => (obj narrow.obj.pins i).isSome) = some 0
      ∧ Waits (fun s => (rangeLines (podOffset (field narrowPl 0 8)) (field narrowPl 8 8)).foldl pinLine (controlSlices { s with obj :=
          { s.obj with pins := setObj s.obj.pins 0 (some (podOffset (field narrowPl 0 8), field narrowPl 8 8)) } })) narrow = false)
    ∧ (Passes (cmd 0x0071 (pay 1 [(0, 63)]) pinned) (.slot 0) 0x0071 checkUnpin (pay 1 [(0, 63)])
      ∧ ∃ r, obj (cmd 0x0071 (pay 1 [(0, 63)]) pinned).obj.pins 63 = some r)
    ∧ (∃ v, ReadsPass (cmd 0x0062 runPl runnable0) (.slot 0) 0x0062 runReads [] (checkAwlRun []) runPl v)
    ∧ Passes (cmd 0x0080 streamPl up) (.slot 0) 0x0080 checkStreamDefine streamPl
    ∧ (Passes (cmd 0x0081 (pay 2 [(1, 1)]) streaming) (.slot 0) 0x0081 checkStreamEnable (pay 2 [(1, 1)])
      ∧ ∃ k, streamOf (cmd 0x0081 (pay 2 [(1, 1)]) streaming) 0 = some k)
    ∧ Passes (cmd 0x0082 (pay 16 [(2, 4), (3, 1)]) up) (.slot 0) 0x0082 checkIntakeDefine (pay 16 [(2, 4), (3, 1)])
    ∧ (let s : State := { up with obj := { intakes := [(0, some intake0)] } }
       Passes (cmd 0x0082 (pay 16 []) s) (.slot 0) 0x0082 checkIntakeDefine (pay 16 [])
        ∧ ∃ k, intakeOf (cmd 0x0082 (pay 16 []) s) 0 = some k ∧ k.enabled = true)
    ∧ Passes (cmd 0x0083 (pay 16 [(2, 16), (3, 1), (4, 63)]) up) (.slot 0) 0x0083 checkCompletionDefine (pay 16 [(2, 16), (3, 1), (4, 63)])
    ∧ (Passes (cmd 0x0083 (pay 16 []) areaed) (.slot 0) 0x0083 checkCompletionDefine (pay 16 [])
        ∧ ∃ k, complOf (cmd 0x0083 (pay 16 []) areaed) 0 = some k ∧ k.enabled = true) := by
  refine ⟨⟨passesCmd ?_, firstFree_zero rfl, goesOn ?_⟩, ⟨passesCmd ?_, _, rfl⟩, ⟨_, readsPass ?_⟩, passesCmd ?_, ⟨passesCmd ?_, _, rfl⟩, passesCmd ?_,
    ⟨passesCmd ?_, _, rfl, rfl⟩, passesCmd ?_, passesCmd ?_, _, rfl, rfl⟩ <;> decide +kernel

def transfer0 (started : Bool) (out : Bool) : State := { up with
  obj := { streams := [(0, some { stream0 with out := out })], compls := [(0, some area0)] }
  sched := { subs := [{ id := 8, kind := 2, obj := 0, compl := 0, tag := 1, arg := 0, addr := 0, rows := [], area := none
                        started := started, reserved := started }] } }
def polled (device : Bool) (mem : List Host.Cell) : State := { up with
  obj := { intakes := [(0, some { intake0 with device := device, base := if device then 0 else 0x1000 })] }, stack := { mem := mem } }
def polledDevice : State := polled true (stored 0 (natLE 8 (5 + 2 ^ 32 * (2 ^ 32 - 1 - 5))))

theorem test_meets_StreamsAndIntake :
    (∀ out, ∃ u k, subOf (transfer0 false out) 8 = some u ∧ u.kind = 2 ∧ u.started = false ∧ u.fin = none
      ∧ mayStart (transfer0 false out) u = true ∧ ready (transfer0 false out) = true ∧ canIssue (transfer0 false out) = true
      ∧ streamOf (transfer0 false out) u.obj = some k ∧ k.out = out ∧ k.size ≠ 0
      ∧ Waits (fun s => (cutRange 128 (k.size / 128 + 1) (k.dev + u.arg * k.size) k.size).foldl
          (sendLine 8 (k.dev + u.arg * k.size) (k.host + u.arg * k.size) []) (startSub 8 s)) (transfer0 false out) = false)
    ∧ (∃ u c, subOf (transfer0 true false) 8 = some u ∧ u.kind = 2 ∧ u.started = true ∧ u.fin = none ∧ u.reserved = true
      ∧ transferReads (transfer0 true false) 8 = false ∧ complOf (transfer0 true false) u.compl = some c ∧ c.order = [])
    ∧ (∃ k, intakeOf (polled false []) 0 = some k ∧ k.enabled = true ∧ ready (polled false []) = true ∧ k.busy = false
      ∧ intakeStopped (polled false []) = false ∧ k.device = false)
    ∧ (∃ k, intakeOf polledDevice 0 = some k ∧ k.enabled = true ∧ k.busy = false ∧ intakeStopped polledDevice = false
      ∧ k.device = true ∧ isLocal polledDevice k.base = true
      ∧ waited polledDevice (podRead .module k.base 8 [] { polledDevice with waits := false }).1 = false
      ∧ (podRead .module k.base 8 [] { polledDevice with waits := false }).2.reason = 0
      ∧ (podRead .module k.base 8 [] { polledDevice with waits := false }).2.poison = false
      ∧ countOf k.host (field (podRead .module k.base 8 [] { polledDevice with waits := false }).2.data 0 8) = k.taken
      ∧ k.taken < 2 ^ 32) := by
  refine ⟨fun out => ⟨_, _, rfl, rfl, rfl, rfl, ?_, rfl, rfl, rfl, rfl, Nat.succ_ne_zero 127, goesOn ?_⟩, ⟨_, _, rfl, rfl, rfl, rfl, rfl, ?_, rfl, rfl⟩,
    ⟨_, rfl, ?_⟩, ⟨_, rfl, ?_⟩⟩
  · cases out <;> decide +kernel
  · cases out <;> decide +kernel
  all_goals decide +kernel

def podPl : Bytes := pay 48 [(0, 9), (4, 63), (5, 1), (6, 1), (8, 3), (22, 4096), (28, 7), (32, 2)]
def routePl : Bytes := pay 32 [(0, 1), (8, 1), (16, 2), (20, 1 + 64)]
def podded : State := { received 0 [] true with pod := { (received 0 [] true).pod with routes := [(1, { ports := 1, next := 1, valid := true })] } }
def sendPl : Bytes := pay 72 [(0, 1), (12, 1), (20, 9)]
def relayed : State := mailed 2 (pay 128 [(2, 5), (4, 1), (8, 5), (12, 9)])
def relayAnswer : State := let s := mailed 3 (pay 64 [(2, 1)])
  { s with pod := { s.pod with reqs := [{ request0 0 false true false with type := 6, why := .relay (.slot 0) 3 }] } }

theorem test_meets_PodCommands :
    Passes (cmd 0x0090 podPl up) (.slot 0) 0x0090 checkPodConfig podPl
    ∧ (Passes (cmd 0x0092 routePl up) (.slot 0) 0x0092 checkRouteSet routePl ∧ field routePl 0 1 = 1)
    ∧ Passes (cmd 0x0091 sendPl podded) (.slot 0) 0x0091 checkPodSend sendPl
    ∧ (∃ m, nextMail relayed 2 = some m ∧ (relayed.mail.accepted.any fun a => a.origin == .relay m.src m.seq) = false
      ∧ field m.payload 2 2 = field m.payload 8 4 % 2 ^ 16
      ∧ receive relayed (field m.payload 4 2) (field m.payload 12 2) (slice m.payload 64 (min (field m.payload 12 2) 4032)) = none)
    ∧ ∃ m r, nextMail relayAnswer 3 = some m ∧ relayAnswer.pod.reqs = [r] ∧ r.dst = m.src ∧ r.why = .relay (.slot 0) m.seq := by
  refine ⟨passesCmd ?_, ⟨passesCmd ?_, ?_⟩, passesCmd ?_, ⟨_, rfl, ?_⟩, ⟨_, _, rfl, rfl, rfl, rfl⟩⟩ <;> decide +kernel

/-! ### Models, sequences, tasks and operations -/

def modelPl : Bytes := pay 176 [(0, 4095), (3, 1), (152, 32), (156, 32 + 3 * 2 ^ 20)]
def model0 (pool : Option Nat) : Model := ⟨[], pool⟩
def pool0 : Pool := { shape := ⟨false, 64, 64, 1, 1, 1, 1⟩, regions := [(0, 2 ^ 22)], tables := [(2 ^ 22, 2 ^ 20)] }
def seq0 : Machine.Seq := ⟨0, 2 ^ 22, 2 ^ 22 + 8192, [], 1⟩
def modelled (q : List (Nat × Option Machine.Seq)) : State := { up with
  obj := { models := [(0, some (model0 (some 0))), (1, some (model0 none))], pools := [(0, some pool0)], seqs := q } }
def extendPl (n : Nat) : Bytes := pay 10 [(2, 1), (4, n)]
def sequenced : State := modelled [(0, some seq0)]
def extended (n : Nat) : State := ahead 0x0051 (extendPl n) sequenced extendReads []
def created : State := ahead 0x0050 (pay 28 []) (modelled []) createReads []
def evicted : State := ahead 0x0021 (pay 2 [(0, 1)]) (modelled []) (fun _ s => liveReads s) []
def freed : State := ahead 0x0052 (pay 4 [(2, 1)]) sequenced (freeReads []) []

theorem test_meets_ModelsAndSequences :
    (Passes (cmd 0x0020 modelPl up) (.slot 0) 0x0020 checkModelLoad modelPl ∧ field modelPl 0 2 < 4096 ∧ dget modelPl 16 1 = 0
      ∧ dget modelPl 17 1 = 0 ∧ (∀ i, i < field modelPl 3 1 → dget (matRecord modelPl i) 252 1 = 0)
      ∧ Waits (runModelLoad (.slot 0) [] modelPl) (cmd 0x0020 modelPl up) = false)
    ∧ (ReadsPass (cmd 0x0021 (pay 2 [(0, 1)]) (modelled [])) (.slot 0) 0x0021 (fun _ s => liveReads s) [] checkModelEvict
        (pay 2 [(0, 1)]) evicted
      ∧ obj evicted.obj.models (field (pay 2 [(0, 1)]) 0 2) = some (model0 none) ∧ (model0 none).pool = none)
    ∧ (ReadsPass (cmd 0x0050 (pay 28 []) (modelled [])) (.slot 0) 0x0050 createReads [] checkSeqCreate (pay 28 []) created
      ∧ obj created.obj.models 0 = some (model0 (some 0)) ∧ obj created.obj.pools 0 = some pool0
      ∧ firstFree 65536 (fun i => (obj created.obj.seqs i).isSome) = some 0 ∧ bitB (field (pay 28 []) 3 1) 0 = false)
    ∧ (∀ n ∈ [0, 1], ReadsPass (cmd 0x0051 (extendPl n) sequenced) (.slot 0) 0x0051 extendReads [] checkSeqExtend (extendPl n)
        (extended n) ∧ obj (extended n).obj.seqs (field (extendPl n) 0 2) = some seq0)
    ∧ field (extendPl 0) 4 4 ≤ seqCapacity (extended 0) seq0
    ∧ (seqCapacity (extended 1) seq0 < field (extendPl 1) 4 4 ∧ field (extendPl 1) 8 1 ≠ 3
      ∧ obj (extended 1).obj.pools seq0.pool = some pool0
      ∧ ((takeFrames (extended 1) (fun _ => true) (field (extendPl 1) 8 1)
          (((List.range (field (extendPl 1) 4 4 - seqCapacity (extended 1) seq0)).map (· + seqCapacity (extended 1) seq0)).map
            fun p => seqHome0 (extended 1) seq0 + p / 2 ^ seqChunkLog (extended 1) seq0) pool0).bind
              fun f => takeBlocks (leavesFor seq0 1) f.1).isSome = true)
    ∧ (ReadsPass (cmd 0x0052 (pay 4 [(2, 1)]) sequenced) (.slot 0) 0x0052 (freeReads []) [] (checkSeqFree []) (pay 4 [(2, 1)]) freed
      ∧ obj freed.obj.seqs (field (pay 4 [(2, 1)]) 0 2) = some seq0)
    ∧ (∃ m, nextMail (mailed 4 (zeros 64)) 4 = some m ∧ poolOf (mailed 4 (zeros 64)) (shapeOf (field m.payload 0 8)) = none)
    ∧ (∃ m, nextMail (mailed 5 (zeros 64)) 5 = some m) ∧ (mailed 5 (zeros 64)).obj.extending = []
    ∧ ∃ m, nextMail (mailed 7 (zeros 64)) 7 = some m := by
  refine ⟨⟨passesCmd ?_, ?_, ?_, ?_, ?_, goesOn ?_⟩, ⟨readsPass ?_, ?_, rfl⟩,
    ⟨readsPass ?_, ?_, ?_, firstFree_zero ?_, ?_⟩, ?ext, ?_, ⟨?_, ?_, ?_, ?_⟩, ⟨readsPass ?_, ?_⟩, ⟨_, rfl, ?_⟩, ⟨_, rfl⟩, rfl, ⟨_, rfl⟩⟩
  case ext =>
    intro n h
    refine ⟨readsPass ?_, ?_⟩ <;> revert n h <;> decide +kernel
  all_goals decide +kernel

def taskPl : Bytes := pay 24 [(0, 8191), (4, 1), (7, 255), (12, 255), (13, 255)]
def enablePl (on : Nat) : Bytes := pay 3 [(2, on)]
def submitPl : Bytes := pay 64 [(0, 1), (8, 7)]
def sub0 (id : Nat) : Sub := { id := id, kind := 1, obj := 0, compl := 0, tag := 7, arg := 0, addr := 0, rows := [], area := none }
def running0 (next : Nat) : Running :=
  { task := 0, subs := [3], cls := none, next := next, poison := [], abort := none, badSubs := [] }
def op0 (code : Nat) : Op :=
  { desc := natLE 128 code, task := 0, m := 1, rows := [], tiles := [(0, 128)], plan := ⟨1, 1, []⟩, phase := 1, residue := []
    badCells := [], att := none, prog := [], error := none, start := 0 }
def working : State := { tasked with sched := { subs := [sub0 3], running := [running0 0], op := some (op0 4), nextId := 4 } }
def gathering0 : State := { tasked with sched := { subs := [sub0 3], windows := [⟨0, [3]⟩], nextId := 4 } }

theorem test_meets_TasksAndSubmissions :
    (Passes (cmd 0x0030 taskPl up) (.slot 0) 0x0030 checkTaskDefine taskPl ∧ field taskPl 0 2 ≠ 0xFFFF)
    ∧ (∀ n ∈ [0, 1], ∃ v, ReadsPass (cmd 0x0031 (enablePl n) tasked) (.slot 0) 0x0031 enableReads [] (checkTaskEnable []) (enablePl n) v)
    ∧ (ReadsPass (cmd 0x0032 submitPl tasked) (.slot 0) 0x0032 submitReads [] (checkTaskSubmit []) submitPl
        (ahead 0x0032 submitPl tasked submitReads [])
      ∧ (taskOf (ahead 0x0032 submitPl tasked submitReads []) (subObj (slice submitPl 0 64))).isSome = true)
    ∧ (∃ w, gathering0.sched.windows.find? (fun w => w.task == 0) = some w)
    ∧ Passes (cmd 0x0033 (pay 8 [(4, 7)]) working) (.slot 0) 0x0033 checkTaskAbort (pay 8 [(4, 7)])
    ∧ ∃ r op, (cmd 0x0033 (pay 8 [(4, 7)]) working).sched.running = [r] ∧ r.task = field (pay 8 [(4, 7)]) 0 2 ∧ r.cls = none ∧ r.abort = none
        ∧ r.subs.any (abortHits (cmd 0x0033 (pay 8 [(4, 7)]) working) (pay 8 [(4, 7)])) = true
        ∧ (cmd 0x0033 (pay 8 [(4, 7)]) working).sched.op = some op := by
  refine ⟨⟨passesCmd ?_, ?_⟩, fun n h => ⟨_, readsPass ?_⟩, ⟨readsPass ?_, ?_⟩, ⟨_, rfl⟩, passesCmd ?_, _, _, rfl, rfl, rfl, rfl, ?_, rfl⟩
  case refine_3 => revert n h; decide +kernel
  all_goals decide +kernel

def atOp (o : Op) (next : Nat) : State := { tasked with
  obj := { tasked.obj with tasks := [(0, some { task0 with count := 2 })] }
  sched := { subs := [sub0 3], running := [running0 next], op := some o, nextId := 4 } }
def undispatched (mem : List Host.Cell) : State := { tasked with
  stack := { mem := mem }, sched := { subs := [sub0 3], running := [running0 0], nextId := 4 } }
def entry0 (n : Nat) : AttEntry := { index := 0, raw := [], length := n, visible := n, shape := some ⟨false, 64, 64, 1, 1, 1, 1⟩ }
def attending (n : Nat) : Op := { op0 3 with att := some ⟨pay 128 [(36, 2)], [entry0 n], 1, 0⟩ }
def splitOp (phase : Nat) : Op := { op0 0 with desc := pay 128 [(0, 1), (120, 128)], plan := ⟨1, 2, []⟩, phase := phase }
def syncing : State := { atOp (op0 4) 0 with tiles := { tile := [(0, { state := .atSync })] } }
def ended0 (code : Nat) : State := { atOp (op0 code) 0 with tiles := { tile := [(0, { state := .halted })] } }

/-- A program has ended with a dirty line of a retraining side stack in tile 0's L1: its write-back is held. -/
def fencedOp : State := { ended0 4 with
  stack := { sides := [(11, { state := 2 })] }
  tiles := { tile := [(0, { state := .halted, l1 := [{ addr := sideBase + 11 * 2 ^ 37, way := 0, data := zeros 128, held := 1, dirty := 1 }] })] } }

/-- What the dispatch of a descriptor asks of a state, as one value. -/
def dispatchB (s : State) (ok : Bool) : Bool := match nextWork { s with waits := false } with
  | some (r, true) => (taskOf s r.task).isSome && s.power.phase == .up && s.sched.op.isNone && !s.thermal.hold && !s.mesh.hold
      && (let k := podRead .module ((taskOf s r.task).elim 0 (·.descs) + 128 * r.next) 128 [] (takeWork r true { s with waits := false })
          let d := slice k.2.data 0 128
          let u := readAhead (if dOp d = 3 then [(dExtBase d, 128)] else []) [] k.1
          !waited s u && (dispatchReason u k.2 [] == 0) == ok && (!ok || (dOp (slice k.2.data 0 128) != 3 && dOp (slice k.2.data 0 128) != 4)))
  | _ => false

theorem test_meets_OperationsRunByPhases :
    dispatchB (undispatched []) true = true ∧ dispatchB (undispatched (stored 0 [9])) false = true
    ∧ (dOp (attending 0).desc = 3 ∧ ∃ a, (attending 0).att = some a ∧ itemsDone a = true ∧ a.level < treeLevels a)
    ∧ (syncing.sched.op = some (op0 4) ∧ syncing.thermal.hold = false ∧ dOp (op0 4).desc = 4 ∧ syncDone syncing (op0 4) = true)
    ∧ (∀ p ∈ [1, 3], dOp (splitOp p).desc = 1 ∧ isSplit (splitOp p) = true ∧ 1 ≤ (splitOp p).phase ∧ (splitOp p).phase ≤ 3)
    ∧ Waits (fun s => (storePartials { splitOp 1 with sums := (computePartials (splitOp 1) s.pace.red [] s).2 } s.pace.red []
        (arrayBarrier (splitOp 1) (computePartials (splitOp 1) s.pace.red [] s).1)).1) (atOp (splitOp 1) 0) = false
    ∧ Waits (fun s => (addPartials (splitOp 2) s.pace.red
        (arrivalOrder s (splitOp 2) (partialAdds (splitOp 2) s.pace.red [])) [] (arrayBarrier (splitOp 2) s)).1) (atOp (splitOp 2) 0) = false
    ∧ ((op0 1).tiles.any (fun x => x.1 == 0) = true ∧ (op0 1).residue.contains 0 = false ∧ 131 < 132 ∧ dOp (op0 1).desc ≠ 0
      ∧ (op0 1).ended = none ∧ (tileOf (atOp (op0 1) 0) 0).wrote = [])
    ∧ (∃ a e h, (attending 16).att = some a ∧ a.entries.find? (fun e => e.index == 0) = some e ∧ e.shape = some h
      ∧ e.poison = false ∧ (workItems a.param e).contains 0 = true ∧ Tab.get 0 e.walked 0 < (chunkPages e 0).2
      ∧ itemBefore a e 0 (itemTile (atOp (attending 16) 0) a e 0) = false
      ∧ Waits (fun s => (walkNext (attending 16) a e h 0 (itemTile (atOp (attending 16) 0) a e 0) [] s).1)
          (atOp (attending 16) 0) = false)
    ∧ (∀ c ∈ [1, 4], opDone (ended0 c) (op0 c) = true ∧ opUnacked (ended0 c) (op0 c) = false
      ∧ waited (ended0 c) (writeResult (op0 c) [] { ended0 c with waits := false }).1 = false
      ∧ opFencing (writeResult (op0 c) [] { ended0 c with waits := false }).1 (op0 c) = false)
    ∧ (opFencing (writeResult (op0 4) [] { fencedOp with waits := false }).1 (op0 4) = true ∧ opDone fencedOp (op0 4) = true
      ∧ opUnacked fencedOp (op0 4) = false ∧ waited fencedOp (writeResult (op0 4) [] { fencedOp with waits := false }).1 = false)
    ∧ (∃ r rest k, (atOp (op0 0) 0).sched.running = r :: rest ∧ dOp (op0 0).desc = 0 ∧ (op0 0).error = none ∧ (op0 0).ended = none ∧ r.entries = []
      ∧ r.abort = none ∧ taskOf (atOp (op0 0) 0) (op0 0).task = some k ∧ r.next + 1 < k.count
      ∧ opUnacked (atOp (op0 0) 0) (op0 0) = false ∧ waited (atOp (op0 0) 0) (flushAllL1 { atOp (op0 0) 0 with waits := false }) = false
      ∧ opFencing (flushAllL1 { atOp (op0 0) 0 with waits := false }) (op0 0) = false) := by
  refine ⟨?_, ?_, ⟨?_, _, rfl, ?_⟩, ?_, ?_, goesOn ?_, goesOn ?_, ?_, ⟨_, _, _, rfl, rfl, rfl, ?_, ?_, ?_, ?_, goesOn ?_⟩, ?ends, ?_,
    ⟨_, _, _, rfl, ?_, rfl, rfl, rfl, rfl, rfl, ?_⟩⟩
  case ends =>
    intro c h
    refine ⟨?_, ?_, ?_, ?_⟩ <;> revert c h <;> decide +kernel
  all_goals decide +kernel

/-! ### Lasts, firmware, sensors and coolant -/

/-- A fold that computes its value at each step. -/
def foldNow (f : Nat → Byte → Nat) : Bytes → Nat → Nat
  | [], a => a
  | b :: bs, 0 => foldNow f bs (f 0 b)
  | b :: bs, n + 1 => foldNow f bs (f (n + 1) b)

theorem foldNow_eq (f : Nat → Byte → Nat) (bs : Bytes) (a : Nat) : bs.foldl f a = foldNow f bs a := by
  induction bs generalizing a with
  | nil => cases a <;> rfl
  | cons b bs ih => cases a <;> exact ih _

/-- An image of one flow and 16 slots for the configuration of `up`: header, an empty flow map, empty slot tables. -/
def lastImage : Bytes := pay 128 [(0, 1), (2, 16), (4, 1), (8, 3114099596614119590), (16, 3712), (20, 998410364)] ++ zeros 3584

def lastPl : Bytes := pay 16 [(0, 1), (8, sideBase)]
/-- The image lies in side stack 0. -/
def shelved : State := { up with stack := { mem := stored sideBase (lastImage.take 128), sides := [(0, { limit := 100 })] } }
def loading : State := cmd 0x0011 lastPl shelved
def lastRead : State := ahead 0x0011 lastPl shelved (lastReads []) []

theorem lastImage_crc : crc32 (lastImage.drop 128) = 998410364 := by
  have h : lastImage.drop 128 = zeros 3584 := by decide +kernel
  rw [h, crc32, foldNow_eq]
  decide +kernel

theorem lastImage_good : badLast lastImage = false := by
  have h (x : Bool) (y z w : Bool) : (x || (crc32 (lastImage.drop 128) != lastCrc lastImage) || y || z || w)
      = (x || (998410364 != lastCrc lastImage) || y || z || w) := by rw [lastImage_crc]
  unfold badLast
  dsimp only
  rw [h]
  decide +kernel

theorem lastRead_facts : fingerprint lastRead = 3114099596614119590 ∧ readLast sideBase [] lastRead = ⟨lastImage, false, 0⟩
    ∧ waited loading lastRead = false ∧ accepted lastRead (.slot 0) 0x0011 = some ⟨.slot 0, 0x0011, 1, false, lastPl, false, 0, false⟩ := by
  decide +kernel

theorem lastImage_passes : ReadsPass loading (.slot 0) 0x0011 (lastReads []) [] (checkLastLoad []) lastPl lastRead := by
  refine ⟨⟨⟨.slot 0, 0x0011, 1, false, lastPl, false, 0, false⟩, by simp [accepted, loading, cmd], rfl⟩, rfl, lastRead_facts.2.2.1,
    ⟨_, lastRead_facts.2.2.2, rfl⟩, ?_⟩
  have h : field lastPl 8 8 = sideBase := by decide +kernel
  unfold checkLastLoad
  dsimp only
  rw [h, lastRead_facts.2.1]
  dsimp only
  rw [lastImage_good, lastRead_facts.1]
  decide +kernel

def firmware (f : Firmware) : State := { up with fw := f }
def chunkPl (place : Nat) : Bytes := pay 21 [(8, place), (12, 128)]

/-- An image whose structure is right, with the numbers of Table 17.3. -/
def shapedImage : Bytes := pay 640 [(0, 0x4D574649), (4, 1), (16, 61440), (20, 8192), (24, 49152)] ++ [0, 1, 0, 1] ++ zeros 60796

theorem test_image_shape : imageShape shapedImage 61440 = true := by decide +kernel

def quotePl : Bytes := pay 72 []
def quoteAway : Bytes := pay 72 [(64, 2 ^ 48)]
/-- Bytes, most significant first, of a number given in parts of 400 bits. -/
def bigBytes (parts : List Nat) : Bytes := (natLE 512 (parts.foldl (fun a x => a * 2 ^ 400 + x) 0)).reverse
/-- An RSA-4096 key of the author's own: its modulus is the product of two primes of 2,048 bits. -/
def testKey : Bytes := bigBytes
  [0xcc6671ad8f9c7708e1627ae6,
   0x3e99fa998f2fd0e9a627133d24e01cd3b031f95b0db5b55219a01adb1d659971863370f4a94a7535809636b83dc39052658a,
   0x30e9050dc1f1b20a3ab5a7cab490a00e8d0803e85d23dc10f8af8584bbeb785d483210bb6b662aeb934aa988e69894286590,
   0x8793d64216d545f2bae9466ead50446f987846017c6fb30e7ec41594214c6f2b9380e2fb27c525d56dff43b3586f28d75fab,
   0xa3c3d97adb7aaf9bbe5ea6d47fbc98a2a23464399682f1c090a9f04f4b2edf1b4d590a45550df2451b485baf1fdb785b2ea8,
   0xaca43f6b465b4a1c54ea559244082398ec8fb4dd02ec4974b0d0ddc7f296260247ac24d185afaeac7a0e0d1a780bbaea03f4,
   0xd4614abca1c93bdc5d6409070d5593831990a73454f1f02271274ef8c67253b55446dcb3a08737ac56ded923daf52f52c05f,
   0x3b6aa8ef1fba9875e0542925bcb7a8a619c7b4e1e64da7961c734936018e54414ca48bc36be505b2da704a223cf67edf9cbe,
   0x500d21ec01c44a63acf59cb80395383d1111f2c42d7bdbe4f325bffaeeaa56d771a31dc35a49aaf47cb31453c2fe56513ae3,
   0xbe187d9450abf3db82d9624407c0434decd45939ede44f5ee0cfb3faed79956b6a6ca3bfdae334ef34977d099c0ef2dbc461,
   0x9babb7b87a8696b506039ef070543af9ee35ff3f2e97848005343c3ed306cc9a261bbba7c601dbcbba92b9268415d749a7cd] ++ [0, 1, 0, 1]
/-- The signature, made with that key outside the model by RFC 8017 (SHA-512, salt 1 to 64), of the token's first 64 bytes. -/
def testSignature : Bytes := bigBytes
  [0xbbc2ef7430b6f7cdd52576f,
   0xd390bf59c75719f8e3680e54ce85b878e1612d4131d3c1e21466d56c95769094042c9ade0c750ba68fa452d5896e239dc9d5,
   0xfa30efcc03233d2dce978c18c0a3db819ba3e928be6be95b48e4e4db69609260c0825daace743da8122bc62f253fe48f20f8,
   0xb266f1108f663667609a37a9be5877db11bdf3fccdb02259b6a225b43b67bb2e32b827c2744a1ffc0137d488b3ad5a6f9198,
   0xe3bf523a46ded28b9e8d0554de6c2cdf9c19f2788dcc73acb0ae52581d625691889bf4f0b4d8f58e3c3953bfeced63807a9c,
   0xf4a8d015e5041fb0f3d86d98264fd84f365af35282f4b63c6837ca6d715f45b9982fd21ab5c1d21418e4da94fb02871faf4a,
   0x1ff10652d0d4c503effe7660e0bf69d68283a183c0ad08a3c43675c637827a556d63a72b6ce78018314e2268c66bfdb1f181,
   0x5f12e19f008a35c04afd5744a0481ee4cfc07f910ebe813a9235b000469cc14a68a7c8dfc01473728d9bd176a6def59c3181,
   0x580b1cb183b930395b7785afa70777389ebd663e32a231a005f4272f803c9ad943af1055610733910318521cdc5d19042307,
   0x567558b7485c4a05ff8052eeebb0bece9a84d1c0f010568f92bc20bd384d084198a433c6f1f013eb8fec4a0cdaced964af72,
   0x6e77e59bbcbb0ec859286f952d137648bc193206e1607f794a539c8ee89b94fe680c6affe66721503089f48354123e66798e]
/-- A service token for the module whose serial number ends in 40 zero bits, in side stack 0. -/
def tokenSerial : Nat := 0x1F6E * 2 ^ 48 + 0x31 * 2 ^ 40
def token : Bytes := pay 64 [(0, 0x4C454447), (4, 1), (8, tokenSerial)] ++ testSignature
def clearPl : Bytes := pay 28 [(0, 1), (16, sideBase), (24, 576)]
def tokened : State := { up with stack := { mem := stored sideBase token, sides := [(0, { limit := 100 })] }, fw := { slotA := .bytes (zeros 128 ++ testKey) } }
def tokenRead : State := ahead 0x00A4 clearPl tokened tokenReads []

theorem tokenRead_facts : waited (cmd 0x00A4 clearPl tokened) tokenRead = false
    ∧ accepted tokenRead (.slot 0) 0x00A4 = some ⟨.slot 0, 0x00A4, 1, false, clearPl, false, 0, false⟩
    ∧ (podRead .module sideBase 576 [] tokenRead).2 = ⟨token, false, 0⟩ ∧ field clearPl 16 8 = sideBase
    ∧ tokenRead.bring.ledger.length = 0 ∧ tokenRead.bring.clearGen = 0 ∧ tokenRead.bring.resetGen = 0
    ∧ imgKey (tokenRead.fw.slot tokenRead.fw.running).data = testKey := by decide +kernel

/-- R455: a signature of RSASSA-PSS made outside the model verifies, and with another last byte it does not. -/
theorem test_signature : signatureOk testKey (slice token 0 64) testSignature = true
    ∧ signatureOk testKey (slice token 0 64) (testSignature.take 511 ++ [0]) = false := by
  decide +kernel

/-- The digest of the root key and the serial number have no value in the model: an image that verifies and the module's own
number are taken as given, and the other hypotheses go with them. -/
theorem test_meets_signed :
    (∀ image, imageFault 0 image image.length = 0 →
      Passes (cmd 0x00A1 [] (firmware { step := 2, staged := image })) (.slot 0) 0x00A1 checkFwVerify []
        ∧ imageFault 0 (firmware { step := 2, staged := image }).fw.staged image.length = 0)
    ∧ (serialNumber = tokenSerial →
      ReadsPass (cmd 0x00A4 clearPl tokened) (.slot 0) 0x00A4 tokenReads [] (checkLedgerClear []) clearPl tokenRead
        ∧ field clearPl 0 1 = 1) := by
  refine ⟨fun image h => ⟨passesCmd ?_, h⟩, fun h => ⟨⟨⟨⟨.slot 0, 0x00A4, 1, false, clearPl, false, 0, false⟩,
    by simp [accepted, cmd], rfl⟩, rfl, tokenRead_facts.1, ⟨_, tokenRead_facts.2.1, rfl⟩, ?_⟩, ?_⟩⟩
  · rfl
  · obtain ⟨-, -, hr, e, hl, hc, hg, hk⟩ := tokenRead_facts
    have ht : slice token 64 512 = testSignature := by decide +kernel
    unfold checkLedgerClear
    dsimp only
    rw [e, hr]
    dsimp only
    unfold tokenFail
    rw [hk, ht, test_signature.1, h, hl, hc, hg]
    decide +kernel
  · decide +kernel

theorem commit_passes : (Passes (cmd 0x00A2 (pay 1 []) (firmware { step := 3 })) (.slot 0) 0x00A2 checkFwCommit (pay 1 [])
      ∧ bitB (field (pay 1 []) 0 1) 0 = false)
    ∧ Passes (cmd 0x00A2 (pay 1 [(0, 1)]) (firmware { step := 3 })) (.slot 0) 0x00A2 checkFwCommit (pay 1 [(0, 1)])
      ∧ bitB (field (pay 1 [(0, 1)]) 0 1) 0 = true := by
  refine ⟨⟨passesCmd ?_, ?_⟩, passesCmd ?_, ?_⟩ <;> decide +kernel

theorem test_meets_LastsAndFirmware :
    (ReadsPass loading (.slot 0) 0x0011 (lastReads []) [] (checkLastLoad []) lastPl lastRead ∧ field lastPl 0 1 = 1
      ∧ field lastPl 8 8 = sideBase ∧ readFail (readLast sideBase [] lastRead) = [])
    ∧ (let s : State := { up with obj := { lasts := [(7, some ⟨0, 16, 1, 0, 0, 3712, false, []⟩)] } }
       Passes (cmd 0x0011 (pay 16 [(0, 2), (2, 7)]) s) (.slot 0) 0x0011 checkLastUnload (pay 16 [(0, 2), (2, 7)])
        ∧ field (pay 16 [(0, 2), (2, 7)]) 0 1 = 2)
    ∧ (Passes (cmd 0x00A0 (pay 21 [(20, 2)]) (firmware { step := 3 })) (.slot 0) 0x00A0 checkFwStage (pay 21 [(20, 2)])
      ∧ stageDiscard (pay 21 [(20, 2)]) = true)
    ∧ (∀ p ∈ [0, 1], stageDiscard (chunkPl p) = false ∧ field (chunkPl p) 8 1 = p)
    ∧ Passes (cmd 0x00A0 (chunkPl 0) up) (.slot 0) 0x00A0 checkFwStage (chunkPl 0)
    ∧ (let r := podRead .module 0 128 [] { { up with fw := up.fw.start } with waits := false }
       waited up r.1 = false ∧ r.2.reason = 0 ∧ r.2.poison = false)
    ∧ Passes (cmd 0x00A0 (chunkPl 1) up) (.slot 0) 0x00A0 checkFwStage (chunkPl 1)
    ∧ (Passes (cmd 0x00A1 [] (firmware { step := 2 })) (.slot 0) 0x00A1 checkFwVerify []
      ∧ imageFault 0 [] 0 ≠ 0)
    ∧ (Passes (cmd 0x00A3 quotePl up) (.slot 0) 0x00A3 checkAttest quotePl ∧ isLocal up (field quotePl 64 8) = true)
    ∧ (∀ s ∈ [received 0 [] true, podded], Passes (cmd 0x00A3 quoteAway s) (.slot 0) 0x00A3 checkAttest quoteAway
      ∧ isLocal s (field quoteAway 64 8) = false)
    ∧ (routePorts (received 0 [] true) (podDevice (field quoteAway 64 8)) = []
      ∧ routePorts podded (podDevice (field quoteAway 64 8)) ≠ [])
    ∧ Passes (cmd 0x00A4 (pay 28 []) up) (.slot 0) 0x00A4 checkLedgerRead (pay 28 []) ∧ ∀ f ∈ [up.fw, { step := 2 }, { step := 3 }], f.ending = 0 := by
  refine ⟨⟨lastImage_passes, ?_, ?_, by rw [lastRead_facts.2.1]; rfl⟩, ⟨passesCmd ?_, ?_⟩, ⟨passesCmd ?_, ?_⟩, ?_, passesCmd ?_, ?_, passesCmd ?_, ⟨passesCmd ?_, ?_⟩,
    ⟨passesCmd ?_, ?_⟩, ?away, ?_, passesCmd ?_, ?_⟩
  case away =>
    intro s h
    refine ⟨passesCmd ?_, ?_⟩ <;> revert s h <;> decide +kernel
  all_goals decide +kernel

def hotAt (n : Nat) (v : Int) : State := { up with thermal := { temp := [(n, v)] } }
def limited (t : Thermal) : State := { up with thermal := t }

theorem test_meets_SensorsAndThermalGovernor :
    up.power.coreRails = true ∧ up.power.standby = true ∧ (∀ g ∈ List.range 52, judgeGroup ([].foldl takeReading up) g < shutdownAt g)
    ∧ (let s := limited { reading := [(62, 6001)] }
       Tab.get false s.thermal.flagged 31 = false ∧ Tab.get 0 s.thermal.reading 62 = 6001 ∧ Tab.get 0 s.thermal.reading 63 = 0
        ∧ (0 : Int) + 6000 < 6001)
    ∧ (∀ m ∈ [1, 8], Tab.get false up.thermal.suspect (m - 1) = false ∧ groupTemp up (31 + m) + 8000 < 60000
      ∧ neighboursAgree up (m - 1) = true)
    ∧ (groupIndex (.side 11) = some 51
      ∧ Tab.get false (limited { warn := [(51, true)] }).thermal.warn 51 = true
      ∧ groupTemp (limited { warn := [(51, true)], temp := [(51, warnAt 51 - 5000)] }) 51 ≤ warnAt 51 - 5000
      ∧ Tab.get false (limited { throttle := [(51, true)] }).thermal.throttle 51 = true
      ∧ heldOf (limited { throttle := [(51, true)] }) 51 = {}
      ∧ groupTemp (limited { throttle := [(51, true)] }) 51 ≤ throttleAt 51 - 5000)
    ∧ (up.thermal.hold = false ∧ ∀ g ∈ List.range 52, aheadOf ([].foldl takePrediction up) g < shutdownAt g - 3000)
    ∧ (let u := [⟨.hot 31, shutdownAt 31 - 3000, 0, 0, 0⟩].foldl takePrediction up
       shutdownAt 31 - 3000 ≤ aheadOf u 31)
    ∧ (let u := [⟨.hot 0, throttleAt 0 + 1, 0, 0, 0⟩].foldl takePrediction up
       throttleAt 0 < aheadOf u 0 ∧ (heldOf up 0).rail < railRoom up 0)
    ∧ (let s : State := { up with thermal := { hold := true }, coolant := { loss := true } }
       s.thermal.hold = true ∧ s.coolant.loss = true)
    ∧ Passes (cmd 0x00C0 (pay 8 [(0, 94), (1, 84), (4, 60000)]) up) (.slot 0) 0x00C0 checkThermalCfg (pay 8 [(0, 94), (1, 84), (4, 60000)])
    ∧ (limited { reportMs := 10 }).thermal.reportMs ≠ 0 := by
  refine ⟨?_, ?_, ?_, ?_, ?_, ?_, ?_, ?_, ?_, ?_, passesCmd ?_, ?_⟩ <;> decide +kernel

def cooled (c : Coolant) : State := { up with coolant := c }

theorem test_meets_CoolantLoop :
    up.power.standby = true ∧ failedSensor up 242 = false
    ∧ failedSensor { up with thermal := { failed := [(242, true)] } } 242 = true
    ∧ (coolantRuns (cooled {}) = true ∧ (cooled {}).coolant.tachLog = false ∧ 30 ≤ (cooled {}).coolant.pump)
    ∧ (coolantWarn (cooled { flow := 2999 }) = false ∧ (cooled { flow := 2999 }).coolant.flow < 3000)
    ∧ ((cooled { flow := 399 }).coolant.loss = false ∧ (cooled { flow := 399 }).coolant.flow < 400)
    ∧ (let s := cooled { warning := true, flow := 3200, inlet := 38000 }
       s.coolant.warning = true ∧ s.coolant.sticky = false ∧ 3200 ≤ s.coolant.flow ∧ s.coolant.inlet ≤ 38000)
    ∧ (let s := cooled { loss := true, flow := 2500 }
       s.coolant.loss = true ∧ 2500 ≤ s.coolant.flow)
    ∧ Passes (cmd 0x00C1 (pay 3 [(0, 100), (1, 1), (2, 90)]) up) (.slot 0) 0x00C1 checkCoolantCfg (pay 3 [(0, 100), (1, 1), (2, 90)]) := by
  refine ⟨?_, ?_, ?_, ?_, ?_, ?_, ?_, ?_, passesCmd ?_⟩ <;> decide +kernel

/-! ### Tile and awl programs -/

/-- An instruction word of a major opcode, destination, sources and immediate. -/
def word (major rd rs1 imm : Nat) : Nat := major * 2 ^ 26 + rd * 2 ^ 21 + rs1 * 2 ^ 16 + imm

/-- Tile 0 runs a program whose first word is given. -/
def onTile (w : Nat) (k : Tile := {}) : State := { atOp (op0 4) 0 with
  tiles := { tile := [(0, { k with state := .running })], prog := natLE 4 w } }

theorem tileTurn {s : State} {t lo hi w : Nat} (h : (tileRuns s t && tileWord s t == w && decide (lo ≤ opMajor w)
    && decide (opMajor w ≤ hi)) = true) : TileTurn s t lo hi w := by
  simp only [Bool.and_eq_true, beq_iff_eq, decide_eq_true_eq] at h
  exact ⟨h.1.1.1, h.1.1.2, h.1.2, h.2⟩

def heldLine (poison : Nat) : L1Line := { addr := 0, way := 0, data := zeros 128, held := 2 ^ 128 - 1, dirty := 0, poison := poison }
/-- Tile 0 at a FENCE, with a dirty line of side stack 11 in its L1; the side stack in a state of Table 7.4. -/
def fencer (side : Nat) : State := { onTile (word 0x1F 1 2 0) { l1 := [⟨sideBase + 11 * 2 ^ 37, 0, zeros 128, 1, 1, 0⟩] } with
  stack := { sides := [(11, { state := side, limit := 100 })] } }
/-- The same with a line at an address that no memory holds. -/
def refusedFence : State := onTile (word 0x1F 1 2 0) { l1 := [⟨2 ^ 40 - 128, 0, zeros 128, 1, 1, 0⟩] }
def high : Tile := { x := [(2, 2 ^ 21 - 7)] }

theorem test_meets_TilePrograms :
    TileTurn (onTile (word 0x07 1 2 3)) 0 0x00 0x07 (word 0x07 1 2 3)
    ∧ (TileTurn (onTile (word 0x0B 1 2 3)) 0 0x08 0x0B (word 0x0B 1 2 3) ∧ ctlExists (.branch .eq false 5) = true)
    ∧ (TileTurn (onTile (word 0x0C 1 0 3)) 0 0x0C 0x0F (word 0x0C 1 0 3)
      ∧ tileAddr (onTile (word 0x0C 1 0 3)) 0 (word 0x0C 1 0 3) + 64 / 8 ≤ 2 ^ 21)
    ∧ (TileTurn (onTile (word 0x0F 1 2 0) high) 0 0x0C 0x0F (word 0x0F 1 2 0)
      ∧ 2 ^ 21 < tileAddr (onTile (word 0x0F 1 2 0) high) 0 (word 0x0F 1 2 0) + 64 / 8)
    ∧ (TileTurn (onTile (word 0x10 1 2 0)) 0 0x10 0x17 (word 0x10 1 2 0) ∧ vecOpExists .fma .fp32 = true ∧ tileVecOp .fma = true
      ∧ laneFormat fmtInt32 = true ∧ regX (tileOf (onTile (word 0x10 1 2 0)) 0).x 2 + 128 ≤ 2 ^ 21
      ∧ (∃ fm, fmtOf 0xA = some fm) ∧ isMx 0xA = true)
    ∧ (TileTurn (onTile (word 0x18 1 2 0)) 0 0x18 0x1B (word 0x18 1 2 0)
      ∧ ∀ a ∈ lbLanes (tileOf (onTile (word 0x18 1 2 0)) 0) (word 0x18 1 2 0) (.strided 139809), a + 4 ≤ 2 ^ 21)
    ∧ (∀ poison ∈ [0, 8], let s := onTile (word 0x1C 1 2 0) { l1 := [heldLine poison] }
       let k := tileOf s 0
       TileTurn s 0 0x1C 0x1F (word 0x1C 1 2 0) ∧ 0 < 128 ∧ regX k.x 1 + 128 ≤ 2 ^ 21 ∧ regX k.x 2 % 2 ^ 54 % 128 + 128 ≤ 128
        ∧ l1Find k (regX k.x 2 % 2 ^ 54 / 128 * 128) = some (heldLine poison)
        ∧ ((heldLine poison).poison &&& byteSectors (byteMask (regX k.x 2 % 2 ^ 54 % 128) 128) = 0 ↔ poison = 0)
        ∧ byteMask (regX k.x 2 % 2 ^ 54 % 128) 128 &&& (heldLine poison).held = byteMask (regX k.x 2 % 2 ^ 54 % 128) 128
        ∧ (∀ x ∈ k.l1, l1Set x.addr = l1Set (heldLine poison).addr → x.way = (heldLine poison).way → x.addr = (heldLine poison).addr)
        ∧ (∀ l ∈ k.l1, l.dirty = 0) ∧ unacked s 0 = false
        ∧ ∀ st, Waits (fun s => (moveLines 0 st (regX k.x 2 % 2 ^ 54) (regX k.x 1) 128 [] (tally 1 0 11 1 s)).1) s = false)
    ∧ (∀ x ∈ [(0, false), (2, true)], let s := fencer x.1
       let r := fenceTile 0 (some []) { s with waits := false }
       waited s r.1 = false ∧ r.2 = false ∧ fencing r.1 0 = x.2)
    ∧ (let s := refusedFence
       let r := fenceTile 0 (some []) { s with waits := false }
       waited s r.1 = false ∧ r.2 = true)
    ∧ (∀ c ∈ [5, 0xE], let s := onTile (word 0x1F 1 2 0) { x := [(2, if c = 5 then 0 else 2 ^ 40 - 128)] }
       let q := homeAdd (.tile 0) (podOffset (regX (tileOf s 0).x 2 % 2 ^ 54 / 128 * 128)) 5 0 (zeros 128)
          (tally 1 0 6 1 (noteWrote 0 (regX (tileOf s 0).x 2 % 2 ^ 54 / 128 * 128) (addSectors 5 0)
            (tally 1 0 8 1 (tally 1 0 11 1 { s with waits := false }))))
       (addWidth 5).isSome = true ∧ tileBad s 0 = false ∧ l1Find (tileOf s 0) (regX (tileOf s 0).x 2 % 2 ^ 54 / 128 * 128) = none
        ∧ isLocal s (regX (tileOf s 0).x 2 % 2 ^ 54 / 128 * 128) = true ∧ waited s q.1 = false ∧ (q.2 = .ok ↔ c = 5))
    ∧ TileTurn (onTile (word 0x20 0 0 0)) 0 0x20 0x20 (word 0x20 0 0 0)
    ∧ (TileTurn (onTile (word 0x21 1 0 0)) 0 0x21 0x21 (word 0x21 1 0 0) ∧ ∃ v, ([0, 1, 2, 3] : List Nat)[3]? = some v)
    ∧ TileTurn (onTile (word 0x3F 0 0 0)) 0 0x3F 0x3F (word 0x3F 0 0 0)
    ∧ ∀ m ∈ [0x22, 0x3E], tileRuns (onTile (word m 0 0 0)) 0 = true ∧ reservedMajor (opMajor (tileWord (onTile (word m 0 0 0)) 0)) = true := by
  refine ⟨tileTurn ?_, ⟨tileTurn ?_, ?_⟩, ⟨tileTurn ?_, ?_⟩, ⟨tileTurn ?_, ?_⟩, ⟨tileTurn ?_, ?_, ?_, ?_, ?_, ⟨_, rfl⟩, ?_⟩, ⟨tileTurn ?_, ?_⟩,
    ?moves, ?_, ?_, ?_, tileTurn ?_, ⟨tileTurn ?_, _, rfl⟩, tileTurn ?_, ?_⟩
  case moves =>
    intro poison hp
    refine ⟨tileTurn ?_, ?_, ?_, ?_, ?_, ?_, ?_, ?_, ?_, ?_, fun st => goesOn ?_⟩
    case refine_11 => revert st poison; decide +kernel
    all_goals revert poison; decide +kernel
  all_goals decide +kernel

/-- Awls 0 and 1 of tier M1 run a program whose first word is given; awl 0 is as given. -/
def onAwl (w : Nat) (k : Awl := {}) (other : Awl := {}) (left : Nat := 1000) : State := { up with
  obj := { lends := [(0, some ⟨0, 2 ^ 23, true, true, .slot 0⟩)] }
  awls := { awl := [(0, { k with state := .running }), (1, other)]
            cur := some ⟨8, pay 128 [(1, 2), (4, 8)], natLE 4 w ++ zeros 4, [], [0, 1], left, false⟩ } }

theorem awlTurn {s : State} {a lo hi w : Nat} {xs vs : List Nat} (h : (awlRuns s a && awlWord s a == some w && decide (lo ≤ opMajor w)
    && decide (opMajor w ≤ hi) && !xs.any (pendingX (awlOf s a)) && !vs.any (pendingV (awlOf s a))) = true)
    (hl : Config.reservedFunction w = false) :
    AwlTurn s a lo hi xs vs w := by
  simp only [Bool.and_eq_true, beq_iff_eq, decide_eq_true_eq, Bool.not_eq_true'] at h
  exact ⟨h.1.1.1.1.1, h.1.1.1.1.2, ⟨h.1.1.1.2, h.1.1.2⟩, hl, h.1.2, h.2⟩

/-- Which function codes are reserved has no value in the model: the words of these tests are taken as not reserved, or as reserved. -/
theorem test_meets_AwlInstructions (legal : ∀ w, Config.reservedFunction w = false) :
    AwlTurn (onAwl (word 7 1 2 3)) 0 0x00 0x07 [2, 1, 0] [] (word 7 1 2 3)
    ∧ (AwlTurn (onAwl (word 0xB 1 2 0)) 0 0x08 0x0B [2, 0] [] (word 0xB 1 2 0)
      ∧ (let n := control 32 (.jump 1) 0 0 0 []; 4 * n.1 + 4 ≤ (runProg (onAwl (word 0xB 1 2 0))).length)
      ∧ let n := control 32 (.jump 2) 0 0 0 []; (runProg (onAwl (word 0xB 1 2 0))).length < 4 * n.1 + 4)
    ∧ (AwlTurn (onAwl (word 0xC 1 0 3)) 0 0x0C 0x0D [0, 1] [] (word 0xC 1 0 3)
      ∧ scratchAddr (onAwl (word 0xC 1 0 3)) 0 (word 0xC 1 0 3) + 32 / 8 ≤ 0x10000
      ∧ 0x10000 < scratchAddr (onAwl (word 0xD 1 2 0) { x := [(2, 0xFFFD)] }) 0 (word 0xD 1 2 0) + 32 / 8)
    ∧ (AwlTurn (onAwl (word 0xF 7 0 64)) 0 0x0E 0x0F [0] [7] (word 0xF 7 0 64) ∧ opRd (word 0xF 7 0 64) < 8
      ∧ scratchAddr (onAwl (word 0xF 7 0 64)) 0 (word 0xF 7 0 64) + 64 ≤ 0x10000
      ∧ scratchAddr (onAwl (word 0xF 7 0 64)) 0 (word 0xF 7 0 64) % 64 = 0)
    ∧ (AwlTurn (onAwl (word 0x17 7 6 0)) 0 0x10 0x17 (vecFields .reduce (word 0x17 7 6 0)).1 (vecFields .reduce (word 0x17 7 6 0)).2 (word 0x17 7 6 0)
      ∧ legalV (vecFields .reduce (word 0x17 7 6 0)).2 = true)
    ∧ (AwlTurn (onAwl (word 0x18 7 6 0)) 0 0x18 0x19 [] [7, 6] (word 0x18 7 6 0) ∧ awlFormat fmtInt8 = true)
    ∧ (AwlTurn (onAwl (word 0x1E 1 0 0)) 0 0x1E 0x1E [1] [] (word 0x1E 1 0 0) ∧ (awlOf (onAwl (word 0x1E 1 0 0)) 0).loads = [])
    ∧ AwlTurn (onAwl (word 0x3F 0 0 0)) 0 0x3F 0x3F [] [] (word 0x3F 0 0 0)
    ∧ (∀ m ∈ [0, 0x1F, 0x3E], awlRuns (onAwl (word m 0 0 0)) 0 = true ∧ awlWord (onAwl (word m 0 0 0)) 0 = some (word m 0 0 0)
      ∧ opMajor (word m 0 0 0) = m)
    ∧ awlRuns (onAwl 0 { pc := 2 }) 0 = true ∧ awlWord (onAwl 0 { pc := 2 }) 0 = none := by
  refine ⟨awlTurn ?_ (legal _), ⟨awlTurn ?_ (legal _), ?_, ?_⟩, ⟨awlTurn ?_ (legal _), ?_, ?_⟩, ⟨awlTurn ?_ (legal _), ?_, ?_, ?_⟩, ⟨awlTurn ?_ (legal _), ?_⟩, ⟨awlTurn ?_ (legal _), ?_⟩,
    ⟨awlTurn ?_ (legal _), ?_⟩, awlTurn ?_ (legal _), ?_, ?_, ?_⟩ <;> decide +kernel

def onBus0 : State := let s := onAwl (word 0x1D 7 0 0) { wait := .send } { state := .running, resv := 1 }
  { s with awls := { s.awls with bus := [⟨0, 0, some 1, 5⟩] } }

theorem test_meets_AwlLinesBusAndRunEnd (legal : ∀ w, Config.reservedFunction w = false) :
    (AwlTurn (onAwl (word 0x1A 6 0 31)) 0 0x1A 0x1A [0] [6, 7] (word 0x1A 6 0 31) ∧ opRd (word 0x1A 6 0 31) < 8
      ∧ opRd (word 0x1A 6 0 31) % 2 = 0 ∧ (awlOf (onAwl (word 0x1A 6 0 31)) 0).loads.length < 4
      ∧ inShare (onAwl (word 0x1A 6 0 31)) 0 (lineIndex (onAwl (word 0x1A 6 0 31)) 0 (word 0x1A 6 0 31) (opImm (word 0x1A 6 0 31))) = true
      ∧ wordOff (word 0x1A 6 0 31) = some 124)
    ∧ (∃ l rest, (awlOf (onAwl 0 { loads := [⟨0, false, 6, 31, 0⟩] }) 0).loads = l :: rest
      ∧ awlRowWaits (onAwl 0 { loads := [⟨0, false, 6, 31, 0⟩] }) 0 l.idx = false
      ∧ (awlRead 0 l.idx 15 [] [] (onAwl 0 { loads := [⟨0, false, 6, 31, 0⟩] })).2.poison = 0
      ∧ (awlRead 0 l.idx 15 [⟨0, 0, 1⟩, ⟨0, 1, 1⟩, ⟨0, 2, 3⟩] [] (onAwl 0 { loads := [⟨0, false, 6, 31, 0⟩] })).2.poison ≠ 0)
    ∧ (AwlTurn (onAwl (word 0x1B 6 0 31)) 0 0x1B 0x1B [0] [6, 7] (word 0x1B 6 0 31)
      ∧ (awlOf (onAwl (word 0x1B 6 0 31)) 0).loads.any (fun l => l.idx == 31) = false)
    ∧ awlRowWaits (onAwl (word 0x1B 6 0 31)) 0 (lineIndex (onAwl (word 0x1B 6 0 31)) 0 (word 0x1B 6 0 31) 31) = false
    ∧ (∀ a, CleanLine (onAwl (word 0x1B 6 0 31)) a)
    ∧ AwlTurn (onAwl (word 0x1C 1 2 0)) 0 0x1C 0x1C [2, 1] [] (word 0x1C 1 2 0)
    ∧ (let s := onAwl (word 0x1D 7 2 0) { x := [(2, 1)] } { state := .running }
       awlRuns s 0 = true ∧ onBus s 0 = false ∧ (awlOf s 0).loads = [] ∧ awlWord s 0 = some (word 0x1D 7 2 0)
        ∧ opMajor (word 0x1D 7 2 0) = 0x1D ∧ awlOfRank s (regX (awlOf s 0).x 2) = some 1 ∧ awlEnded s 1 = false ∧ hasSlot s 1 = true
        ∧ ∀ b ∈ tierMates s 0, hasSlot s b = true)
    ∧ awlOfRank (onAwl (word 0x1D 7 2 0) { x := [(2, 2)] }) 2 = none
    ∧ (∃ b, busPick onBus0 1 = some b ∧ b.dst = some 1 ∧ awlEnded onBus0 1 = false)
    ∧ (∃ r p rest, (awlOf (onAwl (word 0x1D 0 7 0) { rxq := [(1, 5)] }) 0).rxq = (r, p) :: rest)
    ∧ (let s := onAwl (word 0x1D 0 0 0) {} { state := .halted }
       awlRuns s 0 = true ∧ (∀ b ∈ runAwls s, b ≠ 0 → atBarrier s b = true))
    ∧ (let s := onAwl (word 0x1D 0 0 0) { wait := .bar } { state := .running, wait := .bar }
       (runAwls s).all (atBarrier s) = true ∧ (runAwls s).Nodup ∧ 0 ∈ runAwls s ∧ (awlOf s 0).state = .running ∧ (awlOf s 0).wait = .bar)
    ∧ (let s := { onAwl 0 with awls := { (onAwl 0).awls with awl := [] } }
       ∃ r, s.awls.cur = some r ∧ r.awls.all (awlEnded s) = true ∧ Waits (fun s => (writeResults r [] s).1) s = false)
    ∧ (let s := onAwl 0 {} {} 0
       (runAwls s).any (fun b => !awlEnded s b) = true ∧ budgetSpent s = true) := by
  refine ⟨⟨awlTurn ?_ (legal _), ?_, ?_, ?_, ?_, ?_⟩, ⟨_, _, rfl, ?_, ?_, ?_⟩, ⟨awlTurn ?_ (legal _), ?_⟩, ?_, fun a i _ => rfl, awlTurn ?_ (legal _), ?_, ?_, ⟨_, rfl, ?_, ?_⟩,
    ⟨_, _, _, rfl⟩, ?_, ?_, ⟨_, rfl, ?_, goesOn ?_⟩, ?_⟩ <;> decide +kernel

/-- A run that may start: its block lies in memory, its program and argument block at 0. -/
def startable : State := { up with
  obj := { lends := [(0, some ⟨0, 2 ^ 23, true, true, .slot 0⟩)], compls := [(0, some area0)] }
  awls := { queue := [⟨8, pay 128 [(1, 2), (4, 4), (8, 2 ^ 24), (16, 2 ^ 24), (24, 2 ^ 25), (32, 1)]⟩] }
  stack := { shanks := [(0, { valid := true })] }
  sched := { subs := [{ id := 8, kind := 3, obj := 0, compl := 0, tag := 1, arg := 0, addr := 0, rows := [], area := none }] } }

theorem test_meets_AwlsAtEntry : ∃ q rest u, startable.awls.queue = q :: rest ∧ subOf startable q.sub = some u ∧ startable.awls.cur = none
    ∧ awlsPaused startable = false ∧ ready startable = true ∧ mayStart startable u = true ∧ awlsOf startable q.block ≠ []
    ∧ (let p := podRead .module (field q.block 8 8) (field q.block 4 2) [] (startSub q.sub { startable with waits := false, awls := { startable.awls with queue := rest } })
       let g := podRead .module (field q.block 16 8) (field q.block 6 2) [] p.1
       p.2.reason = 0 ∧ p.2.poison = false ∧ g.2.reason = 0 ∧ g.2.poison = false ∧ waited startable g.1 = false) := by
  refine ⟨_, _, _, rfl, rfl, rfl, ?_, ?_, ?_, ?_, ?_⟩ <;> decide +kernel

/-! ### Rules over every command -/

theorem test_meets_AbsoluteMaximumInputFaults : 72000 < 72001 ∧ 72000 ≤ 72000 := by decide

theorem test_meets_SingleSymbolErrorsAreCorrected : 35 < 36 ∧ (255 : Byte) ≠ 0 := by decide

theorem test_meets_StepRunsTheFrontCommand : (State.reset.pending = [] ∧ State.reset.power.timebaseOn = false)
    ∧ up.pending = [] ∧ up.power.timebaseOn = true ∧ up.sched.op = none ∧ up.pcie.bar2Held = [] := ⟨⟨rfl, rfl⟩, rfl, rfl, rfl, rfl⟩

theorem test_meets_MemoryStaysCanonical : MemoryCanonical { up with stack := { mem := [(5, 1), (6, 2)], mark := [(0, { dead := 7 })] } } := by
  constructor <;> decide

theorem test_meets_AddressFields : 63 < 64 ∧ 2 ^ 48 - 1 < 2 ^ 48 ∧ podDevice (63 * 2 ^ 48 + (2 ^ 48 - 1)) = 63
    ∧ podOffset (63 * 2 ^ 48 + (2 ^ 48 - 1)) = 2 ^ 48 - 1 := by decide +kernel

theorem test_meets_LastsSurviveLikeModels : hostHeard up = true ∧ linkHears up = true ∧ linkHears (inPhase (.bringup 2)) = true
    ∧ powered.power.startWait = true ∧ powered.power.phase = .off ∧ powered.power.standby = true ∧ powered.power.seatClosed = true
    ∧ 49000 ≤ powered.power.vin ∧ up.power.perstHigh = true ∧ up.power.phase = .up
    ∧ (∃ a, accepted (cmd 0x00D0 (pay 4 [(0, 0x53544B52)]) up) (.slot 0) 0x00D0 = some a ∧ field a.payload 0 4 = 0x53544B52) := by
  refine ⟨?_, ?_, ?_, ?_, ?_, ?_, ?_, ?_, ?_, ?_, _, rfl, ?_⟩ <;> decide +kernel

end Sys2Proof.Tests
end

section
/-! SUPPORT. The two fields of a pod global address (R12): the device number in bits 53 to 48, the device address in
bits 47 to 0, and how an address is put together from them. -/

namespace Sys2Proof

/-- A field that ends at bit `hi` and begins at bit `lo` holds a number of `hi + 1 - lo` bits. -/
theorem bits_lt (v hi lo : Nat) : bits v hi lo < 2 ^ (hi + 1 - lo) :=
  Nat.mod_lt _ (Nat.two_pow_pos _)

end Sys2Proof

namespace Sys2Proof.Machine

theorem podDevice_lt (a : Nat) : podDevice a < 64 := bits_lt a 53 48

theorem podOffset_lt (a : Nat) : podOffset a < 2 ^ 48 := bits_lt a 47 0

theorem podDevice_eq_div {a : Nat} (ha : a < 2 ^ 54) : podDevice a = a / 2 ^ 48 :=
  Nat.mod_eq_of_lt (Nat.div_lt_of_lt_mul ha)

theorem podOffset_eq_mod (a : Nat) : podOffset a = a % 2 ^ 48 := by
  simp only [podOffset, bits, Nat.pow_zero, Nat.div_one, Nat.sub_zero]

/-- A device number and a device address fill the 54 bits of a pod global address and no more. -/
theorem podAddress_lt {d x : Nat} (hd : d < 64) (hx : x < 2 ^ 48) : d * 2 ^ 48 + x < 2 ^ 54 := by
  omega

theorem podDevice_podAddress {d x : Nat} (hd : d < 64) (hx : x < 2 ^ 48) : podDevice (d * 2 ^ 48 + x) = d := by
  rw [podDevice_eq_div (podAddress_lt hd hx)]
  omega

theorem podOffset_podAddress (d : Nat) {x : Nat} (hx : x < 2 ^ 48) : podOffset (d * 2 ^ 48 + x) = x := by
  rw [podOffset_eq_mod, Nat.mul_add_mod_self_right, Nat.mod_eq_of_lt hx]

/-- Nothing of a pod global address is lost in its two fields. -/
theorem podAddress_podDevice_podOffset {a : Nat} (ha : a < 2 ^ 54) : podDevice a * 2 ^ 48 + podOffset a = a := by
  rw [podDevice_eq_div ha, podOffset_eq_mod, Nat.div_add_mod']

/-- Settles O59: reading a field undoes putting the address together (division by the weight of bit 48, with
remainder), and putting the two fields together undoes reading them. -/
theorem addressFields : Obligations.AddressFields := by
  unfold Obligations.AddressFields
  constructor
  · intro d x hd hx
    exact ⟨podAddress_lt hd hx, podDevice_podAddress hd hx, podOffset_podAddress d hx⟩
  · intro a ha
    exact ⟨podDevice_lt a, podOffset_lt a, podAddress_podDevice_podOffset ha⟩

end Sys2Proof.Machine
end

section
/-! SUPPORT. The commands of the power input (R28, R32, R35 to R37, R451, R452), said once: where each is enabled and
within the ratings of Table 1.5, what it then answers, and what the operations that it calls leave of the state. -/

namespace Sys2Proof.Machine

/-! ### The ratings of Table 1.5 -/

theorem faults_of_overRating {vin : Nat} (h : 72000 < vin) (o : Host.Outcome State Fault Refusal) :
    (if overRating vin then .fault .beyondAbsoluteMaximum else o) = .fault .beyondAbsoluteMaximum :=
  if_pos (decide_eq_true h)

theorem goes_on_within_rating {vin : Nat} (h : vin ≤ 72000) (o : Host.Outcome State Fault Refusal) :
    (if overRating vin then .fault .beyondAbsoluteMaximum else o) = o :=
  if_neg (by simpa [overRating] using h)

/-- A command that is either not enabled or carried out completes. -/
theorem completes_idle_or_next (c : Prop) [Decidable c] (s u : State) : ∃ t, (if c then idle s else .next u) = .next t := by
  by_cases h : c
  · exact ⟨s, if_pos h⟩
  · exact ⟨u, if_neg h⟩

/-! ### The input rises, and the start wait -/

theorem waits_eq_true {vin : Nat} {p : Power} (hoff : p.phase = .off) (hrail : p.standby = true) (hseat : p.seatClosed = true)
    (hvin : 49000 ≤ vin) : waits vin p = true := by
  simp [waits, hoff, hrail, hseat, hvin]

theorem waits_of_phase_ne_off {vin : Nat} {p : Power} (h : p.phase ≠ .off) : waits vin p = false := by
  simp [waits, h]

theorem mayPowerUp_of_off {p : Power} (h : p.phase = .off) : mayPowerUp p = true := by simp [mayPowerUp, h]

/-- The rail was lost with the shutdown latch kept (log 150). -/
theorem mayPowerUp_of_latched {p : Power} (h : p.phase = .latched) (hrail : p.standby = false) : mayPowerUp p = true := by
  simp [mayPowerUp, h, hrail]

theorem exec_powerApplication {vin : Nat} {s : State} (hlow : 20000 ≤ vin) (hhigh : vin ≤ 72000)
    (hmay : mayPowerUp s.power = true) (hseat : s.power.seatClosed = true) :
    exec (.powerApplication vin) s
      = .next { s with power := { s.power with vin := vin, startWait := waits vin s.power } } :=
  (goes_on_within_rating hhigh _).trans (if_neg (by simp [hmay, hseat, hlow]))

theorem exec_standbyRailRegulation {straps : Nat} {s : State} (hrail : s.power.standby = false) (hvin : 20000 ≤ s.power.vin)
    (hseat : s.power.seatClosed = true) :
    exec (.standbyRailRegulation straps) s = .next { s with power := { s.power with
      standby := true, smbAddr := 0x58 + straps % 4, perstHigh := s.power.perstN
      startWait := s.power.phase == .off && decide (49000 ≤ s.power.vin) } } := by
  refine (if_neg (by simp [hrail, hseat, hvin])).trans ?_
  simp [waits, hseat]

theorem exec_startWaitRestart {vin : Nat} {seatOpen : Bool} {s : State} (hhigh : vin ≤ 72000) (hoff : s.power.phase = .off)
    (hrail : s.power.standby = true) :
    exec (.startWaitRestart vin seatOpen) s = .next { s with power := { s.power with
      vin := vin, seatClosed := !seatOpen, startWait := !seatOpen && decide (49000 ≤ vin) } } := by
  refine (goes_on_within_rating hhigh _).trans ((if_neg (by simp [hoff, hrail])).trans ?_)
  simp [waits, hoff, hrail]

theorem exec_startWaitExpiry {s : State} (hwait : s.power.startWait = true) (h : waits s.power.vin s.power = true) :
    exec .startWaitExpiry s = .next (beginBringup 0 s) :=
  if_pos (by simp [hwait, h])

/-! ### What is lost with the core rails -/

/-- Of the power record only the pins count. -/
theorem RailsLost.of_power_before {s t : State} {p : Power} (h : RailsLost { s with power := p } t)
    (hp : p.perstN = s.power.perstN ∧ p.smbAddr = s.power.smbAddr) : RailsLost s t :=
  ⟨h.stack, h.cache, h.obj, h.sched, h.tiles, h.awls, h.mail, h.ledger, h.hints, h.ring, h.stored,
    h.pins.1.trans hp.1, h.pins.2.trans hp.2⟩

theorem RailsLost.power_after {s t : State} (h : RailsLost s t) {p : Power}
    (hp : p.perstN = s.power.perstN ∧ p.smbAddr = s.power.smbAddr) : RailsLost s { t with power := p } :=
  ⟨h.stack, h.cache, h.obj, h.sched, h.tiles, h.awls, h.mail, h.ledger, h.hints, h.ring, h.stored, hp⟩

theorem Latched.of_power_before {cause unit : Nat} {s t : State} {p : Power} (h : Latched cause unit { s with power := p } t)
    (hp : p.perstN = s.power.perstN ∧ p.smbAddr = s.power.smbAddr) (hrail : p.standby = s.power.standby) :
    Latched cause unit s t :=
  ⟨h.lost.of_power_before hp, h.phase, h.trip, h.rails, h.standby.trans hrail, h.first, h.record, h.alert, h.sensors, h.gen⟩

theorem RailsLost.coldStandby_after {s t : State} (h : RailsLost s t) : RailsLost s (coldStandby t) :=
  ⟨h.stack, h.cache, h.obj, h.sched, h.tiles, h.awls, h.mail, h.ledger, h.hints, h.ring, h.stored, h.pins⟩

theorem railsLost_railsOff (s : State) : RailsLost s (railsOff s) :=
  ((railsLost_cleared s).power_after (p := { (cleared s).power with phase := .off }) ⟨rfl, rfl⟩).of_reports (Reports.of_ev _ _)

theorem railsLost_seatDown (s : State) : RailsLost s (seatDown s) := (railsLost_railsOff s).power_after ⟨rfl, rfl⟩

/-! ### The shutdown causes of the input -/

theorem exec_inputUndervoltage {vin : Nat} {same : Bool} {s : State} (hvin : vin < 47000) (hrail : s.power.standby = true)
    (h : s.power.coreRails = true ∨ s.power.phase = .latched) :
    exec (.inputUndervoltage vin same) s = .next (latch 3 0 0 same (setVin vin s)) :=
  if_neg (by rcases h with h | h <;> simp [hvin, hrail, h])

theorem exec_inputOvervoltage {vin : Nat} {same : Bool} {s : State} (hvin : 63000 < vin) (hhigh : vin ≤ 72000)
    (hrail : s.power.standby = true) :
    exec (.inputOvervoltage vin same) s = .next (latchInput 1 same (setVin vin s)) :=
  (goes_on_within_rating hhigh _).trans (if_neg (by simp [hvin, hrail]))

/-- The input current as the module now sees it. -/
def setIin (iin : Nat) (s : State) : State := { s with power := { s.power with iin := iin } }

theorem exec_inputOvercurrent {iin : Nat} {same : Bool} {s : State} (hiin : 78000 < iin) (hrail : s.power.standby = true) :
    exec (.inputOvercurrent iin same) s = .next (latchInput 2 same (setIin iin s)) :=
  if_neg (by simp [hiin, hrail])

theorem latchInput_of_off {cause : Nat} {same : Bool} {s : State} (h : s.power.phase = .off) : latchInput cause same s = s :=
  if_pos h

theorem latchInput_of_ne_off {cause : Nat} {same : Bool} {s : State} (h : s.power.phase ≠ .off) :
    latchInput cause same s = latch cause 0 0 same s :=
  if_neg h

theorem latchInput_of_latched {cause : Nat} {same : Bool} {s : State} (h : s.power.phase = .latched) :
    latchInput cause same s = latch cause 0 0 same s :=
  latchInput_of_ne_off (by simp [h])

theorem latched_latch {cause unit peak : Nat} {same : Bool} {s : State} (h : s.power.phase ≠ .latched) :
    Latched cause unit s (latch cause unit peak same s) := by
  rw [latch_first h]
  exact latched_latchFirst cause unit peak s

/-! ### Precedence in SHUTDOWN_LATCHED (R36) -/

theorem latch_of_latched {cause unit peak : Nat} {same : Bool} {s : State} (h : s.power.phase = .latched) :
    latch cause unit peak same s
      = if same && decide (causeRank cause < causeRank s.shut.cause) then latchBetter cause s else s := by
  simp only [latch, h]

theorem latch_later {cause unit peak : Nat} {s : State} (h : s.power.phase = .latched) :
    latch cause unit peak false s = s :=
  latch_of_latched h

theorem phase_latch_of_latched {cause unit peak : Nat} {same : Bool} {s : State} (h : s.power.phase = .latched) :
    (latch cause unit peak same s).power.phase = .latched := by
  rw [latch_of_latched h]
  split
  · exact h
  · exact h

/-- Of two causes of one microsecond the one that stands before the other is recorded. -/
theorem cause_latch_same {cause unit peak : Nat} {s : State} (h : s.power.phase = .latched) :
    (latch cause unit peak true s).shut.cause
      = if causeRank cause < causeRank s.shut.cause then cause else s.shut.cause := by
  rw [latch_of_latched h, Bool.true_and]
  by_cases hr : causeRank cause < causeRank s.shut.cause
  · rw [if_pos (decide_eq_true hr), if_pos hr]; rfl
  · rw [if_neg (by simpa using hr), if_neg hr]

/-- Nothing stands before overvoltage. -/
theorem overvoltage_precedes (c : Nat) : (if causeRank 1 < causeRank c then 1 else c) = 1 :=
  match c with
  | 0 | 1 | 2 | 3 | _ + 4 => rfl

/-- Only overvoltage stands before overcurrent. -/
theorem overcurrent_precedes (c : Nat) : (if causeRank 2 < causeRank c then 2 else c) = if c = 1 then 1 else 2 :=
  match c with
  | 0 | 1 | 2 | 3 | _ + 4 => rfl

/-- The other two causes of the input stand before undervoltage. -/
theorem undervoltage_precedes (c : Nat) :
    (if causeRank 3 < causeRank c then 3 else c) = if c = 1 ∨ c = 2 ∨ c = 3 then c else 3 :=
  match c with
  | 0 | 1 | 2 | 3 | _ + 4 => rfl

/-! ### The seat sense and the removal of the input -/

theorem exec_shutdownRecordWrite {r : SdRec} {s : State} (hr : s.shut.writing = some r) (hrail : s.power.standby = true)
    (hvin : 20000 ≤ s.power.vin) :
    exec .shutdownRecordWrite s = .next { s with shut := s.shut.record r, fresh := s.fresh + 1 } := by
  change execShutdownRecordWrite s = _
  simp [execShutdownRecordWrite, hr, hrail, hvin]

theorem exec_seatSenseOpen {s : State} (hseat : s.power.seatClosed = true) :
    exec .seatSenseOpen s = .next (if s.power.coreRails
      then seatDown { s with power := { s.power with seatClosed := false, startWait := false } }
      else { s with power := { s.power with seatClosed := false, startWait := false } }) :=
  if_neg (by simp [hseat])

/-- The closing is a cold reset only in OFF after the opening has turned the rails off (R28). -/
theorem exec_seatSenseClose {s : State} (hseat : s.power.seatClosed = false)
    (h : s.power.seatOff = false ∨ s.power.phase ≠ .off) :
    exec .seatSenseClose s = .next { s with power := { s.power with
      seatClosed := true
      startWait := s.power.phase == .off && s.power.standby && decide (49000 ≤ s.power.vin) } } := by
  refine (if_neg (by simp [hseat])).trans ?_
  rw [if_neg (by rcases h with h | h <;> simp [h])]
  simp [waits]

theorem exec_seatSenseClose_cold {s : State} (hseat : s.power.seatClosed = false) (hdown : s.power.seatOff = true)
    (hoff : s.power.phase = .off) :
    exec .seatSenseClose s = .next { coldStandby s with power := { s.power with
      seatClosed := true, seatOff := false, startWait := s.power.standby && decide (49000 ≤ s.power.vin) } } := by
  refine (if_neg (by simp [hseat])).trans ?_
  rw [if_pos ⟨hdown, hoff⟩]
  simp [waits, coldStandby, hoff]

theorem exec_inputRemoved {vin : Nat} {s : State} (hvin : vin < 20000) :
    exec (.inputRemoved vin) s = .next { coldStandby (cleared s) with power := { (cleared s).power with
      phase := .off, vin := vin, iin := 0, standby := false, thermTrip := false, seatOff := false, smbAddr := 0 } } :=
  (goes_on_within_rating (by omega) _).trans (if_neg fun h => Nat.not_le.2 hvin h.1)

/-! ### The loss of the standby rail -/

/-- A write of the shutdown record under way ends, whole or cut short (R452). -/
def endWrite (s : State) : State :=
  match s.shut.writing with
  | some r => { s with shut := if writeEnds s then s.shut.record r else s.shut.push none, fresh := s.fresh + 1 }
  | none => s

/-- The rails that still ran are lost with the standby rail (log 150). -/
def loseRails (s : State) : State :=
  match s.power.phase with
  | .bringup _ | .up => railsOff s
  | _ => s

theorem exec_standbyRailLost {vin : Nat} {s : State} (hvin : vin < 20000) (hrail : s.power.standby = true) :
    exec (.standbyRailLost vin) s = .next { loseRails (endWrite s) with power := { (loseRails (endWrite s)).power with
      standby := false, startWait := false, vin := vin } } :=
  if_neg (by simp [hvin, hrail])

theorem endWrite_eq (s : State) : endWrite s = { s with shut := (endWrite s).shut, fresh := (endWrite s).fresh } := by
  unfold endWrite
  split
  · rfl
  · rfl

theorem endWrite_power (s : State) : (endWrite s).power = s.power := by rw [endWrite_eq]

theorem endWrite_bring (s : State) : (endWrite s).bring = s.bring := by rw [endWrite_eq]

theorem endWrite_writing (s : State) : (endWrite s).shut.writing = none := by
  unfold endWrite
  split
  · dsimp only
    split
    · rfl
    · rfl
  · assumption

theorem loseRails_of_up {s : State} (h : s.power.phase = .up) : loseRails s = railsOff s := by simp only [loseRails, h]

theorem loseRails_shut (s : State) : (loseRails s).shut = s.shut := by
  unfold loseRails
  split
  · rfl
  · rfl
  · rfl

theorem loseRails_bring (s : State) : (loseRails s).bring = s.bring := by
  unfold loseRails
  split
  · rfl
  · rfl
  · rfl

/-- Of a write that ends, only the shutdown records show in what was lost with the rails after it. -/
theorem RailsLost.of_endWrite {s t : State} (h : RailsLost (endWrite s) t) : RailsLost { s with shut := (endWrite s).shut } t := by
  rw [endWrite_eq] at h
  exact ⟨h.stack, h.cache, h.obj, h.sched, h.tiles, h.awls, h.mail, h.ledger, h.hints, h.ring, h.stored, h.pins⟩

end Sys2Proof.Machine
end

section
/-! SUPPORT. The proofs of the statements about the power input and the state before power is applied. -/

namespace Sys2Proof.Machine

/-- Settles O1: each command's equation where it is enabled, with the start wait evaluated; the expiry begins bring-up. -/
theorem powerInputRisesAndBringupStarts : Obligations.PowerInputRisesAndBringupStarts := by
  unfold Obligations.PowerInputRisesAndBringupStarts
  intro s
  refine ⟨?_, ?_, ?_, ?_, ?_⟩
  · intro vin hlow hhigh hoff hseat
    rw [exec_powerApplication hlow hhigh (mayPowerUp_of_off hoff) hseat]
    simp [waits, hoff, hseat]
  · intro vin hlow hhigh hlatched hrail hseat
    rw [exec_powerApplication hlow hhigh (mayPowerUp_of_latched hlatched hrail) hseat, waits_of_phase_ne_off (by simp [hlatched])]
  · intro straps hrail hvin hseat
    exact exec_standbyRailRegulation hrail hvin hseat
  · intro vin seatOpen hhigh hoff hrail
    exact exec_startWaitRestart hhigh hoff hrail
  · intro hwait hoff hrail hseat hvin
    exact ⟨_, exec_startWaitExpiry hwait (waits_eq_true hoff hrail hseat hvin), begun_beginBringup 0 s⟩

/-- Settles O3: each cause reaches the latch as the first one, or, in OFF, only the input's value is noted. -/
theorem inputShutdownLatches : Obligations.InputShutdownLatches := by
  unfold Obligations.InputShutdownLatches
  intro s hrail hfirst
  refine ⟨?_, ?_, ?_, ?_, ?_⟩
  · intro vin same hvin hcore
    exact ⟨_, exec_inputUndervoltage hvin hrail (.inl hcore),
      (latched_latch (s := setVin vin s) hfirst).of_power_before ⟨rfl, rfl⟩ rfl⟩
  · intro vin same hvin hhigh hoff
    refine ⟨_, exec_inputOvervoltage hvin hhigh hrail, ?_⟩
    rw [latchInput_of_ne_off (s := setVin vin s) hoff]
    exact (latched_latch (s := setVin vin s) hfirst).of_power_before ⟨rfl, rfl⟩ rfl
  · intro iin same hiin hoff
    refine ⟨_, exec_inputOvercurrent hiin hrail, ?_⟩
    rw [latchInput_of_ne_off (s := setIin iin s) hoff]
    exact (latched_latch (s := setIin iin s) hfirst).of_power_before ⟨rfl, rfl⟩ rfl
  · intro vin same hvin hhigh hoff
    rw [exec_inputOvervoltage hvin hhigh hrail, latchInput_of_off (s := setVin vin s) hoff]
    rfl
  · intro iin same hiin hoff
    rw [exec_inputOvercurrent hiin hrail, latchInput_of_off (s := setIin iin s) hoff]
    rfl

/-- Settles O4: what a latched module does with a further cause, by the order of R36. -/
theorem shutdownCausePrecedence : Obligations.ShutdownCausePrecedence := by
  unfold Obligations.ShutdownCausePrecedence
  intro s hrail hlatched
  refine ⟨?_, ?_, ?_, ?_, ?_, ?_⟩
  · intro vin hvin
    exact ⟨_, exec_inputUndervoltage hvin hrail (.inr hlatched), phase_latch_of_latched (s := setVin vin s) hlatched,
      (cause_latch_same (s := setVin vin s) hlatched).trans (undervoltage_precedes _)⟩
  · intro vin hvin hhigh
    refine ⟨_, exec_inputOvervoltage hvin hhigh hrail, ?_⟩
    rw [latchInput_of_latched (s := setVin vin s) hlatched]
    exact ⟨phase_latch_of_latched (s := setVin vin s) hlatched,
      (cause_latch_same (s := setVin vin s) hlatched).trans (overvoltage_precedes _)⟩
  · intro iin hiin
    refine ⟨_, exec_inputOvercurrent hiin hrail, ?_⟩
    rw [latchInput_of_latched (s := setIin iin s) hlatched]
    exact ⟨phase_latch_of_latched (s := setIin iin s) hlatched,
      (cause_latch_same (s := setIin iin s) hlatched).trans (overcurrent_precedes _)⟩
  · intro vin hvin
    exact ⟨_, exec_inputUndervoltage hvin hrail (.inr hlatched), latch_later (s := setVin vin s) hlatched⟩
  · intro vin hvin hhigh
    refine ⟨_, exec_inputOvervoltage hvin hhigh hrail, ?_⟩
    exact (latchInput_of_latched (s := setVin vin s) hlatched).trans (latch_later (s := setVin vin s) hlatched)
  · intro iin hiin
    refine ⟨_, exec_inputOvercurrent hiin hrail, ?_⟩
    exact (latchInput_of_latched (s := setIin iin s) hlatched).trans (latch_later (s := setIin iin s) hlatched)

/-- Settles O5: each command's equation where it is enabled, and what its state keeps of the one before. -/
theorem removalAndShutdownRecord : Obligations.RemovalAndShutdownRecord := by
  unfold Obligations.RemovalAndShutdownRecord
  intro s
  refine ⟨?_, ?_, ?_, ?_, ?_, ?_, ?_⟩
  · intro r hr hrail hvin
    exact exec_shutdownRecordWrite hr hrail hvin
  · intro hseat hcore
    refine ⟨_, exec_seatSenseOpen hseat, ?_⟩
    rw [if_pos hcore]
    exact ⟨(railsLost_seatDown _).of_power_before ⟨rfl, rfl⟩, rfl, rfl, rfl, rfl, rfl⟩
  · intro hseat hcore
    rw [exec_seatSenseOpen hseat, hcore, if_neg Bool.false_ne_true]
  · intro hseat hdown
    exact exec_seatSenseClose hseat hdown
  · intro hseat hdown hoff
    exact ⟨_, exec_seatSenseClose_cold hseat hdown hoff, rfl, rfl, rfl, rfl, rfl, rfl, rfl, rfl, rfl⟩
  · intro vin hvin
    refine ⟨_, exec_inputRemoved hvin, ?_, rfl, rfl, rfl, rfl, rfl⟩
    exact (railsLost_cleared s).coldStandby_after.power_after ⟨rfl, rfl⟩
  · intro vin hvin hrail
    refine ⟨_, exec_standbyRailLost hvin hrail, rfl, rfl, rfl, ?_, ?_, ?_⟩
    · exact (congrArg Shutdown.writing (loseRails_shut _)).trans (endWrite_writing s)
    · intro hup
      rw [loseRails_of_up (by rw [endWrite_power, hup])]
      have hpins : (endWrite s).power.perstN = s.power.perstN ∧ (endWrite s).power.smbAddr = s.power.smbAddr := by
        rw [endWrite_power]
        exact ⟨rfl, rfl⟩
      exact ⟨(railsLost_railsOff _).of_endWrite.power_after hpins, rfl⟩
    · exact congrArg BringUp.ledger ((loseRails_bring _).trans (endWrite_bring s))

/-- Settles O2: the rating is checked before anything else, and past it each of the commands is idle or goes on. -/
theorem absoluteMaximumInputFaults : Obligations.AbsoluteMaximumInputFaults := by
  unfold Obligations.AbsoluteMaximumInputFaults
  intro s vin b
  constructor
  · intro h
    exact ⟨faults_of_overRating h _, faults_of_overRating h _, faults_of_overRating h _, faults_of_overRating h _⟩
  · intro h
    have completes (c : Prop) [Decidable c] (u : State) :
        ∃ t, (if overRating vin then .fault .beyondAbsoluteMaximum else if c then idle s else .next u) = .next t := by
      rw [goes_on_within_rating h]
      exact completes_idle_or_next c s u
    exact ⟨completes _ _, completes _ _, completes _ _, completes _ _⟩

/-- Settles O57: the reset state holds nothing, and from it the seat closes, 56 V rise, the standby rail comes up and the
start wait expires. -/
theorem resetState : Obligations.ResetState := by
  unfold Obligations.ResetState
  refine ⟨rfl, rfl, rfl, fun a => Tab.get_nil 0 a, fun i => Tab.get_nil _ i, rfl, rfl, rfl, rfl, rfl, rfl, rfl, rfl,
    ⟨rfl, rfl⟩, _, _, _, _, exec_seatSenseClose rfl (.inl rfl), exec_powerApplication ?_ ?_ rfl rfl,
    exec_standbyRailRegulation rfl ?_ rfl, exec_startWaitExpiry rfl rfl, (begun_beginBringup 0 _).phase⟩
  · decide
  · decide
  · decide

end Sys2Proof.Machine
end
